-- ==== Sys2Proof/Word.lean ====
section
/-! DEFINITION. The widths of the Zerjas 2640's words, addresses and numbers (00_scope.md, Conventions). -/

namespace Sys2Proof

/-- A 32-bit word. -/
abbrev Word := BitVec 32

/-- A byte. -/
abbrev Byte := BitVec 8

/-- A byte address on the 24-bit buses of the part. -/
abbrev Addr := BitVec 24

/-- The four byte enables of an access; bit k is byte lane k. -/
abbrev Lanes := BitVec 4

/-- A room, and the panel at its entrance (00_scope.md: "Room numbers and panel numbers are the same"). -/
abbrev Room := Fin 64

/-- A booking slot of a room. -/
abbrev SlotNo := Fin 16

/-- A catering order index. -/
abbrev OrderIx := Fin 128

/-- A panel loop. -/
abbrev LoopNo := Fin 4

end Sys2Proof
end

