-- ==== Sys2Proof/Syntax.lean ====
section
/-! DEFINITION. The commands of the Zerjas 2640: one constructor for each row of spec/opcode_table.json. -/

namespace Sys2Proof

/-- One access of the host at the host-side port (00_scope.md, Pins): read or write, byte address, data and byte
enables. The data of a read has no effect. -/
structure HostAccess where
  write : Bool
  addr  : Addr
  data  : Word
  lanes : Lanes
  deriving DecidableEq, Repr

/-- The commands. Each names the row of the opcode table it stands for and the rule of its meaning. -/
inductive Instr where
  /-- HARDWARE_RESET (R16): RESET is asserted with this value on CPS2..CPS0. -/
  | hardwareReset (straps : BitVec 3)
  /-- TICK (R94): a pulse on TICK. -/
  | tick
  /-- MINUTE_EXPIRY (R96): the pulse that carries into the minute. -/
  | minuteExpiry
  /-- DAY_END_EXPIRY (R97): the pulse that carries past minute 1439. -/
  | dayEndExpiry
  /-- HOST_ACCESS_PASS (R3): a host access, read or write. -/
  | hostAccessPass (access : HostAccess)
  /-- WITHHELD_WRITE (R4): a host write to a protected word or a report word. -/
  | withheldWrite (addr : Addr) (data : Word) (lanes : Lanes)
  /-- CONTROL_PAGE_WRITE (R6): a host write to word `word` of the Control Page. -/
  | controlPageWrite (word : Fin 64) (data : Word) (lanes : Lanes)
  /-- PARTIAL_ACTION_WRITE (R7): a host write with fewer than four byte enables to an action word. -/
  | partialActionWrite (word : Fin 64) (data : Word) (lanes : Lanes)
  /-- CLOCK_WRITE (R19): a host write to word 2. -/
  | clockWrite (data : Word) (lanes : Lanes)
  /-- BANK_WRITE (R19): a host write to word 3. -/
  | bankWrite (data : Word) (lanes : Lanes)
  /-- TRAP_ENABLE_WRITE (R81): a host write to word 9. -/
  | trapEnableWrite (data : Word) (lanes : Lanes)
  /-- INT_ENABLE_WRITE (R35): a host write to word 16. -/
  | intEnableWrite (data : Word) (lanes : Lanes)
  /-- FLAGS_WRITE (R29): a whole-word host write to word 10. -/
  | flagsWrite (data : Word)
  /-- TRAP_TAKEN (R31): a whole-word host write to word 11. -/
  | trapTaken (data : Word)
  /-- INT_PENDING_WRITE (R34): a whole-word host write to word 17. -/
  | intPendingWrite (data : Word)
  /-- CHANGE_SUMMARY_READ (R32): a host read of word 18, or of word 19 when `high`, with these byte enables. -/
  | changeSummaryRead (high : Bool) (lanes : Lanes)
  /-- START_CLEAN (R23): a whole-word write of code 1 to word 1; `rest` is bits 31..4. -/
  | startClean (rest : BitVec 28)
  /-- START_KEEP (R23): code 2. -/
  | startKeep (rest : BitVec 28)
  /-- RESTART (R27): code 3. -/
  | restart (rest : BitVec 28)
  /-- KITCHEN_CLEAR (R177): code 4. -/
  | kitchenClear (rest : BitVec 28)
  /-- REBASE (R28): code 5; the room and ALL stand in `rest`. -/
  | rebase (rest : BitVec 28)
  /-- SWAP (R109): code 6; the loop and the positions stand in `rest`. -/
  | swap (rest : BitVec 28)
  /-- COMMAND_UNKNOWN (R22): a whole-word write to word 1 of a code that names no command. -/
  | commandUnknown (code : BitVec 4) (rest : BitVec 28)
  /-- HOST_PROPOSAL_WRITE (R8): a host write to W0, W1 or W2 of a slot. -/
  | hostProposalWrite (addr : Addr) (data : Word) (lanes : Lanes)
  /-- DRAFT_NOTICE (R45): the pending draft notice of a slot of Book B (`bookB`) or Book A is applied. -/
  | draftNotice (bookB : Bool) (room : Room) (slot : SlotNo)
  /-- HOST_REQUEST_WRITE (R9): a whole-word host write to W3 of a slot. -/
  | hostRequestWrite (addr : Addr) (data : Word)
  /-- PARTIAL_REQUEST_WRITE (R9): a host write to W3 with fewer than four byte enables. -/
  | partialRequestWrite (addr : Addr) (data : Word) (lanes : Lanes)
  /-- ORDER_WORD_WRITE (R11): a host write to O0 to O3 of an order. -/
  | orderWordWrite (addr : Addr) (data : Word) (lanes : Lanes)
  /-- PAGE_LINE1_WRITE (R12): a host write to line 1 of a page. -/
  | pageLine1Write (addr : Addr) (data : Word) (lanes : Lanes)
  /-- DIRECTORY_WRITE (R13): a host write to the Room Directory. -/
  | directoryWrite (addr : Addr) (data : Word) (lanes : Lanes)
  /-- MEMORY_ACCESS_COMPLETE (R14): memory completes the granted access, with or without an error. `nextFirst`: the
  requester's next access, and whatever else the completion gives rise to, arrives before the next grant (R14 leaves it to
  the world). -/
  | memoryAccessComplete (error : Bool) (nextFirst : Bool)
  /-- REQUEST_NEW (R70): the schedule arbiter takes the request claim of kind NEW. -/
  | requestNew
  /-- REQUEST_AMEND (R71). -/
  | requestAmend
  /-- REQUEST_CANCEL (R72). -/
  | requestCancel
  /-- REQUEST_NONE (R51). -/
  | requestNone
  /-- BAD_REQUEST (R64). -/
  | badRequest
  /-- CLEAN_VISIT (R100): the arbiter takes the visit of the cursor's slot in a CLEAN pass. -/
  | cleanVisit
  /-- KEEP_VISIT (R101). -/
  | keepVisit
  /-- TURNOVER_OPENING (R105): the opening claim of a TURNOVER pass. -/
  | turnoverOpening
  /-- TURNOVER_VISIT (R105). -/
  | turnoverVisit
  /-- AUTO_CHECKIN (R143, row 1): the arbiter takes the minute-driven claim. -/
  | autoCheckin
  /-- TIME_END (R143, rows 2 and 4). -/
  | timeEnd
  /-- RESOLVE (R144, row 3 of R143). -/
  | resolve
  /-- VACANCY_END (R145, row 5 of R143). -/
  | vacancyEnd
  /-- PANEL_EVENT_TAKEN (R147): the Attendance Unit takes the head of the Panel Event Queue. -/
  | panelEventTaken
  /-- CHECKIN (R148): the arbiter takes the panel claim. -/
  | checkin
  /-- END (R149). -/
  | endBooking
  /-- EXTEND (R150). -/
  | extend
  /-- BOOKNOW (R150). -/
  | booknow
  /-- PRESENCE_REPORT (R140): the PRESENT reports held for a room are applied. -/
  | presenceReport (room : Room)
  /-- RETURN_NOTICE (R141): the return notice held for a room is applied. -/
  | returnNotice (room : Room)
  /-- ROUND_START (R110): a loop's round timer runs out. -/
  | roundStart (loop : LoopNo)
  /-- POLL (R112): the loop assembles and begins to send the next poll of its round. -/
  | poll (loop : LoopNo)
  /-- REPLY_WAIT_EXPIRY (R113). -/
  | replyWaitExpiry (loop : LoopNo)
  /-- REPLY_GAP_EXPIRY (R113). -/
  | replyGapExpiry (loop : LoopNo)
  /-- REPLY (R114): a whole reply frame, as the bytes received. -/
  | reply (loop : LoopNo) (bytes : List Byte)
  /-- FRAME_SENT (R169): the last bit of the frame on the kitchen link has been sent. -/
  | frameSent
  /-- KITCHEN_ANSWER (R170): a whole answer frame, as the six words received. -/
  | kitchenAnswer (sync station orderNumber ticketIndex verdict checksum : Word)
  /-- FRAME_RESEND (R173): the byte time before a resend is over. -/
  | frameResend
  /-- ANSWER_WAIT_EXPIRY (R175): KWAIT has run out. -/
  | answerWaitExpiry
  /-- END_OF_RESET (R16): RESET is released. -/
  | endOfReset
  /-- POLL_SENT (R113): the last bit of a poll's CRC has been sent. -/
  | pollSent (loop : LoopNo)
  /-- REPLY_START_BIT (R113). -/
  | replyStartBit (loop : LoopNo)
  /-- ROUND_END_AFTER_GAP (R113): one byte time after the exchange with the last panel of the round. -/
  | roundEndAfterGap (loop : LoopNo)
  /-- NEXT_FRAME_GAP_END (R170): the byte time with the driver off after an answer is over. -/
  | nextFrameGapEnd
  deriving DecidableEq, Repr

end Sys2Proof
end

