-- ==== Sys2Proof/Decode.lean ====
section
/-! DEFINITION. Commands from bits. No row of spec/opcode_table.json gives bits ("fields": [] in every row, and no
"fixed"), so no word spells a command. -/

namespace Sys2Proof

/-- The command that a word spells by the table's bits: none, for every word. -/
def decodeTableWord (_nbits _w : Nat) : Option Instr := none

end Sys2Proof
end

