-- ==== Sys2Proof/Config.lean ====
section
/-! DEFINITION. What the spec leaves open: constants with no body, so that no proof can see what they are (assumption log
entry 9). -/

namespace Sys2Proof

/-- The n-th free word: the data of a read that memory reported an error for (R15: "Returned read data is then of no
meaning"), and what a write that memory reported an error for leaves in the lanes it enabled (R52: "W3 in memory holds
whatever the failed write left"; R100). -/
opaque Config.freeWord : Nat → Word

end Sys2Proof
end

