-- ==== Sys2Proof/Machine/State.lean ====
section
/-! DEFINITION. The state of the Zerjas 2640 as plain data, block by block (00_scope.md, Blocks), and its value right after
hardware RESET. INVENTORY.md lists every piece with the rule that names it. -/

namespace Sys2Proof.Machine

/-- Sparse data by key: (key, value) pairs with keys rising; a key that is not listed holds a default value, and no pair
holds the default value (Table.wf in Machine/Ops.lean). -/
abbrev Table (α : Type) := List (Nat × α)

/-! ### Names of the spec -/

/-- The physical booking areas (R36). -/
inductive Book | bookA | bookB
  deriving DecidableEq, Repr

/-- The bank roles (R36). -/
inductive Role | today | next
  deriving DecidableEq, Repr

/-- The phases (R20). -/
inductive Phase | setup | walking | running
  deriving DecidableEq, Repr

/-- The pass kinds (R98). -/
inductive PassKind | none | clean | keep | turnover
  deriving DecidableEq, Repr

/-- The booking states of W5 (R40). -/
inductive BookingState | empty | booked | inUse | ended | released | cancelled | refused
  deriving DecidableEq, Repr

/-- The states of a LIVE booking (R54). -/
inductive LiveState | booked | inUse
  deriving DecidableEq, Repr

/-- End causes (R39). -/
inductive EndCause | none | time | panel | vacant
  deriving DecidableEq, Repr

/-- Check-in sources (R39). -/
inductive Source | none | panel | presence | auto
  deriving DecidableEq, Repr

/-- Origins (R41). -/
inductive Origin | request | panel
  deriving DecidableEq, Repr

/-- Refusal reasons, in the order of their codes (R42, section 12.3). -/
inductive Reason
  | none | badRequest | badTime | past | badRoom | slotTaken | notLive | badOrder | orderInUse | memory | full | clash
  | crowd | noSlot | notAllowed | notOpen
  deriving DecidableEq, Repr

/-- The six exception kinds (R77). -/
inductive Kind | void | full | clash | crowd | short | trim
  deriving DecidableEq, Repr

/-- A set of exception kinds: the K of R63, or the trap-enable marks of R81. -/
structure KindSet where
  void  : Bool := false
  full  : Bool := false
  clash : Bool := false
  crowd : Bool := false
  short : Bool := false
  trim  : Bool := false
  deriving DecidableEq, Repr

/-- The outcome marks of W5 (R39). -/
structure Marks where
  trimmed    : Bool := false
  capped     : Bool := false
  noCatering : Bool := false
  deriving DecidableEq, Repr

/-- A slot named by physical book, room and slot (00_scope.md, Slot address). -/
structure SlotRef where
  book : Book
  room : Room
  slot : SlotNo
  deriving DecidableEq, Repr

/-! ### Memory Path Switch -/

/-- The bases of the windows that are ON from the acceptance of START (R1). -/
structure Windows where
  bookA     : Addr
  bookB     : Addr
  orders    : Addr
  pages     : Addr
  directory : Addr
  deriving DecidableEq, Repr

/-- Whose access stands at the memory-side arbiter (R14), and for what. -/
inductive Owner
  /-- A passed or captured host access. -/
  | host
  /-- A held host write that has been released (R10). -/
  | hostRelease
  /-- An access of the claim in progress. -/
  | aduClaim
  /-- A write left over from a claim that has ended (R52, R75). -/
  | aduTail
  /-- A write of an order record (R156). -/
  | cqu
  /-- A read of a frame's assembly (R168). -/
  | klcAssembly
  /-- The final write after RESTART (R179). -/
  | klcFinal
  /-- A read of a KEEP visit (R101, R103). -/
  | bsc
  /-- Accesses that were granted when RESTART reset their block, which run "to completion" (R17): a write on a Bank Scanner
  claim, a write of an order record, a read of a KEEP visit. An error on one of them sets MEMERR (R15, R29). -/
  | orphanVisit | orphanCqu | orphanBsc
  /-- Accesses that were granted when RESTART reset their block: one of an admission or a lifecycle claim, and a read of an
  assembly. Nothing follows, which is the model's choice (assumption log entry 36). `orphanKlc` is also a granted read of
  an assembly that an attach notice ended (assumption log entry 44). -/
  | orphanAdu | orphanKlc
  deriving DecidableEq, Repr

/-- The requesters of R14. -/
inductive Requester | host | adu | cqu | klc | bsc
  deriving DecidableEq, Repr

/-- One word access at the memory-side arbiter. -/
structure Access where
  owner : Owner
  write : Bool
  addr  : Addr
  data  : Word
  lanes : Lanes
  deriving DecidableEq, Repr

/-- The waiting accesses, at most one per requester (R14). -/
structure Waiting where
  host : Option Access := none
  adu  : Option Access := none
  cqu  : Option Access := none
  klc  : Option Access := none
  bsc  : Option Access := none
  deriving DecidableEq, Repr

/-- What the host-side port shows: no access yet, an access in progress with ready stretched, or the completion of the
latest access with its read data and the error passed back (R3). -/
inductive HostResult
  | nothing
  | stalled
  | done (data : Option Word) (error : Bool)
  deriving DecidableEq, Repr

/-- The state of the Memory Path Switch. -/
structure Mps where
  straps     : BitVec 3 := 0
  controlOn  : Bool := true
  windows    : Option Windows := none
  held       : Option HostAccess := none
  locked     : Table Bool := []
  granted    : Option Access := none
  waiting    : Waiting := {}
  hostResult : HostResult := .nothing
  deriving DecidableEq, Repr

/-! ### Control Unit -/

/-- The stored values of the setting words (R18), by word number. -/
structure Shadow where
  w2  : Word := 0
  w3  : Word := 0
  w4  : Word := 0
  w5  : Word := 0
  w6  : Word := 0
  w7  : Word := 0
  w8  : Word := 0
  w9  : Word := 0
  w16 : Word := 0
  w24 : Word := 0x1EA7AA8F
  w25 : Word := 0x00008323
  w26 : Word := 0x0020F102
  w27 : Word := 0x14146428
  w28 : Word := 0x0021030A
  deriving DecidableEq, Repr

/-- The status of the command word (R22). -/
inductive CommandStatus | busy | done | refused
  deriving DecidableEq, Repr

/-- The reasons of the command word (R22). -/
inductive CommandReason | none | busy | phase | unknown | layout | setting | notHalted
  deriving DecidableEq, Repr

/-- The command state (R22). The argument holds the argument's bits in their places in word 1. -/
structure CommandState where
  code     : BitVec 4 := 0
  argument : Word := 0
  status   : CommandStatus := .done
  reason   : CommandReason := .none
  deriving DecidableEq, Repr

/-- The two STARTs (R22). -/
inductive StartKind | clean | keep
  deriving DecidableEq, Repr

/-- The claims that are admissions (R63), in the order of their codes in a trap record. -/
inductive AdmissionKind | new | amend | cancel | badRequest | booknow | extend
  deriving DecidableEq, Repr

/-- A trap record (R89). -/
structure TrapRecord where
  kind      : Kind
  completed : Bool
  kinds     : KindSet
  reason    : Reason
  origin    : Origin
  request   : AdmissionKind
  book      : Book
  role      : Role
  room      : Room
  slot      : Option SlotNo
  day       : Nat
  minute    : Nat
  start     : Nat
  stop      : Nat
  deriving DecidableEq, Repr

/-- The state of the Control Unit. -/
structure Ctu where
  shadow       : Shadow := {}
  clockGood    : Bool := true
  phase        : Phase := .setup
  command      : CommandState := {}
  runningStart : Option StartKind := none
  flags        : Word := 0
  trapSlot     : Option TrapRecord := none
  changes      : BitVec 64 := 0
  kitchenCause : Bool := false
  scanCause    : Bool := false
  directory    : Table Word := []
  deriving DecidableEq, Repr

/-! ### Campus Clock -/

/-- The state of the Campus Clock (section 6.1). -/
structure Clock where
  second         : Nat := 0
  minute         : Nat := 0
  day            : Nat := 0
  today          : Book := .bookA
  deferredMinute : Bool := false
  deferredDayEnd : Bool := false
  heldDayEnd     : Bool := false
  deriving DecidableEq, Repr

/-! ### Admission Unit -/

/-- An owned Interval Pool entry (R54). -/
structure PoolEntry where
  at_           : SlotRef
  start         : Nat
  stop          : Nat
  attendees     : Nat
  state         : LiveState
  source        : Source
  checkinMinute : Option Nat
  origin        : Origin
  order         : Option OrderIx
  marks         : Marks
  reason        : Reason
  presenceSeen  : Bool
  deadline      : Nat
  deriving DecidableEq, Repr

/-- A Slot Map entry (R44). -/
inductive SlotState
  | free
  | draft
  | live (entry : Nat)
  deriving DecidableEq, Repr

/-- What a claim reads when it is taken: the bank role of its book, now and the day (R60). -/
structure Taken where
  role : Role
  now  : Nat
  day  : Nat
  deriving DecidableEq, Repr

/-- The kind of a booking's death, as its notice carries it (R76). -/
inductive DeathKind
  | cancel
  | release
  | ended (cause : EndCause)
  deriving DecidableEq, Repr

/-- The notices to the Catering Queue Unit (R76). -/
inductive Notice
  | attach (order : OrderIx) (role : Role) (at_ : SlotRef) (start due : Nat)
  | move (order : OrderIx) (start due : Nat)
  | shortDetach (order : OrderIx)
  | death (order : OrderIx) (kind : DeathKind)
  deriving DecidableEq, Repr

/-- An admission (R63): its claim as taken. `slot` is none for a panel admission that found no slot. -/
structure Admission where
  kind       : AdmissionKind
  book       : Book
  room       : Room
  slot       : Option SlotNo
  taken      : Taken
  quietTrim  : Bool
  quietShort : Bool
  minutes    : Nat
  deriving DecidableEq, Repr

/-- The outcome of an admission's checks (R63): a refusal; an admission with the entry as it will stand and the notices it
gives; or an admitted CANCEL with its notices. -/
inductive Judgement
  | refused (reason : Reason)
  | admitted (entry : PoolEntry) (notices : List Notice)
  | cancelled (notices : List Notice)
  deriving DecidableEq, Repr

/-- An admission after its trap decision: K, the trap-enable marks as read at the decision (R81), and the outcome. -/
structure Judged where
  kinds   : KindSet
  enabled : KindSet
  outcome : Judgement
  deriving DecidableEq, Repr

/-- A memory write still to be made. -/
abbrev WordWrite := Addr × Word

/-- How far an admission has come: the reads of stage 2; the reads of W4 to W6 that R74 makes before it writes a refusal
back; the writes of stage 5, where `second` marks the second writing of R74. A read for which memory reported an error
stands as none. -/
inductive AdmissionStage
  | proposal (got : List (Option Word))
  | readBack (judged : Judged) (got : List (Option Word))
  | writing (judged : Judged) (back : List Word) (todo : List WordWrite) (second : Bool)
  deriving DecidableEq, Repr

/-- The rows of the walk's table (R143). -/
inductive WalkRow | autoCheckin | timeEndBooked | resolve | timeEndInUse | vacancyEnd
  deriving DecidableEq, Repr

/-- A minute-driven claim: its row and the booking it names (R60, R143). -/
structure MinuteClaim where
  row   : WalkRow
  at_   : SlotRef
  entry : Nat
  deriving DecidableEq, Repr

/-- What a lifecycle claim does to its booking (R75). -/
inductive LifeChange
  | checkin (source : Source)
  | release
  | ended (cause : EndCause)
  deriving DecidableEq, Repr

/-- A lifecycle claim that is being carried out (R75); `panel` marks a claim of a panel button. -/
structure LifeWork where
  change : LifeChange
  at_    : SlotRef
  entry  : Nat
  taken  : Taken
  panel  : Bool
  deriving DecidableEq, Repr

/-- The claim in progress (R59) with the stage it has reached. In a KEEP visit a read of the order for which memory reported
an error stands as none. -/
inductive Claim
  | admission (a : Admission) (stage : AdmissionStage)
  | lifecycle (w : LifeWork) (words : List WordWrite) (todo : List WordWrite) (failed second : Bool)
  | cleanVisit (at_ : SlotRef) (todo : List WordWrite)
  | turnoverVisit (at_ : SlotRef) (todo : List WordWrite)
  | keepReading (at_ : SlotRef) (taken : Taken) (got : List (Option Word))
  | keepWriting (at_ : SlotRef) (rebuilt : Bool) (todo : List WordWrite)
  deriving DecidableEq, Repr

/-- What an error on a left-over write brings about: nothing (an admission's W7, R74; a second writing, R75), the second
writing of a lifecycle claim (R75), or MEMERR (a scanner visit, R100). -/
inductive TailKind
  | ignored
  | lifecycle (words : List WordWrite)
  | scanner
  deriving DecidableEq, Repr

/-- The last writes of a claim that has ended. -/
structure Tail where
  todo : List WordWrite
  kind : TailKind
  deriving DecidableEq, Repr

/-- A request claim handed over by the switch (R49). -/
structure RequestClaim where
  at_  : SlotRef
  word : Word
  deriving DecidableEq, Repr

/-- The state of the Admission Unit (chapter 4). `drafts` are the pending draft marks of R45; that none is pending after hardware
RESET and RESTART is the model's choice (assumption log entry 47). -/
structure Adu where
  pool      : Table (Option PoolEntry) := []
  freeList  : List Nat := List.range 1024
  schedules : Table (List Nat) := []
  slotMap   : Table SlotState := []
  bindings  : Table (Option Nat) := []
  drafts    : Table Bool := []
  request   : Option RequestClaim := none
  claim     : Option Claim := none
  tail      : Option Tail := none
  deriving DecidableEq, Repr

/-! ### Bank Scanner -/

/-- The state of the Bank Scanner (section 6.2). -/
structure Bsc where
  pass      : PassKind := .none
  cursor    : SlotRef := ⟨.bookA, 0, 0⟩
  opening   : Bool := false
  presented : Bool := false
  deriving DecidableEq, Repr

/-! ### Panel Loop Unit -/

/-- A character cell: a 7-bit code and a REVERSE mark (R119). -/
structure Cell where
  code    : BitVec 7 := 0x20
  reverse : Bool := false
  deriving DecidableEq, Repr

/-- Chimes, in the order of their codes (R121, R181). -/
inductive Chime | none | warn | refuse | confirm
  deriving DecidableEq, Repr

/-- Loop modes (R111). -/
inductive LoopMode | fast | slow
  deriving DecidableEq, Repr

/-- The round timer (R110): stopped, running with this interval in seconds from the start of the round, or run out. R124
gives it no value after RESET and RESTART: stopped then, and on a silent loop (assumption log entry 38). -/
inductive RoundTimer
  | stopped
  | running (seconds : Nat)
  | runOut
  deriving DecidableEq, Repr

/-- A scan position's content: a panel address and its room (R108). -/
structure Listed where
  address : Nat
  room    : Room
  deriving DecidableEq, Repr

/-- How far an exchange has come (R113): the poll is being sent, the reply wait runs, or a reply has begun. -/
inductive ExchangeStage | sending | waiting | receiving
  deriving DecidableEq, Repr

/-- The exchange in progress (R112), with the poll frame as it was assembled. -/
structure Exchange where
  position     : Nat
  listed       : Listed
  page         : Bool
  chime        : Chime
  pageRenewal  : Bool := false
  chimeRenewal : Bool := false
  stage        : ExchangeStage := .sending
  frame        : List Byte
  deriving DecidableEq, Repr

/-- The state of one loop (chapter 7). `polls` counts the polls made in the round under way. The stopped timer is the model's
choice (assumption log entry 38). -/
structure Loop where
  positions  : Table (Option Listed) := []
  mode       : LoopMode := .fast
  stay       : Nat := 0
  windowHeld : Bool := false
  timer      : RoundTimer := .stopped
  inRound    : Bool := false
  roundList  : List (Nat × Listed) := []
  polls      : Nat := 0
  exchange   : Option Exchange := none
  deriving DecidableEq, Repr

/-- Sixteen blank cells (R124). -/
def blankLine : List Cell := List.replicate 16 {}

/-- The state of one panel (chapter 7). -/
structure Panel where
  online  : Bool := false
  misses  : Nat := 0
  lastTag : Option (BitVec 3) := none
  line1   : List Cell := blankLine
  dirty   : Bool := false
  chime   : Chime := .none
  deriving DecidableEq, Repr

/-- Panel buttons (R114). -/
inductive Button | checkin | extend | end_ | booknow
  deriving DecidableEq, Repr

/-- An entry of the Panel Event Queue (R118). -/
structure PanelEvent where
  room     : Room
  button   : Button
  argument : Nat
  tag      : BitVec 3
  deriving DecidableEq, Repr

/-- The state of the Panel Loop Unit. -/
structure Plu where
  loops     : Table Loop := []
  panels    : Table Panel := []
  events    : List PanelEvent := []
  expiryDue : Bool := false
  deriving DecidableEq, Repr

/-! ### Occupancy Filter -/

/-- Whose account a last-present record stands on (R132). -/
inductive RecordSource | sample | returned
  deriving DecidableEq, Repr

/-- A last-present record (R132). -/
structure LastPresent where
  day    : Nat
  minute : Nat
  source : RecordSource
  deriving DecidableEq, Repr

/-- One filter (R126). `initDone` is the initialisation mark: DONE when true, PENDING when false. -/
structure Filter where
  initDone    : Bool := false
  history     : List Nat := []
  baseline    : Nat := 0
  bucket      : Nat := 0
  low         : Nat := 0
  debounce    : Nat := 0
  present     : Bool := false
  lastPresent : Option LastPresent := none
  deriving DecidableEq, Repr

/-- The state of the Occupancy Filter. -/
structure Ocf where
  filters : Table Filter := []
  deriving DecidableEq, Repr

/-! ### Attendance Unit -/

/-- A day and a minute of it. -/
structure Stamp where
  day    : Nat
  minute : Nat
  deriving DecidableEq, Repr

/-- What the Attendance Unit holds for a room (R138). -/
structure RoomState where
  refusal : Bool := false
  note    : Option Stamp := none
  line    : List Cell := blankLine
  deriving DecidableEq, Repr

/-- The walk (R138, R143): the minute of the expiry being worked, and the position reached: a room, and the least start in
it still to be examined. -/
structure Walk where
  minute : Nat
  room   : Nat
  start  : Nat
  deriving DecidableEq, Repr

/-- The state of the Attendance Unit. `reports` and `returns` are the PRESENT reports and the return notices of each room that
wait to be applied, in their order (R140, R141); `minuteClaim` is the walk's claim that stands at the arbiter; `expiries` are
the minutes of the expiries still to be worked. -/
structure Atu where
  rooms       : Table RoomState := []
  reports     : Table (List Stamp) := []
  returns     : Table (List Stamp) := []
  walk        : Option Walk := none
  minuteClaim : Option MinuteClaim := none
  expiries    : List Nat := []
  panelEvent  : Option PanelEvent := none
  panelTaken  : Bool := false
  deriving DecidableEq, Repr

/-! ### Catering Queue Unit -/

/-- The order states, in the order of their codes (R157, section 12.4). -/
inductive OrderState
  | unused | attached | due | sending | accepted | detached | cancelled | recalling | recalled | failed
  deriving DecidableEq, Repr

/-- Verdicts (R155). -/
inductive KitchenVerdict | none | accept | checkfail
  deriving DecidableEq, Repr

/-- Failure reasons (R155). -/
inductive FailureReason | none | soft | stale
  deriving DecidableEq, Repr

/-- A HELD entry of the order status table (R155). -/
structure OrderEntry where
  state    : OrderState
  resend   : Bool
  at_      : SlotRef
  role     : Role
  start    : Nat
  lead     : Nat
  due      : Nat
  accepted : Nat
  total    : Nat
  verdict  : KitchenVerdict
  retries  : Nat
  failure  : FailureReason
  deriving DecidableEq, Repr

/-- The state of the Catering Queue Unit. An entry of `entries` that is none is NOT-HELD. `writing` is the order whose
words are being written and the number 0..3 of the word presented (O4 to O7). -/
structure Cqu where
  entries   : Table (Option OrderEntry) := []
  queue     : List OrderIx := []
  recalls   : List OrderIx := []
  writeList : List OrderIx := []
  writing   : Option (OrderIx × Nat) := none
  deriving DecidableEq, Repr

/-! ### Kitchen Link Controller -/

/-- Link states (R167). -/
inductive Link | idle | sending | awaiting | halted
  deriving DecidableEq, Repr

/-- Frame kinds (R167). -/
inductive FrameKind | ticket | recall
  deriving DecidableEq, Repr

/-- Disposition marks (R163). -/
inductive Disposition | none | move | short | release | ended
  deriving DecidableEq, Repr

/-- Halt reasons (R175). -/
inductive HaltReason | none | soft | silent | station | memory
  deriving DecidableEq, Repr

/-- The in-flight context (R167). -/
structure Context where
  order       : OrderIx
  kind        : FrameKind
  ticketIndex : Nat
  mark        : Disposition
  mismatches  : Nat
  deriving DecidableEq, Repr

/-- What the controller is doing with its frame: nothing; reading its words (R168); holding it until the gap is over
(R170); sending it (R169); waiting the byte time before it sends it again (R173). -/
inductive KlcStage
  | quiet
  | assembling (got : List Word)
  | assembled
  | onWire
  | resendGap
  deriving DecidableEq, Repr

/-- The record kept over RESTART (R179), with the addresses of the order's O6 and O7, which the model fixes at the RESTART
(assumption log entry 42). -/
structure Residue where
  order       : OrderIx
  kind        : FrameKind
  ticketIndex : Nat
  accepted    : Nat
  total       : Nat
  retries     : Nat
  addr6       : Addr
  addr7       : Addr
  deriving DecidableEq, Repr

/-- The state of the Kitchen Link Controller. `finishing`: the frame on the wire is sent to its end and its answer disregarded,
as after hardware RESET (R178), and, which is the model's choice, when its order has been placed anew (assumption log entry
44). -/
structure Klc where
  link      : Link := .idle
  context   : Option Context := none
  stage     : KlcStage := .quiet
  buffer    : List Word := []
  gap       : Bool := false
  halt      : HaltReason := .none
  residue   : Option Residue := none
  finishing : Bool := false
  final     : List WordWrite := []
  deriving DecidableEq, Repr

/-! ### The machine -/

/-- The state of the part, the memory behind it, the RESET pin, the count of free values used, and the queue of commands
that wait. -/
structure State where
  mps           : Mps := {}
  ctu           : Ctu := {}
  clock         : Clock := {}
  adu           : Adu := {}
  bsc           : Bsc := {}
  plu           : Plu := {}
  ocf           : Ocf := {}
  atu           : Atu := {}
  cqu           : Cqu := {}
  klc           : Klc := {}
  mem           : List Host.Cell := []
  resetAsserted : Bool := false
  freeCount     : Nat := 0
  pending       : List Instr := []
  deriving DecidableEq, Repr

/-- The reasons a step can stop with a fault. -/
inductive Fault
  /-- Raised by the host-access commands when the previous host access has not completed: "The host bus completes its
  accesses in order, so no further host access arrives until the held write completes" (R10). Safe: the spec rules the
  event out and gives it no effect (assumption log entry 6). -/
  | hostBusBusy
  deriving DecidableEq, Repr

/-- The reasons a step can be refused. -/
inductive Refusal
  /-- Raised by the arms of exec whose command has no meaning yet; none has it now. Safe. -/
  | notModelled (mnemonic : String)
  deriving DecidableEq, Repr

/-- The machine right after hardware RESET has ended: every piece of state at the value the spec states for it (R16, R18
to R35, R44, R55, R56, R58, R94, R98, R124, R126, R138, R155, R178), with straps 0 (log entry 2), memory with nothing
listed (log entry 1) and an empty queue. -/
def State.reset : State := {}

/-- The outcome of a command. -/
abbrev Out := Host.Outcome State Fault Refusal

end Sys2Proof.Machine
end

