-- ==== Sys2Proof/Machine/Ops.lean ====
section
/-! DEFINITION. The named operations over the state: tables, memory, block updates, accessors of registers and of the
Admission Unit's lists, and the memory-side arbiter's queueing. -/

namespace Sys2Proof.Machine

/-! ### Tables -/

/-- The value of key `i`; `d` where it is not listed. -/
def Table.get {α : Type} (d : α) : Table α → Nat → α
  | [], _ => d
  | (k, v) :: t, i => if i = k then v else Table.get d t i

/-- The table with key `i` holding `v`; `d` is never listed, so that equal tables are equal lists. -/
def Table.set {α : Type} [DecidableEq α] (d : α) : Table α → Nat → α → Table α
  | [], i, v => if v = d then [] else [(i, v)]
  | (k, w) :: t, i, v =>
    if i < k then (if v = d then (k, w) :: t else (i, v) :: (k, w) :: t)
    else if i = k then (if v = d then t else (i, v) :: t)
    else (k, w) :: Table.set d t i v

/-- Every key of the table is above `lo` (where given), keys rise strictly, and no value is the default. -/
def Table.wfFrom {α : Type} [DecidableEq α] (d : α) : Option Nat → Table α → Bool
  | _, [] => true
  | lo, (k, v) :: t =>
    (match lo with
      | none => true
      | some l => decide (l < k)) && !(decide (v = d)) && Table.wfFrom d (some k) t

/-- The canonical form of a table. -/
def Table.wf {α : Type} [DecidableEq α] (d : α) (t : Table α) : Bool := Table.wfFrom d none t

/-! ### Bits and bytes -/

/-- The field [hi:lo] of a word as a number (chapter 12). -/
def bits (w : Word) (hi lo : Nat) : Nat := w.toNat / 2 ^ lo % 2 ^ (hi + 1 - lo)

/-- Bit `i` of a word. -/
def bit (w : Word) (i : Nat) : Bool := w.getLsbD i

/-- A word with `v` standing from bit `lo` up. -/
def place (v lo : Nat) : Word := BitVec.ofNat 32 (v * 2 ^ lo)

/-- A word with one bit at `i` when `b`. -/
def placeBit (b : Bool) (i : Nat) : Word := if b then place 1 i else 0

/-- The bits of the enabled byte lanes: "byte lane k carries bits 8k + 7 to 8k" (chapter 12). -/
def laneMask (l : Lanes) : Word :=
  (if l.getLsbD 0 then 0x000000FF else 0) ||| (if l.getLsbD 1 then 0x0000FF00 else 0)
    ||| (if l.getLsbD 2 then 0x00FF0000 else 0) ||| (if l.getLsbD 3 then 0xFF000000 else 0)

/-- `old` with its enabled byte lanes replaced by those of `new` (R7). -/
def mergeLanes (old new : Word) (l : Lanes) : Word := (new &&& laneMask l) ||| (old &&& ~~~ laneMask l)

/-- All four byte enables. -/
def allLanes : Lanes := 0xF

/-- The byte of lane `k` of a word. -/
def laneByte (w : Word) (k : Nat) : Byte := BitVec.ofNat 8 (w.toNat / 2 ^ (8 * k))

/-! ### Memory -/

/-- What an unlisted address reads as (assumption log entry 1). -/
def unlistedByte : Byte := 0

/-- One byte of memory. -/
def readByte (m : List Host.Cell) (a : Nat) : Byte := Table.get unlistedByte m a

/-- Memory with one byte written. -/
def writeByte (m : List Host.Cell) (a : Nat) (b : Byte) : List Host.Cell := Table.set unlistedByte m a b

/-- The canonical form of memory: addresses strictly rising, no entry equal to what an unlisted address reads as. -/
def Memory.wf (m : List Host.Cell) : Bool := Table.wf unlistedByte m

/-- The byte address of the word an address lies in: an access names whole words (00_scope.md, Conventions; log entry
28). -/
def wordBase (a : Addr) : Nat := a.toNat / 4 * 4

/-- The word at an address, little-endian (chapter 12). -/
def readWord (m : List Host.Cell) (a : Addr) : Word :=
  let n := wordBase a
  place (readByte m n).toNat 0 ||| place (readByte m (n + 1)).toNat 8
    ||| place (readByte m (n + 2)).toNat 16 ||| place (readByte m (n + 3)).toNat 24

/-- Memory with byte lane `k` of a word written when its enable is set. -/
def writeLane (m : List Host.Cell) (a : Addr) (w : Word) (l : Lanes) (k : Nat) : List Host.Cell :=
  if l.getLsbD k then writeByte m (wordBase a + k) (laneByte w k) else m

/-- Memory with the enabled byte lanes of a word written, little-endian (chapter 12). -/
def writeWord (m : List Host.Cell) (a : Addr) (w : Word) (l : Lanes) : List Host.Cell :=
  writeLane (writeLane (writeLane (writeLane m a w l 0) a w l 1) a w l 2) a w l 3

/-! ### Block updates -/

/-- Update the Memory Path Switch. -/
def State.onMps (s : State) (f : Mps → Mps) : State := { s with mps := f s.mps }
/-- Update the Control Unit. -/
def State.onCtu (s : State) (f : Ctu → Ctu) : State := { s with ctu := f s.ctu }
/-- Update the Campus Clock. -/
def State.onClock (s : State) (f : Clock → Clock) : State := { s with clock := f s.clock }
/-- Update the Admission Unit. -/
def State.onAdu (s : State) (f : Adu → Adu) : State := { s with adu := f s.adu }
/-- Update the Bank Scanner. -/
def State.onBsc (s : State) (f : Bsc → Bsc) : State := { s with bsc := f s.bsc }
/-- Update the Panel Loop Unit. -/
def State.onPlu (s : State) (f : Plu → Plu) : State := { s with plu := f s.plu }
/-- Update the Occupancy Filter. -/
def State.onOcf (s : State) (f : Ocf → Ocf) : State := { s with ocf := f s.ocf }
/-- Update the Attendance Unit. -/
def State.onAtu (s : State) (f : Atu → Atu) : State := { s with atu := f s.atu }
/-- Update the Catering Queue Unit. -/
def State.onCqu (s : State) (f : Cqu → Cqu) : State := { s with cqu := f s.cqu }
/-- Update the Kitchen Link Controller. -/
def State.onKlc (s : State) (f : Klc → Klc) : State := { s with klc := f s.klc }

/-! ### Books, rooms and settings -/

/-- The other book. -/
def Book.other : Book → Book
  | .bookA => .bookB
  | .bookB => .bookA

/-- The bank role of a book (R36). -/
def State.roleOf (s : State) (b : Book) : Role := if b = s.clock.today then .today else .next

/-- The key of a slot in the tables of 2048. -/
def SlotRef.key (r : SlotRef) : Nat :=
  (match r.book with | .bookA => 0 | .bookB => 1024) + r.room.val * 16 + r.slot.val

/-- The key of a (book, room) in the table of Room Schedules. -/
def scheduleKey (b : Book) (r : Room) : Nat := (match b with | .bookA => 0 | .bookB => 64) + r.val

/-- The rooms in ascending order. -/
def rooms : List Room := (List.range 64).map (Fin.ofNat 64)

/-- The loops in ascending order. -/
def loopNumbers : List LoopNo := [0, 1, 2, 3]

/-- Setting fields of the shadow (R18, section 12.2). -/
def State.minlen (s : State) : Nat := bits s.ctu.shadow.w24 5 0
def State.grace (s : State) : Nat := bits s.ctu.shadow.w24 10 6
def State.early (s : State) : Nat := bits s.ctu.shadow.w24 14 11
def State.vacant (s : State) : Nat := bits s.ctu.shadow.w24 20 15
def State.warn (s : State) : Nat := bits s.ctu.shadow.w24 24 21
def State.extstep (s : State) : Nat := bits s.ctu.shadow.w24 30 25
def State.retries (s : State) : Nat := bits s.ctu.shadow.w25 2 0
def State.haltOnSoft (s : State) : Bool := bit s.ctu.shadow.w25 3
def State.kwait (s : State) : Nat := bits s.ctu.shadow.w25 11 4
def State.stationCount (s : State) : Nat := bits s.ctu.shadow.w25 15 12
def State.fast (s : State) : Nat := bits s.ctu.shadow.w26 3 0
def State.slow (s : State) : Nat := bits s.ctu.shadow.w26 10 4
def State.stay (s : State) : Nat := bits s.ctu.shadow.w26 18 11
def State.replyWait (s : State) : Nat := bits s.ctu.shadow.w26 22 19
def State.noise (s : State) : Nat := bits s.ctu.shadow.w27 7 0
def State.bucketSize (s : State) : Nat := bits s.ctu.shadow.w27 15 8
def State.negnoise (s : State) : Nat := bits s.ctu.shadow.w27 23 16
def State.lowreset (s : State) : Nat := bits s.ctu.shadow.w27 31 24
def State.hyst (s : State) : Nat := bits s.ctu.shadow.w28 7 0
def State.debounce (s : State) : Nat := bits s.ctu.shadow.w28 15 8
def State.average (s : State) : Nat := bits s.ctu.shadow.w28 19 16
def State.autoReset (s : State) : Bool := bit s.ctu.shadow.w28 20
def State.dropOnRefresh (s : State) : Bool := bit s.ctu.shadow.w28 21

/-- Word `w` of a room's entry in the directory copy (R13). -/
def State.dirWord (s : State) (r : Room) (w : Nat) : Word := Table.get 0 s.ctu.directory (2 * r.val + w)

/-- Room properties (section 12.5). -/
def State.capacity (s : State) (r : Room) : Nat := bits (s.dirWord r 0) 7 0
def State.threshold (s : State) (r : Room) : Nat := bits (s.dirWord r 0) 15 8
def State.inService (s : State) (r : Room) : Bool := bit (s.dirWord r 0) 24
def State.walkUp (s : State) (r : Room) : Bool := bit (s.dirWord r 0) 25
def State.vacancyEnd (s : State) (r : Room) : Bool := bit (s.dirWord r 0) 26
def State.panelAddress (s : State) (r : Room) : Nat := bits (s.dirWord r 1) 4 0
def State.panelLoop (s : State) (r : Room) : Nat := bits (s.dirWord r 1) 10 8

/-- The room is in service and its entry names a panel: then it has panel state (R108) and a filter (R126). -/
def State.hasPanel (s : State) (r : Room) : Bool := s.inService r && s.panelAddress r != 0

/-! ### Lists of the Admission Unit -/

/-- The Slot Map entry of a slot (R44). -/
def State.slotState (s : State) (r : SlotRef) : SlotState := Table.get .free s.adu.slotMap r.key

/-- Set a Slot Map entry. -/
def State.setSlot (s : State) (r : SlotRef) (v : SlotState) : State :=
  s.onAdu fun a => { a with slotMap := Table.set .free a.slotMap r.key v }

/-- The pool index a LIVE slot owns. -/
def State.liveIndex (s : State) (r : SlotRef) : Option Nat :=
  match s.slotState r with
  | .live i => some i
  | .free | .draft => none

/-- A pool entry, where it is owned (R54). -/
def State.entry (s : State) (i : Nat) : Option PoolEntry := Table.get none s.adu.pool i

/-- Write a pool entry. -/
def State.setEntry (s : State) (i : Nat) (e : Option PoolEntry) : State :=
  s.onAdu fun a => { a with pool := Table.set none a.pool i e }

/-- The pool entry of a LIVE slot. -/
def State.liveEntry (s : State) (r : SlotRef) : Option PoolEntry :=
  match s.liveIndex r with
  | some i => s.entry i
  | none => none

/-- The Room Schedule of a book and room: pool indexes by start (R56). -/
def State.schedule (s : State) (b : Book) (r : Room) : List Nat := Table.get [] s.adu.schedules (scheduleKey b r)

/-- Set a Room Schedule. -/
def State.setSchedule (s : State) (b : Book) (r : Room) (l : List Nat) : State :=
  s.onAdu fun a => { a with schedules := Table.set [] a.schedules (scheduleKey b r) l }

/-- The bookings of a Room Schedule with their pool indexes, in its order. -/
def State.bookings (s : State) (b : Book) (r : Room) : List (Nat × PoolEntry) :=
  (s.schedule b r).filterMap fun i => (s.entry i).map fun e => (i, e)

/-- The LIVE bookings of a room in the TODAY bank, in the order of their starts. -/
def State.bookingsToday (s : State) (r : Room) : List (Nat × PoolEntry) := s.bookings s.clock.today r

/-- The start by which a pool index stands in a schedule. -/
def State.startOf (s : State) (i : Nat) : Nat :=
  match s.entry i with
  | some e => e.start
  | none => 0

/-- Insert an index at "the place its start gives" (R56). -/
def insertByStart (startOf : Nat → Nat) (i : Nat) : List Nat → List Nat
  | [] => [i]
  | j :: t => if startOf i < startOf j then i :: j :: t else j :: insertByStart startOf i t

/-- The binding of an order (R58). -/
def State.binding (s : State) (o : OrderIx) : Option Nat := Table.get none s.adu.bindings o.val

/-- Set the binding of an order. -/
def State.setBinding (s : State) (o : OrderIx) (v : Option Nat) : State :=
  s.onAdu fun a => { a with bindings := Table.set none a.bindings o.val v }

/-- End the binding of an attached order, if any. -/
def State.unbind (s : State) : Option OrderIx → State
  | none => s
  | some o => s.setBinding o none

/-- Bind an attached order, if any, to a pool entry. -/
def State.bind (s : State) (i : Nat) : Option OrderIx → State
  | none => s
  | some o => s.setBinding o (some i)

/-- A booking takes the entry at the head of the free list (R55, R70): the entry is filled, inserted into its Room Schedule,
its slot becomes LIVE and its order is bound. Nothing happens when the list is empty, which the FULL check rules out. -/
def State.takeEntry (s : State) (e : PoolEntry) : State :=
  match s.adu.freeList with
  | [] => s
  | i :: rest =>
    let s := (s.onAdu fun a => { a with freeList := rest }).setEntry i (some e)
    let s := s.setSchedule e.at_.book e.at_.room (insertByStart s.startOf i (s.schedule e.at_.book e.at_.room))
    (s.setSlot e.at_ (.live i)).bind i e.order

/-- A booking dies (R55, R56, R58, R72): its entry leaves the schedule and is appended to the free list, its slot becomes
FREE and its order's binding ends. -/
def State.freeEntry (s : State) (i : Nat) : State :=
  match s.entry i with
  | none => s
  | some e =>
    let s := s.setSchedule e.at_.book e.at_.room ((s.schedule e.at_.book e.at_.room).filter (· != i))
    let s := (s.setEntry i none).onAdu fun a => { a with freeList := a.freeList ++ [i] }
    (s.setSlot e.at_ .free).unbind e.order

/-- A booking's entry changes in place (R71): a start that changes moves the entry within its schedule, and the bindings
follow the order. -/
def State.changeEntry (s : State) (i : Nat) (e : PoolEntry) : State :=
  match s.entry i with
  | none => s
  | some old =>
    let s := (s.unbind old.order).setEntry i (some e)
    let s :=
      if old.start = e.start then s
      else
        s.setSchedule e.at_.book e.at_.room
          (insertByStart s.startOf i ((s.schedule e.at_.book e.at_.room).filter (· != i)))
    s.bind i e.order

/-! ### Panels, rooms, filters, orders, loops -/

def State.loop (s : State) (l : LoopNo) : Loop := Table.get {} s.plu.loops l.val
def State.setLoop (s : State) (l : LoopNo) (v : Loop) : State :=
  s.onPlu fun p => { p with loops := Table.set {} p.loops l.val v }
def State.panel (s : State) (r : Room) : Panel := Table.get {} s.plu.panels r.val
def State.setPanel (s : State) (r : Room) (v : Panel) : State :=
  s.onPlu fun p => { p with panels := Table.set {} p.panels r.val v }
def State.filter (s : State) (r : Room) : Filter := Table.get {} s.ocf.filters r.val
def State.setFilter (s : State) (r : Room) (v : Filter) : State :=
  s.onOcf fun o => { o with filters := Table.set {} o.filters r.val v }
def State.roomState (s : State) (r : Room) : RoomState := Table.get {} s.atu.rooms r.val
def State.setRoomState (s : State) (r : Room) (v : RoomState) : State :=
  s.onAtu fun a => { a with rooms := Table.set {} a.rooms r.val v }
def State.orderEntry (s : State) (o : OrderIx) : Option OrderEntry := Table.get none s.cqu.entries o.val
def State.setOrderEntry (s : State) (o : OrderIx) (v : Option OrderEntry) : State :=
  s.onCqu fun c => { c with entries := Table.set none c.entries o.val v }
/-- The order is in the locked-order set (R11). -/
def State.locked (s : State) (o : OrderIx) : Bool := Table.get false s.mps.locked o.val

/-! ### Memory addresses of records -/

/-- An address `n` bytes beyond a base, on 24 bits. -/
def addrAt (base n : Nat) : Addr := BitVec.ofNat 24 (base + n)

/-- The base of a book's window; 0 while the windows are OFF, when no claim exists. -/
def State.bookBase (s : State) (b : Book) : Nat :=
  match s.mps.windows with
  | none => 0
  | some w => (match b with | .bookA => w.bookA | .bookB => w.bookB).toNat

/-- The address of word Wn of a slot: "byte offset (r × 16 + s) × 32 from the book's base, and its word Wn lies 4 × n
bytes further on" (R36). -/
def State.slotAddr (s : State) (r : SlotRef) (n : Nat) : Addr :=
  addrAt (s.bookBase r.book) ((r.room.val * 16 + r.slot.val) * 32 + 4 * n)

/-- The address of word On of an order (R11). -/
def State.orderAddr (s : State) (o : OrderIx) (n : Nat) : Addr :=
  addrAt (match s.mps.windows with | none => 0 | some w => w.orders.toNat) (o.val * 32 + 4 * n)

/-! ### The memory-side arbiter (R14) -/

/-- The requester an access belongs to. -/
def Owner.requester : Owner → Requester
  | .host | .hostRelease => .host
  | .aduClaim | .aduTail | .orphanAdu | .orphanVisit => .adu
  | .cqu | .orphanCqu => .cqu
  | .klcAssembly | .klcFinal | .orphanKlc => .klc
  | .bsc | .orphanBsc => .bsc

/-- The waiting access of a requester. -/
def Waiting.of (w : Waiting) : Requester → Option Access
  | .host => w.host
  | .adu => w.adu
  | .cqu => w.cqu
  | .klc => w.klc
  | .bsc => w.bsc

/-- Set the waiting access of a requester. -/
def Waiting.put (w : Waiting) (r : Requester) (a : Option Access) : Waiting :=
  match r with
  | .host => { w with host := a }
  | .adu => { w with adu := a }
  | .cqu => { w with cqu := a }
  | .klc => { w with klc := a }
  | .bsc => { w with bsc := a }

/-- A waiting access of the Kitchen Link Controller whose assembly is abandoned: a final write waits on, a read of the
assembly is withdrawn (R17, R179). -/
def Waiting.keepFinal : Option Access → Option Access
  | some a => if a.owner = .klcFinal then some a else none
  | none => none

/-- The requester has an access waiting or granted: it "presents its next access only after the arbiter has completed its
previous one" (R14). -/
def Mps.outstanding (m : Mps) (r : Requester) : Bool :=
  (m.waiting.of r).isSome ||
    (match m.granted with
      | none => false
      | some a => decide (a.owner.requester = r))

/-- Present an access at the arbiter. -/
def State.present (s : State) (a : Access) : State :=
  s.onMps fun m => { m with waiting := m.waiting.put a.owner.requester (some a) }

/-- The first waiting requester "in the order host class, ADU, CQU, KLC, BSC" (R14). -/
def Waiting.first (w : Waiting) : Option Requester :=
  [Requester.host, .adu, .cqu, .klc, .bsc].find? fun r => (w.of r).isSome

/-- A free port grants the first waiting access (R14). -/
def Mps.arbitrate (m : Mps) : Mps :=
  match m.granted with
  | some _ => m
  | none =>
    match m.waiting.first with
    | none => m
    | some r => { m with granted := m.waiting.of r, waiting := m.waiting.put r none }

/-- A read of a whole word; "the part's own accesses carry all four byte enables" (R14). -/
def ownRead (o : Owner) (a : Addr) : Access := ⟨o, false, a, 0, allLanes⟩

/-- A write of a whole word by the part. -/
def ownWrite (o : Owner) (w : WordWrite) : Access := ⟨o, true, w.1, w.2, allLanes⟩

end Sys2Proof.Machine
end

