-- ==== Sys2Proof/Machine/Operands.lean ====
section
/-! DEFINITION. The record and frame layouts of chapter 12: the codes of the fields, the words the part writes, and the
fields it reads from words that others wrote. -/

namespace Sys2Proof.Machine

/-! ### Codes (chapter 12) -/

def Book.code : Book → Nat
  | .bookA => 0
  | .bookB => 1

def Role.code : Role → Nat
  | .today => 0
  | .next => 1

def Phase.code : Phase → Nat
  | .setup => 0
  | .walking => 1
  | .running => 2

def PassKind.code : PassKind → Nat
  | .none => 0
  | .clean => 1
  | .keep => 2
  | .turnover => 3

def BookingState.code : BookingState → Nat
  | .empty => 0
  | .booked => 1
  | .inUse => 2
  | .ended => 3
  | .released => 4
  | .cancelled => 5
  | .refused => 6

def LiveState.booking : LiveState → BookingState
  | .booked => .booked
  | .inUse => .inUse

def EndCause.code : EndCause → Nat
  | .none => 0
  | .time => 1
  | .panel => 2
  | .vacant => 3

def Source.code : Source → Nat
  | .none => 0
  | .panel => 1
  | .presence => 2
  | .auto => 3

def Source.ofCode : Nat → Source
  | 1 => .panel
  | 2 => .presence
  | 3 => .auto
  | _ => .none

def Origin.code : Origin → Nat
  | .request => 0
  | .panel => 1

def Reason.code : Reason → Nat
  | .none => 0
  | .badRequest => 1
  | .badTime => 2
  | .past => 3
  | .badRoom => 4
  | .slotTaken => 5
  | .notLive => 6
  | .badOrder => 7
  | .orderInUse => 8
  | .memory => 9
  | .full => 10
  | .clash => 11
  | .crowd => 12
  | .noSlot => 13
  | .notAllowed => 14
  | .notOpen => 15

def Reason.ofCode : Nat → Reason
  | 1 => .badRequest
  | 2 => .badTime
  | 3 => .past
  | 4 => .badRoom
  | 5 => .slotTaken
  | 6 => .notLive
  | 7 => .badOrder
  | 8 => .orderInUse
  | 9 => .memory
  | 10 => .full
  | 11 => .clash
  | 12 => .crowd
  | 13 => .noSlot
  | 14 => .notAllowed
  | 15 => .notOpen
  | _ => .none

/-- Trap kind codes of word 12. -/
def Kind.code : Kind → Nat
  | .void => 1
  | .full => 2
  | .clash => 3
  | .crowd => 4
  | .short => 5
  | .trim => 6

/-- The position of a kind in TRAP-ENABLE and FLAGS (words 9 and 10). -/
def Kind.position : Kind → Nat
  | .void => 0
  | .full => 1
  | .clash => 2
  | .crowd => 3
  | .short => 4
  | .trim => 5

def AdmissionKind.code : AdmissionKind → Nat
  | .new => 1
  | .amend => 2
  | .cancel => 3
  | .badRequest => 4
  | .booknow => 5
  | .extend => 6

def CommandStatus.code : CommandStatus → Nat
  | .busy => 1
  | .done => 2
  | .refused => 3

def CommandReason.code : CommandReason → Nat
  | .none => 0
  | .busy => 1
  | .phase => 2
  | .unknown => 3
  | .layout => 4
  | .setting => 5
  | .notHalted => 6

def Link.code : Link → Nat
  | .idle => 0
  | .sending => 1
  | .awaiting => 2
  | .halted => 3

def HaltReason.code : HaltReason → Nat
  | .none => 0
  | .soft => 1
  | .silent => 2
  | .station => 3
  | .memory => 4

def OrderState.code : OrderState → Nat
  | .unused => 0
  | .attached => 1
  | .due => 2
  | .sending => 3
  | .accepted => 4
  | .detached => 5
  | .cancelled => 6
  | .recalling => 7
  | .recalled => 8
  | .failed => 9

/-- The order state a code of O4 names; codes 10..15 name none (R180). -/
def OrderState.ofCode : Nat → Option OrderState
  | 0 => some .unused
  | 1 => some .attached
  | 2 => some .due
  | 3 => some .sending
  | 4 => some .accepted
  | 5 => some .detached
  | 6 => some .cancelled
  | 7 => some .recalling
  | 8 => some .recalled
  | 9 => some .failed
  | _ => none

def KitchenVerdict.code : KitchenVerdict → Nat
  | .none => 0
  | .accept => 1
  | .checkfail => 2

def FailureReason.code : FailureReason → Nat
  | .none => 0
  | .soft => 1
  | .stale => 2

def Chime.code : Chime → Nat
  | .none => 0
  | .warn => 1
  | .refuse => 2
  | .confirm => 3

/-! ### Kind sets -/

def KindSet.has (k : KindSet) : Kind → Bool
  | .void => k.void
  | .full => k.full
  | .clash => k.clash
  | .crowd => k.crowd
  | .short => k.short
  | .trim => k.trim

/-- The set of one kind: the K of a refusal (R77). -/
def KindSet.single : Kind → KindSet
  | .void => { void := true }
  | .full => { full := true }
  | .clash => { clash := true }
  | .crowd => { crowd := true }
  | .short => { short := true }
  | .trim => { trim := true }

/-- The kinds of `k` that are not in `e`. -/
def KindSet.without (k e : KindSet) : KindSet :=
  ⟨k.void && !e.void, k.full && !e.full, k.clash && !e.clash, k.crowd && !e.crowd, k.short && !e.short,
    k.trim && !e.trim⟩

/-- A kind set at the bit positions of word 9, shifted up by `lo`. -/
def KindSet.word (k : KindSet) (lo : Nat) : Word :=
  placeBit k.void lo ||| placeBit k.full (lo + 1) ||| placeBit k.clash (lo + 2) ||| placeBit k.crowd (lo + 3)
    ||| placeBit k.short (lo + 4) ||| placeBit k.trim (lo + 5)

/-- The kind set a word holds at the positions of word 9. -/
def KindSet.ofWord (w : Word) : KindSet := ⟨bit w 0, bit w 1, bit w 2, bit w 3, bit w 4, bit w 5⟩

/-! ### Booking slot words (section 12.3) -/

/-- The request kinds of W3 (R38). -/
inductive RequestKind | none | new | amend | cancel | bad
  deriving DecidableEq, Repr

/-- The request kind of a written request word (R38, R180: kinds 4..15 are BAD-REQUEST). -/
def requestKind (w : Word) : RequestKind :=
  match bits w 3 0 with
  | 0 => .none
  | 1 => .new
  | 2 => .amend
  | 3 => .cancel
  | _ => .bad

def quietTrim (w : Word) : Bool := bit w 8
def quietShort (w : Word) : Bool := bit w 9

def proposedStart (w0 : Word) : Nat := bits w0 15 0
def proposedLength (w0 : Word) : Nat := bits w0 31 16
def proposedAttendees (w1 : Word) : Nat := bits w1 7 0
/-- The order field of W2: 0..127 an order, 255 NONE, the rest out of range (R37). -/
def proposedOrder (w2 : Word) : Nat := bits w2 7 0

/-- The order index a field value 0..127 names. -/
def orderOfField (v : Nat) : Option OrderIx := if h : v < 128 then some ⟨v, h⟩ else none

/-- An order field: the index, or NONE 255. -/
def orderField : Option OrderIx → Nat
  | none => 255
  | some o => o.val

def wordW4 (start stop : Nat) : Word := place start 0 ||| place stop 16

def Marks.word (m : Marks) : Word :=
  placeBit m.trimmed 12 ||| placeBit m.capped 13 ||| placeBit m.noCatering 14

def wordW5 (st : BookingState) (cause : EndCause) (src : Source) (origin : Origin) (m : Marks) (r : Reason) : Word :=
  place st.code 0 ||| place cause.code 4 ||| place src.code 6 ||| place origin.code 8 ||| m.word ||| place r.code 16

def wordW6 (attendees : Nat) (order : Option OrderIx) : Word := place attendees 0 ||| place (orderField order) 16

/-- The change stamp (R39). -/
def wordW7 (t : Taken) : Word := place t.now 0 ||| place t.day 16

/-- Fields of the admitted half as a KEEP visit reads them (R101). -/
def admittedStart (w4 : Word) : Nat := bits w4 10 0
def admittedStop (w4 : Word) : Nat := bits w4 26 16
def bookingStateCode (w5 : Word) : Nat := bits w5 2 0
def sourceOf (w5 : Word) : Source := Source.ofCode (bits w5 7 6)
def originOf (w5 : Word) : Origin := if bit w5 8 then .panel else .request
def marksOf (w5 : Word) : Marks := ⟨bit w5 12, bit w5 13, bit w5 14⟩
def reasonOf (w5 : Word) : Reason := Reason.ofCode (bits w5 19 16)
def admittedAttendees (w6 : Word) : Nat := bits w6 7 0
def admittedOrder (w6 : Word) : Nat := bits w6 23 16

/-- W5 "as read, with marks cleared and the reason" (R74, last row): the fields read are written, bits of no field as
zero (R180). -/
def w5Refused (w5 : Word) (r : Reason) : Word :=
  (w5 &&& 0x000001F7) ||| place r.code 16

/-- The four addressed words of an admitted half. -/
def halfWrites (s : State) (r : SlotRef) (w4 w5 w6 w7 : Word) : List WordWrite :=
  [(s.slotAddr r 4, w4), (s.slotAddr r 5, w5), (s.slotAddr r 6, w6), (s.slotAddr r 7, w7)]

/-- The admitted half that shows an entry in a booking state with an end cause and a source (R39, R74, R75). -/
def entryWrites (s : State) (e : PoolEntry) (st : BookingState) (cause : EndCause) (src : Source) (t : Taken) :
    List WordWrite :=
  halfWrites s e.at_ (wordW4 e.start e.stop) (wordW5 st cause src e.origin e.marks e.reason)
    (wordW6 e.attendees e.order) (wordW7 t)

/-- The admitted half of a REFUSED slot (R74, R101). -/
def refusedWrites (s : State) (r : SlotRef) (origin : Origin) (reason : Reason) (t : Taken) : List WordWrite :=
  halfWrites s r (wordW4 0 0) (wordW5 .refused .none .none origin {} reason) (wordW6 0 none) (wordW7 t)

/-- The EMPTY contents, after W3 with kind NONE (R39, R100). -/
def emptyWrites (s : State) (r : SlotRef) (t : Taken) : List WordWrite :=
  (s.slotAddr r 3, 0) :: halfWrites s r (wordW4 0 0) (wordW5 .empty .none .none .request {} .none) (wordW6 0 none) (wordW7 t)

/-- The proposal half of a walk-up (R43). -/
def walkUpWrites (s : State) (e : PoolEntry) : List WordWrite :=
  [(s.slotAddr e.at_ 0, place e.start 0 ||| place (e.stop - e.start) 16), (s.slotAddr e.at_ 1, 0),
    (s.slotAddr e.at_ 2, place 255 0), (s.slotAddr e.at_ 3, 0)]

/-! ### Order record words (section 12.4) -/

def stationOf (o0 : Word) : Nat := bits o0 3 0
def leadOf (o0 : Word) : Nat := bits o0 15 8
def itemCount (o0 : Word) : Nat := bits o0 23 16
/-- O1 as a byte address: bits [23:2], bits [1:0] taken as zero (R180). -/
def itemList (o1 : Word) : Nat := bits o1 23 2 * 4

def orderStateOf (o4 : Word) : Option OrderState := OrderState.ofCode (bits o4 3 0)
def resendOf (o4 : Word) : Bool := bit o4 8
def ticketsAccepted (o6 : Word) : Nat := bits o6 3 0
def ticketsTotal (o6 : Word) : Nat := bits o6 11 8

/-- The attachable states (R65). -/
def OrderState.attachable : OrderState → Bool
  | .unused | .detached | .cancelled | .recalled | .failed => true
  | .attached | .due | .sending | .accepted | .recalling => false

/-- The states in which O0 to O3 are locked (R11, R157). -/
def OrderState.locks : OrderState → Bool
  | .attached | .due | .sending | .accepted | .recalling => true
  | .unused | .detached | .cancelled | .recalled | .failed => false

/-- O0 passes the field checks of R65. -/
def orderRecordOk (s : State) (o0 : Word) : Bool :=
  decide (1 ≤ stationOf o0) && decide (stationOf o0 ≤ s.stationCount) && decide (leadOf o0 ≤ 240)
    && decide (itemCount o0 ≠ 0)

/-- O6; each count fills its field of four bits (assumption log entry 35). -/
def wordO6 (accepted total : Nat) : Word := place (accepted % 16) 0 ||| place (total % 16) 8
def wordO7 (v : KitchenVerdict) (retries : Nat) (f : FailureReason) : Word :=
  place v.code 0 ||| place retries 8 ||| place f.code 16

/-- Word O(4 + n) of an order, from its entry (R156). -/
def orderWord (e : OrderEntry) (n : Nat) : Word :=
  match n with
  | 0 => place e.state.code 0 ||| placeBit e.resend 8
  | 1 => place e.due 0 ||| place e.role.code 12 ||| place e.at_.room.val 16 ||| place e.at_.slot.val 24
  | 2 => wordO6 e.accepted e.total
  | _ => wordO7 e.verdict e.retries e.failure

/-! ### The trap record's words (section 12.2) -/

def TrapRecord.word12 (r : TrapRecord) : Word :=
  place r.kind.code 0 ||| placeBit r.completed 3 ||| r.kinds.word 4 ||| place r.reason.code 10
    ||| place r.origin.code 14 ||| place r.request.code 15 ||| place r.book.code 18 ||| place r.role.code 19
    ||| place r.room.val 20 ||| place (match r.slot with | some n => n.val | none => 31) 26
def TrapRecord.word13 (r : TrapRecord) : Word := place r.minute 0 ||| place r.day 16
def TrapRecord.word14 (r : TrapRecord) : Word := place r.start 0
def TrapRecord.word15 (r : TrapRecord) : Word := place r.stop 0

/-! ### Page words (section 12.5) -/

/-- A cell as half a page word. -/
def Cell.half (c : Cell) : Nat := c.code.toNat + (if c.reverse then 256 else 0)

/-- The page word that carries cells 2i + 1 and 2i + 2 of a line, the odd cell in bits [15:0]. -/
def lineWord (l : List Cell) (i : Nat) : Word :=
  place (l.getD (2 * i) {}).half 0 ||| place (l.getD (2 * i + 1) {}).half 16

/-- A cell with its code byte and its mark byte replaced where their lanes are enabled: "Byte lane 0 or 2 carries a cell's
code, and lane 1 or 3 its REVERSE mark". -/
def Cell.merge (c : Cell) (w : Word) (lo : Nat) (codeLane markLane : Bool) : Cell :=
  ⟨if codeLane then BitVec.ofNat 7 (bits w (lo + 6) lo) else c.code, if markLane then bit w (lo + 8) else c.reverse⟩

/-- A line with the enabled bytes of page word `i` written (R12). -/
def mergeLine (l : List Cell) (i : Nat) (w : Word) (lanes : Lanes) : List Cell :=
  let c1 := (l.getD (2 * i) {}).merge w 0 (lanes.getLsbD 0) (lanes.getLsbD 1)
  let c2 := (l.getD (2 * i + 1) {}).merge w 16 (lanes.getLsbD 2) (lanes.getLsbD 3)
  (l.set (2 * i) c1).set (2 * i + 1) c2

/-- A cell on the wire: its code "with bit 7 zero", then its attribute byte with REVERSE in bit 0 (R181). R181 does not state
bits 7 to 1 of the attribute byte; that they are sent as zero is the model's choice (assumption log entry 63). -/
def Cell.wire (c : Cell) : List Byte := [c.code.setWidth 8, if c.reverse then 1 else 0]

/-! ### Bytes on the lines (R113, R169) -/

/-- What a serial line carries during one bit time. -/
inductive LineSymbol
  | start
  | data (bit : Bool)
  | stop
  deriving DecidableEq, Repr

/-- A byte on a line: "one start bit, eight data bits least significant first, and one stop bit" (R113, R169). -/
def serialByte (b : Byte) : List LineSymbol :=
  .start :: (List.range 8).map (fun i => .data (b.getLsbD i)) ++ [.stop]

/-- Bytes on a line "with no gap" (R113, R169). -/
def serial (bs : List Byte) : List LineSymbol := bs.flatMap serialByte

/-- The bytes of a word on the kitchen line: "four bytes, most significant byte first" (R169). -/
def wordBytes (w : Word) : List Byte := [laneByte w 3, laneByte w 2, laneByte w 1, laneByte w 0]

end Sys2Proof.Machine
end

