-- ==== Sys2Proof/Machine/Flags.lean ====
section
/-! DEFINITION. What the Control Unit keeps and reports: the FLAGS word, the Trap Slot, the Change Summary, the pending
causes and INT (R29 to R35), and the values a host reads from the Control Page (R5, R21, R22, R31 to R34). -/

namespace Sys2Proof.Machine

/-! ### FLAGS (R29) -/

def flagProtect : Word := 0x100
def flagPartial : Word := 0x200
def flagOverrun : Word := 0x400
def flagMemerr : Word := 0x800

/-- Set flags; "a report for a flag already set leaves it set" (R29). -/
def State.setFlags (s : State) (w : Word) : State := s.onCtu fun c => { c with flags := c.flags ||| w }

/-- Clear each flag whose position holds a one (R29). -/
def State.clearFlags (s : State) (w : Word) : State := s.onCtu fun c => { c with flags := c.flags &&& ~~~ w }

/-- The trap-enable marks of the shadow (R81). -/
def State.trapEnables (s : State) : KindSet := KindSet.ofWord s.ctu.shadow.w9

/-! ### Trap Slot (R30, R31) -/

/-- Present a record: stored when the slot is EMPTY, otherwise lost with OVERRUN (R30). -/
def State.presentTrap (s : State) (r : TrapRecord) : State :=
  match s.ctu.trapSlot with
  | none => s.onCtu fun c => { c with trapSlot := some r }
  | some _ => s.setFlags flagOverrun

/-! ### Change Summary (R32) -/

/-- Mark a room. -/
def State.markChanged (s : State) (r : Room) : State :=
  s.onCtu fun c => { c with changes := c.changes ||| BitVec.ofNat 64 (2 ^ r.val) }

/-- The marks of word 18, or of word 19 when `high`. -/
def Ctu.changeWord (c : Ctu) (high : Bool) : Word := (if high then c.changes >>> 32 else c.changes).setWidth 32

/-- The Change Summary without the marks a read with these lanes returns (R32). -/
def Ctu.clearRead (c : Ctu) (high : Bool) (l : Lanes) : Ctu :=
  let m : BitVec 64 := (laneMask l).setWidth 64
  { c with changes := c.changes &&& ~~~ (if high then m <<< 32 else m) }

/-! ### Causes and INT (R34, R35) -/

/-- The pending set at the positions of word 17. -/
def Ctu.pendingWord (c : Ctu) : Word :=
  placeBit c.trapSlot.isSome 0 ||| placeBit (c.changes != 0) 1 ||| placeBit c.kitchenCause 2 ||| placeBit c.scanCause 3

/-- INT is high "exactly when the pending set and the enable set share a cause" (R35). -/
def Ctu.intLine (c : Ctu) : Bool := c.pendingWord &&& c.shadow.w16 != 0

/-- The cause KITCHEN becomes pending (R34). -/
def State.raiseKitchen (s : State) : State := s.onCtu fun c => { c with kitchenCause := true }

/-- The cause SCAN becomes pending (R34). -/
def State.raiseScan (s : State) : State := s.onCtu fun c => { c with scanCause := true }

/-! ### Reads of the Control Page -/

/-- Word 1 as read (R22). -/
def CommandState.word (c : CommandState) : Word :=
  c.code.setWidth 32 ||| place c.reason.code 4 ||| c.argument ||| place c.status.code 30

/-- Word 0 as read (R21): the cursor reads zero when the pass kind is NONE. -/
def State.phaseWord (s : State) : Word :=
  place s.ctu.phase.code 0 ||| place s.bsc.pass.code 4 |||
    (if s.bsc.pass = .none then 0
     else place s.bsc.cursor.book.code 8 ||| place s.bsc.cursor.room.val 16 ||| place s.bsc.cursor.slot.val 24)

/-- Word 2 as read: the clock, with the day modulo 32768 (R19, R180). -/
def Clock.word (c : Clock) : Word := place c.second 0 ||| place c.minute 6 ||| place (c.day % 32768) 17

/-- Word 22 as read (R33): reason and order are NONE unless the link is HALTED. -/
def Klc.word (k : Klc) : Word :=
  match k.link with
  | .halted =>
    place k.link.code 0 ||| place k.halt.code 4 ||| place (match k.context with | some c => c.order.val | none => 255) 8
  | .idle | .sending | .awaiting => place k.link.code 0 ||| place 255 8

/-- The value the Control Unit answers for an interpreted Control Page word (R5). -/
def State.controlRead (s : State) (n : Nat) : Word :=
  match n with
  | 0 => s.phaseWord
  | 1 => s.ctu.command.word
  | 2 => s.clock.word
  | 3 => place s.clock.today.code 0
  | 4 => s.ctu.shadow.w4
  | 5 => s.ctu.shadow.w5
  | 6 => s.ctu.shadow.w6
  | 7 => s.ctu.shadow.w7
  | 8 => s.ctu.shadow.w8
  | 9 => s.ctu.shadow.w9
  | 10 => s.ctu.flags
  | 11 => placeBit s.ctu.trapSlot.isSome 0
  | 12 => match s.ctu.trapSlot with | some r => r.word12 | none => 0
  | 13 => match s.ctu.trapSlot with | some r => r.word13 | none => 0
  | 14 => match s.ctu.trapSlot with | some r => r.word14 | none => 0
  | 15 => match s.ctu.trapSlot with | some r => r.word15 | none => 0
  | 16 => s.ctu.shadow.w16
  | 17 => s.ctu.pendingWord
  | 18 => s.ctu.changeWord false
  | 19 => s.ctu.changeWord true
  | 20 => place s.adu.freeList.length 0
  | 21 => place s.plu.events.length 0 ||| place s.cqu.queue.length 8 ||| place s.cqu.recalls.length 16
  | 22 => s.klc.word
  | 24 => s.ctu.shadow.w24
  | 25 => s.ctu.shadow.w25
  | 26 => s.ctu.shadow.w26
  | 27 => s.ctu.shadow.w27
  | 28 => s.ctu.shadow.w28
  | _ => 0

end Sys2Proof.Machine
end

