-- ==== Sys2Proof/Machine/Panels.lean ====
section
/-! DEFINITION. The Panel Loop Unit's tables, rounds, loop modes, page and chime marks, and the poll frame (chapter 7). -/

namespace Sys2Proof.Machine

/-! ### Marks of a panel (R120, R121) -/

/-- The loop a room's panel hangs on. -/
def State.loopOf (s : State) (r : Room) : LoopNo := Fin.ofNat 4 (s.panelLoop r)

/-- Update the exchange in progress of a room's loop where it is with that room's panel. -/
def State.onExchangeWith (s : State) (r : Room) (f : Exchange → Exchange) : State :=
  let l := s.loopOf r
  let lp := s.loop l
  match lp.exchange with
  | none => s
  | some x => if x.listed.room = r then s.setLoop l { lp with exchange := some (f x) } else s

/-- Set page-dirty, and the page renewal mark when the panel's exchange in progress carried the page (R120). -/
def State.setDirty (s : State) (r : Room) : State :=
  if s.hasPanel r then
    (s.setPanel r { s.panel r with dirty := true }).onExchangeWith r fun x =>
      if x.page then { x with pageRenewal := true } else x
  else s

/-- A chime request: it replaces the request held, sets page-dirty, and sets the chime renewal mark of the panel's exchange
in progress (R121). -/
def State.chimeRequest (s : State) (r : Room) (c : Chime) : State :=
  if s.hasPanel r then
    ((s.setPanel r { s.panel r with chime := c }).setDirty r).onExchangeWith r fun x => { x with chimeRenewal := true }
  else s

/-! ### Rounds and modes (R110, R111) -/

/-- The positions of a table in ascending order with their contents, empty positions skipped. -/
def Loop.listedPositions (l : Loop) : List (Nat × Listed) :=
  (List.range 16).filterMap fun p => (Table.get none l.positions p).map fun x => (p, x)

/-- A loop whose table holds no panel is silent (R108). -/
def Loop.silent (l : Loop) : Bool := l.listedPositions.isEmpty

/-- The round interval of a mode, in seconds (R110). -/
def State.interval (s : State) : LoopMode → Nat
  | .fast => s.fast
  | .slow => s.slow

/-- A round starts: the round list is taken and the round timer loaded (R110). -/
def State.startRound (s : State) (l : LoopNo) : State :=
  let lp := s.loop l
  if lp.silent then s
  else
    s.setLoop l
      { lp with timer := .running (s.interval lp.mode), inRound := true, roundList := lp.listedPositions, polls := 0 }

/-- The loop becomes FAST with its counter at STAY. A loop that changes from SLOW while it waits between rounds has its
remaining wait shortened (R110, R111). -/
def State.makeFast (s : State) (l : LoopNo) : State :=
  let lp := s.loop l
  let timer :=
    match lp.timer, lp.mode, lp.inRound with
    | .running _, .slow, false => RoundTimer.running s.fast
    | t, _, _ => t
  s.setLoop l { lp with mode := .fast, stay := s.stay, timer := timer }

/-- A round ends: the counter and the mode move (R111); a timer already run out starts the next round at once (R110). -/
def State.endRound (s : State) (l : LoopNo) : State :=
  let lp := { s.loop l with inRound := false, roundList := [], polls := 0 }
  let lp :=
    if lp.windowHeld then { lp with stay := s.stay, mode := .fast }
    else if lp.stay = 0 then lp
    else { lp with stay := lp.stay - 1, mode := if lp.stay = 1 then .slow else lp.mode }
  let s := s.setLoop l lp
  if lp.timer = .runOut then s.startRound l else s

/-- A BOOKED booking whose check-in window is open and whose deadline has not come, as the window-held indication counts
it: "start − EARLY ≤ now and now before the booking's resolve deadline" (R111). -/
def countsForWindow (early now : Nat) (e : PoolEntry) : Bool :=
  decide (e.state = .booked) && decide (e.start - early ≤ now) && decide (now < e.deadline)

/-- The window-held indication of a loop (R111). -/
def State.windowHeld (s : State) (l : LoopNo) : Bool :=
  (s.loop l).listedPositions.any fun p =>
    (s.bookingsToday p.2.room).any fun b => countsForWindow s.early s.clock.minute b.2

/-- A minute expiry recomputes a loop's window-held indication; a held one makes the loop FAST (R111). A silent loop has no
mode to evaluate (R108). -/
def State.loopMinute (s : State) (l : LoopNo) : State :=
  if (s.loop l).silent then s
  else
    let h := s.windowHeld l
    let s := s.setLoop l { s.loop l with windowHeld := h }
    if h then s.makeFast l else s

/-- A minute expiry at the Panel Loop Unit (R111). -/
def State.pluMinute (s : State) : State := loopNumbers.foldl State.loopMinute s

/-! ### START and resets (R108, R124) -/

/-- The scan position table of a loop from the directory copy: the loop's panels of rooms in service in ascending room
number (R108). -/
def State.buildPositions (s : State) (l : LoopNo) : Table (Option Listed) :=
  let listed := rooms.filter fun r => s.hasPanel r && s.panelLoop r == l.val
  (listed.zipIdx).map fun x => (x.2, some ⟨s.panelAddress x.1, x.1⟩)

/-- A loop at START: FAST, counter STAY, and its first round (R108, R110, R111). -/
def State.startLoop (s : State) (l : LoopNo) : State :=
  (s.setLoop l { positions := s.buildPositions l, mode := .fast, stay := s.stay }).startRound l

/-- A panel's values at START (R108): as after reset, with page-dirty set. -/
def State.startPanel (s : State) (r : Room) : State := if s.hasPanel r then s.setPanel r { dirty := true } else s

/-- The Panel Loop Unit at the acceptance of START (R108, R118). -/
def State.startPlu (s : State) : State :=
  loopNumbers.foldl State.startLoop (rooms.foldl State.startPanel (s.onPlu fun _ => {}))

/-! ### The poll frame (R112, R113, R181) -/

/-- One bit of the CRC: polynomial x^16 + x^12 + x^5 + 1, most significant bit first (R113). -/
def crcBits : Nat → BitVec 16 → BitVec 16
  | 0, c => c
  | n + 1, c => crcBits n (if c.msb then (c <<< 1) ^^^ 0x1021 else c <<< 1)

/-- The CRC over one more byte. -/
def crcByte (c : BitVec 16) (b : Byte) : BitVec 16 := crcBits 8 (c ^^^ (b.setWidth 16 <<< 8))

/-- The CRC-16 of R113: "the register starts at all ones … and is not inverted at the end". -/
def crc16 (l : List Byte) : BitVec 16 := l.foldl crcByte 0xFFFF

/-- The CRC as two bytes, high byte first (R113). -/
def crcBytes (l : List Byte) : List Byte := [((crc16 l) >>> 8).setWidth 8, (crc16 l).setWidth 8]

/-- The control byte of a poll (R181). -/
def pollControl (p : Panel) : Byte :=
  BitVec.ofNat 8
    ((if p.dirty then 1 else 0) + (if p.dirty then p.chime.code * 2 else 0) + (if p.lastTag.isSome then 8 else 0))

/-- The poll frame for a panel, with its room's status line (R112, R181). R181 does not state bits 7 to 3 of the byte of the ack
tag; that they are sent as zero, and enter the CRC so, is the model's choice (assumption log entry 63). -/
def pollFrame (address : Nat) (p : Panel) (line2 : List Cell) : List Byte :=
  let body : List Byte :=
    [BitVec.ofNat 8 address, pollControl p, match p.lastTag with | some t => t.setWidth 8 | none => 0]
      ++ (if p.dirty then (p.line1 ++ line2).flatMap Cell.wire else [])
  (0xC6 : Byte) :: body ++ crcBytes body

/-- The loop assembles the poll to the next panel of its round list and begins to send it (R112). -/
def State.sendPoll (s : State) (l : LoopNo) : State :=
  let lp := s.loop l
  match lp.inRound, lp.exchange, lp.roundList[lp.polls]? with
  | true, none, some (pos, x) =>
    let p := s.panel x.room
    s.setLoop l
      { lp with
        polls := lp.polls + 1
        exchange :=
          some
            { position := pos, listed := x, page := p.dirty, chime := if p.dirty then p.chime else .none,
              frame := pollFrame x.address p (s.roomState x.room).line } }
  | _, _, _ => s

/-- What a loop's line carries from the part: while a poll is being sent, its bytes with no gap; none while the line driver is
off (R113). -/
def Loop.line (lp : Loop) : Option (List LineSymbol) :=
  match lp.exchange with
  | none => none
  | some x =>
    match x.stage with
    | .sending => some (serial x.frame)
    | .waiting | .receiving => none

/-- Move the exchange in progress from one stage to the next (R113). -/
def State.exchangeStep (s : State) (l : LoopNo) (before after : ExchangeStage) : State :=
  let lp := s.loop l
  match lp.exchange with
  | some x => if x.stage = before then s.setLoop l { lp with exchange := some { x with stage := after } } else s
  | none => s

/-- The exchange in progress ends (R113). -/
def State.endExchange (s : State) (l : LoopNo) : State := s.setLoop l { s.loop l with exchange := none }

/-- A miss: "raises the count by 1, up to 3. A miss that brings the count to 3 while the panel is ONLINE makes it OFFLINE"
(R115). -/
def Panel.miss (p : Panel) : Panel :=
  let n := min 3 (p.misses + 1)
  { p with misses := n, online := p.online && n != 3 }

/-- The exchange in progress ends as a miss (R113, R115). -/
def State.missExchange (s : State) (l : LoopNo) : State :=
  match (s.loop l).exchange with
  | none => s
  | some x => (s.setPanel x.listed.room (s.panel x.listed.room).miss).endExchange l

/-- SWAP exchanges two positions of a loop's table (R109). -/
def State.swapPositions (s : State) (l : LoopNo) (a b : Nat) : State :=
  let lp := s.loop l
  let x := Table.get none lp.positions a
  let y := Table.get none lp.positions b
  s.setLoop l { lp with positions := Table.set none (Table.set none lp.positions a y) b x }

end Sys2Proof.Machine
end

