-- ==== Sys2Proof/Machine/Occupancy.lean ====
section
/-! DEFINITION. The Occupancy Filter (chapter 8). -/

namespace Sys2Proof.Machine

/-- The settings a filter works with: the room's threshold T and the fields of SENSE-1 and SENSE-2 (R126). -/
structure Sense where
  threshold : Nat
  noise     : Nat
  bucket    : Nat
  negnoise  : Nat
  lowreset  : Nat
  hyst      : Nat
  debounce  : Nat
  average   : Nat
  autoReset : Bool
  deriving DecidableEq, Repr

/-- The settings for a room. -/
def State.sense (s : State) (r : Room) : Sense :=
  ⟨s.threshold r, s.noise, s.bucketSize, s.negnoise, s.lowreset, s.hyst, s.debounce, s.average, s.autoReset⟩

/-- The history with a count entered at its tail, at most 8 counts (R128). -/
def enterHistory (h : List Nat) (count : Nat) : List Nat := (h ++ [count]).drop (h.length + 1 - 8)

/-- The average over the most recent counts: "n is AVERAGE, or the number of counts held if that is fewer", rounded down
(R128). -/
def averageOf (h : List Nat) (average : Nat) : Nat :=
  let n := min average h.length
  (h.drop (h.length - n)).foldl (· + ·) 0 / n

/-- The initialising sample (R129). -/
def Filter.initialise (f : Filter) (count : Nat) : Filter :=
  { initDone := true, history := [count], baseline := count, lastPresent := f.lastPresent }

/-- The presence step for a rise S (R130, R131): the filter, with presence and the debounce counter moved. -/
def Filter.presenceStep (f : Filter) (k : Sense) (rise : Int) : Filter :=
  if f.present then (if rise < (k.threshold : Int) - k.hyst then { f with present := false } else f)
  else if rise > (k.threshold : Int) + k.hyst then
    (if f.debounce + 1 < k.debounce then { f with debounce := f.debounce + 1 }
     else { f with present := true, debounce := 0 })
  else { f with debounce := 0 }

/-- A sample that gathers into the bucket (R135). -/
def Filter.gather (f : Filter) (k : Sense) (d : Nat) : Filter :=
  if k.bucket = 0 then (if d > 0 then { f with baseline := f.baseline + 1, bucket := 0 } else { f with bucket := 0 })
  else if f.bucket + d ≥ k.bucket then { f with baseline := f.baseline + 1, bucket := 0 }
  else { f with bucket := f.bucket + d }

/-- The baseline step for a difference D with the average A (R134, R136, R137). -/
def Filter.baselineStep (f : Filter) (k : Sense) (d : Int) (a : Nat) : Filter :=
  if d ≥ k.noise then (if k.autoReset then { f.gather k d.toNat with low := 0 } else { f with low := 0 })
  else if d ≥ 0 then { f.gather k d.toNat with low := 0 }
  else if d ≥ -(k.negnoise : Int) then { f with baseline := a, low := 0 }
  else if f.low + 1 ≥ k.lowreset then { f with baseline := a, bucket := 0, low := 0 }
  else { f with low := f.low + 1 }

/-- A sample that is taken with the mark DONE (R128): the history, then presence and the last-present record (R132), then
the baseline, both on the baseline as it stood. -/
def Filter.sampleDone (f : Filter) (k : Sense) (count day minute : Nat) : Filter :=
  let f := { f with history := enterHistory f.history count }
  let a := averageOf f.history k.average
  let d : Int := (a : Int) - f.baseline
  let f := f.presenceStep k (max d 0)
  let f := if f.present then { f with lastPresent := some ⟨day, minute, .sample⟩ } else f
  f.baselineStep k d a

/-- A count handed over (R128, R129). -/
def Filter.sample (f : Filter) (k : Sense) (count day minute : Nat) : Filter :=
  if f.initDone then f.sampleDone k count day minute else f.initialise count

/-- Mark a room's filter to re-initialise (R127); a room without a filter is left alone (R28). -/
def State.markUninitialised (s : State) (r : Room) : State :=
  if s.hasPanel r then s.setFilter r { s.filter r with initDone := false } else s

end Sys2Proof.Machine
end

