-- ==== Sys2Proof/Machine/Attendance.lean ====
section
/-! DEFINITION. The Attendance Unit (chapter 9): covering bookings, status lines, presence, returns, minute expiries and the
walk. -/

namespace Sys2Proof.Machine

/-! ### Covering and windows (R139, R147) -/

/-- "a booking covers now when it is LIVE in the TODAY bank and either start ≤ now < end, or it is IN-USE with check-in
minute ≤ now < end" (R147). -/
def PoolEntry.covers (e : PoolEntry) (now : Nat) : Bool :=
  (decide (e.start ≤ now) ||
      (decide (e.state = .inUse) && (match e.checkinMinute with | some m => decide (m ≤ now) | none => false)))
    && decide (now < e.stop)

/-- The booking covering now, the one of least start (R147). -/
def State.covering (s : State) (r : Room) (now : Nat) : Option (Nat × PoolEntry) :=
  (s.bookingsToday r).find? fun b => b.2.covers now

/-- A BOOKED booking whose check-in window is open: from start − EARLY to its end (R139). -/
def State.windowOpen (s : State) (e : PoolEntry) (now : Nat) : Bool :=
  decide (e.state = .booked) && decide (e.start - s.early ≤ now) && decide (now < e.stop)

/-! ### Status lines (R153, R154) -/

/-- A blank cell: "code 0x20 without REVERSE" (section 12.5). -/
def blankCell : Cell := {}

/-- Cells of a word, with REVERSE or without. -/
def cellsOf (codes : List Nat) (reverse : Bool) : List Cell := codes.map fun c => ⟨BitVec.ofNat 7 c, reverse⟩

/-- Eight cells: a word left-aligned and padded with spaces. -/
def stateWord (codes : List Nat) (reverse : Bool) : List Cell :=
  cellsOf (codes ++ List.replicate (8 - codes.length) 0x20) reverse

/-- The state words in ASCII. -/
def wordRefused : List Nat := [0x52, 0x45, 0x46, 0x55, 0x53, 0x45, 0x44]
def wordEnding : List Nat := [0x45, 0x4E, 0x44, 0x49, 0x4E, 0x47]
def wordInUse : List Nat := [0x49, 0x4E, 0x20, 0x55, 0x53, 0x45]
def wordBooked : List Nat := [0x42, 0x4F, 0x4F, 0x4B, 0x45, 0x44]
def wordFree : List Nat := [0x46, 0x52, 0x45, 0x45]

/-- A minute as HH:MM (R153). -/
def clockCells (m : Nat) : List Cell :=
  cellsOf [0x30 + m / 60 / 10, 0x30 + m / 60 % 10, 0x3A, 0x30 + m % 60 / 10, 0x30 + m % 60 % 10] false

/-- Cells 1 to 8: the first line of R153's table that holds. R146 has ENDING shown "until the booking leaves IN-USE", R153 only
while the IN-USE booking covers now, so not at its end minute between the recomposition and the time end (steps 4 and 6 of
R142), nor where another booking of lesser start covers now or the end has moved beyond WARN. That R153 governs there is the
model's choice (assumption log entry 61). -/
def State.lineState (s : State) (r : Room) (now : Nat) : List Cell :=
  if (s.roomState r).refusal then stateWord wordRefused false
  else
    match s.covering r now with
    | some (_, e) =>
      match e.state with
      | .inUse =>
        if 0 < s.warn ∧ e.stop - now ≤ s.warn then stateWord wordEnding true else stateWord wordInUse true
      | .booked => stateWord wordBooked false
    | none =>
      if (s.bookingsToday r).any fun b => s.windowOpen b.2 now then stateWord wordBooked false
      else stateWord wordFree false

/-- Cells 10 to 14: the end of the booking covering now, else the next start, else spaces. -/
def State.lineTime (s : State) (r : Room) (now : Nat) : List Cell :=
  match s.covering r now with
  | some (_, e) => clockCells e.stop
  | none =>
    match (s.bookingsToday r).find? fun b => decide (now < b.2.start) with
    | some (_, e) => clockCells e.start
    | none => List.replicate 5 blankCell

/-- The status line of a room (R153). -/
def State.composeLine (s : State) (r : Room) : List Cell :=
  let now := s.clock.minute
  let cater :=
    match s.covering r now with
    | some (_, e) => e.order.isSome
    | none => false
  s.lineState r now ++ [blankCell] ++ s.lineTime r now ++ [blankCell, if cater then ⟨0x43, false⟩ else blankCell]

/-- Recompose a room's status line; a line that differs is reported to the Panel Loop Unit (R154). -/
def State.recompose (s : State) (r : Room) : State :=
  let new := s.composeLine r
  if new = (s.roomState r).line then s
  else (s.setRoomState r { s.roomState r with line := new }).setDirty r

/-- Recompose every room's status line. -/
def State.recomposeAll (s : State) : State := rooms.foldl State.recompose s

/-! ### Presence reports and return notices (R140, R141) -/

/-- Change every LIVE booking of a room in the TODAY bank by `f`. -/
def State.mapBookings (s : State) (r : Room) (f : PoolEntry → PoolEntry) : State :=
  (s.bookingsToday r).foldl (fun s b => s.setEntry b.1 (some (f b.2))) s

/-- Apply one PRESENT report (R140). -/
def State.applyReport (r : Room) (s : State) (t : Stamp) : State :=
  (s.setRoomState r { s.roomState r with note := some t }).mapBookings r fun e =>
    if e.state = .booked ∧ e.start - s.early ≤ t.minute ∧ t.minute < e.stop then { e with presenceSeen := true } else e

/-- What waits for a room after one more has come: between claims each of them is applied, and during a claim those are kept
that `held` says. What came before the claim has been applied at its taking. -/
def State.waitingWith (s : State) (l : List Stamp) (held : List Stamp) (t : Stamp) : List Stamp :=
  (if s.adu.claim.isNone then l else held) ++ [t]

/-- A PRESENT report joins those that wait for their application: of those that arrive during one claim the earliest and the
latest are kept (R140). Those that come between claims wait for their PRESENCE_REPORT (assumption log entry 39). -/
def State.holdReport (s : State) (r : Room) (t : Stamp) : State :=
  s.onAtu fun a =>
    let l := Table.get [] a.reports r.val
    { a with reports := Table.set [] a.reports r.val (s.waitingWith l (l.take 1) t) }

/-- Apply the reports that wait for a room, in their order. -/
def State.applyReports (s : State) (r : Room) : State :=
  (Table.get [] s.atu.reports r.val).foldl (State.applyReport r)
    (s.onAtu fun a => { a with reports := Table.set [] a.reports r.val [] })

/-- A return notice joins those that wait for their application: during a claim, a later one for the room replaces the held
one (R141). Those that come between claims wait for their RETURN_NOTICE (assumption log entry 39). -/
def State.holdReturn (s : State) (r : Room) (t : Stamp) : State :=
  s.onAtu fun a =>
    { a with returns := Table.set [] a.returns r.val (s.waitingWith (Table.get [] a.returns r.val) [] t) }

/-- The last-present record after a return: set with source RETURN, "unless it already holds a record with source SAMPLE of
that day at or after the return minute" (R141). -/
def Filter.returned (f : Filter) (t : Stamp) : Filter :=
  match f.lastPresent with
  | some p =>
    if p.source = .sample ∧ p.day = t.day ∧ t.minute ≤ p.minute then f
    else { f with lastPresent := some ⟨t.day, t.minute, .returned⟩ }
  | none => { f with lastPresent := some ⟨t.day, t.minute, .returned⟩ }

/-- Apply one return notice (R141). -/
def State.applyReturned (r : Room) (s : State) (t : Stamp) : State :=
  let s :=
    s.mapBookings r fun e =>
      if e.state = .booked then { e with deadline := max e.deadline (t.minute + s.grace) } else e
  s.setFilter r ((s.filter r).returned t)

/-- Apply the return notices that wait for a room, in their order. -/
def State.applyReturn (s : State) (r : Room) : State :=
  (Table.get [] s.atu.returns r.val).foldl (State.applyReturned r)
    (s.onAtu fun a => { a with returns := Table.set [] a.returns r.val [] })

/-! ### The walk (R143 to R145) -/

/-- The panel of a room is ONLINE. -/
def State.panelOnline (s : State) (r : Room) : Bool := s.hasPanel r && (s.panel r).online

/-- The vacancy conditions of R145 for an IN-USE booking. -/
def State.vacancyDue (s : State) (r : Room) (e : PoolEntry) (day now : Nat) : Bool :=
  let checkin := e.checkinMinute.getD 0
  let last :=
    match (s.filter r).lastPresent with
    | some p => if p.day = day then max checkin p.minute else checkin
    | none => checkin
  s.vacancyEnd r && decide (0 < s.vacant) && s.panelOnline r && !(s.filter r).present
    && decide (last + s.vacant ≤ now)

/-- A row of the walk's table applies to a booking (R143). -/
def State.rowApplies (s : State) (row : WalkRow) (r : Room) (e : PoolEntry) (day now : Nat) : Bool :=
  match row with
  | .autoCheckin => decide (e.state = .booked) && !s.hasPanel r && decide (e.start ≤ now)
  | .timeEndBooked => decide (e.state = .booked) && s.panelOnline r && decide (e.stop ≤ now)
  | .resolve => decide (e.state = .booked) && s.panelOnline r && decide (e.deadline ≤ now)
  | .timeEndInUse => decide (e.state = .inUse) && decide (e.stop ≤ now)
  | .vacancyEnd => decide (e.state = .inUse) && s.vacancyDue r e day now

/-- The first row of the table that applies. -/
def State.walkRow (s : State) (r : Room) (e : PoolEntry) (day now : Nat) : Option WalkRow :=
  [WalkRow.autoCheckin, .timeEndBooked, .resolve, .timeEndInUse, .vacancyEnd].find?
    fun row => s.rowApplies row r e day now

/-- The first booking of a room, from a start on, that a row applies to. -/
def State.walkRoom (s : State) (w : Walk) (r : Room) : Option (Walk × MinuteClaim) :=
  (s.bookingsToday r).findSome? fun b =>
    if r.val < w.room ∨ (r.val = w.room ∧ b.2.start < w.start) then none
    else
      (s.walkRow r b.2 s.clock.day w.minute).map fun row =>
        (⟨w.minute, r.val, b.2.start⟩, ⟨row, b.2.at_, b.1⟩)

/-- The walk goes on from its position: it presents the next claim, which stands at the arbiter at once, or ends (R59,
R143). -/
def State.walkOn (s : State) : State :=
  match s.atu.walk with
  | none => s
  | some w =>
    match rooms.findSome? (s.walkRoom w) with
    | some (w', c) => s.onAtu fun a => { a with walk := some w', minuteClaim := some c }
    | none => s.onAtu fun a => { a with walk := none, minuteClaim := none }

/-! ### Minute expiries (R142, R146) -/

/-- Step 1: clear every refusal mark. -/
def State.clearRefusals (s : State) : State :=
  rooms.foldl (fun s r => s.setRoomState r { s.roomState r with refusal := false }) s

/-- Step 2, the presence sweep of a room: "the room's presence note holds the current day" (R142). -/
def State.sweepRoom (s : State) (r : Room) : State :=
  match (s.roomState r).note with
  | none => s
  | some n =>
    s.mapBookings r fun e =>
      if e.state = .booked ∧ e.presenceSeen = false ∧ n.day = s.clock.day ∧ e.start - s.early ≤ n.minute ∧ n.minute < e.stop
      then { e with presenceSeen := true } else e

/-- Step 3, the end warnings of a room (R146). -/
def State.warnRoom (now : Nat) (s : State) (r : Room) : State :=
  if 0 < s.warn ∧ s.hasPanel r ∧
      ((s.bookingsToday r).any fun b => decide (b.2.state = .inUse) && decide (b.2.stop = now + s.warn)) = true
  then s.chimeRequest r .warn else s

/-- The minute expiry of a minute is worked: steps 1 to 4 of R142, and the walk begins. -/
def State.workExpiry (s : State) (minute : Nat) : State :=
  let s := s.clearRefusals
  let s := rooms.foldl State.sweepRoom s
  let s := rooms.foldl (State.warnRoom minute) s
  let s := s.recomposeAll
  s.onAtu fun a => { a with walk := some ⟨minute, 0, 0⟩, minuteClaim := none }

/-- The expiries still to be worked are worked in order, and the walk of the last one goes on (R142). Nothing happens while
a claim is in progress or the walk's claim stands at the arbiter. -/
def State.workExpiries (s : State) : State :=
  if s.adu.claim.isSome || s.atu.minuteClaim.isSome then s
  else
    match s.atu.expiries with
    | [] => s
    | l => (l.foldl State.workExpiry (s.onAtu fun a => { a with expiries := [] })).walkOn

/-- A minute expiry at the Attendance Unit: worked at once, or when the claim in progress, or the claim of a walk under
way, has ended (R142). -/
def State.atuMinute (s : State) : State :=
  (s.onAtu fun a => { a with expiries := a.expiries ++ [s.clock.minute] }).workExpiries

/-- The window computation of the Panel Loop Unit that waits for the end of a claim (R111). -/
def State.workWindows (s : State) : State :=
  if s.plu.expiryDue && s.adu.claim.isNone then (s.onPlu fun p => { p with expiryDue := false }).pluMinute else s

/-! ### START (R138) -/

/-- The Attendance Unit at the acceptance of START: marks and notes cleared, every status line composed. -/
def State.startAtu (s : State) : State := (s.onAtu fun _ => {}).recomposeAll

end Sys2Proof.Machine
end

