-- ==== Sys2Proof/Machine/Catering.lean ====
section
/-! DEFINITION. The Catering Queue Unit (chapter 10): the order status table, the Catering Queue, the Recall List, the
notices of the Admission Unit, the hand-overs of a KEEP pass, the day end, and the write list. -/

namespace Sys2Proof.Machine

/-! ### Deciding (R156) -/

/-- The lock notice for an order's new state (R11). -/
def State.lockNotice (s : State) (o : OrderIx) (st : OrderState) : State :=
  s.onMps fun m => { m with locked := Table.set false m.locked o.val st.locks }

/-- Append an order to the write list unless it is there with its O4 not yet presented (R156). -/
def State.listWrite (s : State) (o : OrderIx) : State :=
  s.onCqu fun c => { c with writeList := if o ∈ c.writeList then c.writeList else c.writeList ++ [o] }

/-- The Catering Queue Unit decides an order's entry: a lock notice when the state is new, and the order onto the write
list when any field changed (R156). Each change to FAILED makes KITCHEN pending (R157). -/
def State.decideOrder (s : State) (o : OrderIx) (e : OrderEntry) : State :=
  if s.orderEntry o = some e then s
  else
    let old := s.orderEntry o
    let s := s.setOrderEntry o (some e)
    let s := s.listWrite o
    if old.map (·.state) = some e.state then s
    else
      let s := s.lockNotice o e.state
      if e.state = .failed then s.raiseKitchen else s

/-! ### The Catering Queue and the Recall List (R159, R164) -/

/-- The due minute by which an order stands in the queue. -/
def State.dueOf (s : State) (o : OrderIx) : Nat :=
  match s.orderEntry o with
  | some e => e.due
  | none => 0

/-- Insert in ascending due minute, and among equals in ascending order index (R159). -/
def insertByDue (due : OrderIx → Nat) (o : OrderIx) : List OrderIx → List OrderIx
  | [] => [o]
  | p :: t => if due o < due p ∨ (due o = due p ∧ o < p) then o :: p :: t else p :: insertByDue due o t

/-- Take an order out of the Catering Queue. -/
def State.unqueue (s : State) (o : OrderIx) : State := s.onCqu fun c => { c with queue := c.queue.filter (· != o) }

/-- The in-flight context is emptied under the link's work (R157, assumption log entry 44): a HALTED link stays so, a frame on
the wire is sent to its end and its answer disregarded, and otherwise the link is IDLE. -/
def Klc.dropContext (k : Klc) : Klc :=
  match k.stage with
  | .onWire => { k with context := none, finishing := true }
  | .quiet | .assembling _ | .assembled | .resendGap =>
    { k with context := none, stage := .quiet, link := if k.link = .halted then .halted else .idle }

/-- The reads of an assembly that has been dropped: a waiting one is withdrawn, a granted one runs to completion for nobody
(assumption log entry 44). -/
def Mps.dropAssembly (m : Mps) : Mps :=
  { m with
    granted := m.granted.map fun a => if a.owner = .klcAssembly then { a with owner := .orphanKlc } else a
    waiting := { m.waiting with klc := Waiting.keepFinal m.waiting.klc } }

/-- An order that is placed anew leaves the in-flight context (R157). -/
def State.leaveContext (s : State) (o : OrderIx) : State :=
  if s.klc.context.map (·.order) = some o then (s.onKlc Klc.dropContext).onMps Mps.dropAssembly else s

/-- "An order index stands at most once across the Catering Queue, the Recall List and the kitchen in-flight context together:
each rule below that places an order in one of them first takes it out of the place it held" (R157). -/
def State.unplace (s : State) (o : OrderIx) : State :=
  ((s.unqueue o).onCqu fun c => { c with recalls := c.recalls.filter (· != o) }).leaveContext o

/-- Place an order in the Catering Queue at the place its due minute and index give (R157, R159). -/
def State.enqueue (s : State) (o : OrderIx) : State :=
  let s := s.unplace o
  s.onCqu fun c => { c with queue := insertByDue s.dueOf o c.queue }

/-- Append an order at the tail of the Recall List (R157, R164). -/
def State.recall (s : State) (o : OrderIx) : State :=
  (s.unplace o).onCqu fun c => { c with recalls := c.recalls ++ [o] }

/-- DUE "when its book is TODAY and the due minute is at or before now", ATTACHED otherwise (R158). -/
def State.queuedState (s : State) (b : Book) (due : Nat) : OrderState :=
  if s.roleOf b = .today ∧ due ≤ s.clock.minute then .due else .attached

/-- Decide an entry as ATTACHED or DUE and place it in the queue (R158, R160, R163, R172). -/
def State.queueOrder (s : State) (o : OrderIx) (e : OrderEntry) : State :=
  (s.decideOrder o { e with state := s.queuedState e.at_.book e.due }).enqueue o

/-- Decide an entry as RECALLING and append it to the Recall List (R160 to R163, R166). -/
def State.recallOrder (s : State) (o : OrderIx) (e : OrderEntry) (resend : Bool) : State :=
  (s.decideOrder o { e with state := .recalling, resend := resend }).recall o

/-! ### Notices (R158, R160 to R163) -/

/-- Set the disposition mark of the in-flight context, where it names the order: a later notice replaces the mark, "except
that RELEASE and END are not replaced by MOVE or SHORT" (R163). -/
def State.markContext (s : State) (o : OrderIx) (m : Disposition) : State :=
  s.onKlc fun k =>
    { k with
      context := k.context.map fun c =>
        if c.order = o then
          match c.mark, m with
          | .release, .move | .release, .short | .ended, .move | .ended, .short => c
          | _, _ => { c with mark := m }
        else c }

/-- An attach notice (R158). -/
def State.noticeAttach (s : State) (o : OrderIx) (role : Role) (at_ : SlotRef) (start due : Nat) : State :=
  s.queueOrder o
    { state := .attached, resend := false, at_ := at_, role := role, start := start, lead := start - due, due := due,
      accepted := 0, total := 0, verdict := .none, retries := 0, failure := .none }

/-- A move notice (R160). -/
def State.noticeMove (s : State) (o : OrderIx) (start due : Nat) : State :=
  match s.orderEntry o with
  | none => s
  | some old =>
    let e := { old with start := start, due := due, lead := start - due }
    match old.state with
    | .attached | .due => s.queueOrder o e
    | .sending => (s.decideOrder o e).markContext o .move
    | .accepted => s.recallOrder o e true
    | .recalling | .unused | .detached | .cancelled | .recalled | .failed => s.decideOrder o e

/-- A short-detach notice (R161). -/
def State.noticeShortDetach (s : State) (o : OrderIx) : State :=
  match s.orderEntry o with
  | none => s
  | some e =>
    match e.state with
    | .attached | .due => (s.decideOrder o { e with state := .detached }).unqueue o
    | .sending => s.markContext o .short
    | .accepted => s.recallOrder o e false
    | .recalling => s.decideOrder o { e with resend := false }
    | .unused | .detached | .cancelled | .recalled | .failed => s

/-- A death notice (R162). -/
def State.noticeDeath (s : State) (o : OrderIx) (k : DeathKind) : State :=
  match s.orderEntry o with
  | none => s
  | some e =>
    match e.state with
    | .attached | .due => (s.decideOrder o { e with state := .cancelled }).unqueue o
    | .sending =>
      match k with
      | .cancel | .release => s.markContext o .release
      | .ended _ => s.markContext o .ended
    | .accepted =>
      match k with
      | .cancel | .release => s.recallOrder o e false
      | .ended _ => s
    | .recalling => s.decideOrder o { e with resend := false }
    | .unused | .detached | .cancelled | .recalled | .failed => s

/-- One notice of the Admission Unit (R76). -/
def State.notice (s : State) : Notice → State
  | .attach o role at_ start due => s.noticeAttach o role at_ start due
  | .move o start due => s.noticeMove o start due
  | .shortDetach o => s.noticeShortDetach o
  | .death o k => s.noticeDeath o k

/-- The notices of a claim, in order (R76). -/
def State.notices (s : State) (l : List Notice) : State := l.foldl State.notice s

/-! ### The disposition mark takes effect (R163) -/

/-- Settle an order by its disposition mark, with `a` the tickets accepted in its entry (R163). The retries used are left as the
answer left them (assumption log entry 59). -/
def State.dispose (s : State) (o : OrderIx) (m : Disposition) : State :=
  match s.orderEntry o with
  | none => s
  | some e =>
    match m with
    | .none => s
    | .move => if e.accepted = 0 then s.queueOrder o e else s.recallOrder o e true
    | .short => if e.accepted = 0 then s.decideOrder o { e with state := .detached } else s.recallOrder o e false
    | .release => if e.accepted = 0 then s.decideOrder o { e with state := .cancelled } else s.recallOrder o e false
    | .ended =>
      if e.accepted ≠ 0 ∧ e.accepted = e.total then s.decideOrder o { e with state := .accepted }
      else s.decideOrder o { e with state := .failed, failure := .stale }

/-! ### Minute and day (R159, R165) -/

/-- An ATTACHED order of the TODAY book whose due minute has come becomes DUE in its place (R159). -/
def State.makeDue (s : State) (o : OrderIx) : State :=
  match s.orderEntry o with
  | none => s
  | some e =>
    if e.state = .attached ∧ s.queuedState e.at_.book e.due = .due then s.decideOrder o { e with state := .due } else s

/-- A minute expiry at the Catering Queue Unit (R159). That several orders are decided, and so join the write list, in queue
order is the model's choice (assumption log entry 53). -/
def State.cateringMinute (s : State) : State := s.cqu.queue.foldl State.makeDue s

/-- A queued order of the finished day's book becomes CANCELLED and leaves the queue (R165). -/
def State.closeQueued (b : Book) (s : State) (o : OrderIx) : State :=
  match s.orderEntry o with
  | none => s
  | some e => if e.at_.book = b then (s.decideOrder o { e with state := .cancelled }).unqueue o else s

/-- An ACCEPTED order of the finished day's book becomes DETACHED (R165). -/
def State.closeAccepted (b : Book) (s : State) (o : OrderIx) : State :=
  match s.orderEntry o with
  | none => s
  | some e => if e.at_.book = b ∧ e.state = .accepted then s.decideOrder o { e with state := .detached } else s

/-- The order indexes in ascending order. -/
def orderIndexes : List OrderIx := (List.range 128).map (Fin.ofNat 128)

/-- The day of book `b` closes (R165). The queued orders are taken in queue order, then the ACCEPTED ones by index
(assumption log entry 27). -/
def State.dayClose (s : State) (b : Book) : State :=
  orderIndexes.foldl (State.closeAccepted b) (s.cqu.queue.foldl (State.closeQueued b) s)

/-! ### Hand-overs of a KEEP pass (R166) -/

/-- The fate a hand-over carries (R166). -/
inductive Fate | rebuilt | ended | release
  deriving DecidableEq, Repr

/-- A hand-over (R166): the new state, and whether the order is kept for a REBUILT booking. `st` is the state O4 shows
(none for a code that names no state); `e` carries the booking reference, start, lead, due and the tickets of O6. The
hand-over is refused as held when the entry is already HELD: by an earlier hand-over of the pass (R103, R166), and, which is
the model's choice, by the attach notice of a request admitted in WALKING (assumption log entry 37). The resend mark read
goes with RECALLING alone (assumption log entry 56). A REBUILT order read SENDING that is not full is queued as DUE whatever
its book, as the table of R166 has it; R159 says that an order of the NEXT book is never made DUE before the swap, and that
R166 governs there is the model's choice (assumption log entry 62). -/
def State.handOver (s : State) (o : OrderIx) (fate : Fate) (st : Option OrderState) (resend : Bool) (e : OrderEntry) :
    State × Bool :=
  if (s.orderEntry o).isSome then (s, false)
  else
    let full := decide (e.total ≠ 0 ∧ e.accepted = e.total)
    match fate, st with
    | .rebuilt, some .attached | .rebuilt, some .due => (s.queueOrder o e, true)
    | .rebuilt, some .sending =>
      if full then (s.decideOrder o { e with state := .accepted }, true)
      else ((s.decideOrder o { e with state := .due }).enqueue o, true)
    | .rebuilt, some .accepted => (s.decideOrder o { e with state := .accepted }, true)
    | .rebuilt, some .recalling => (s.recallOrder o e resend, true)
    | .ended, some .attached | .ended, some .due => (s.decideOrder o { e with state := .cancelled }, true)
    | .ended, some .sending =>
      if full then (s.decideOrder o { e with state := .accepted }, true)
      else (s.decideOrder o { e with state := .failed, failure := .stale }, true)
    | .ended, some .accepted => (s.decideOrder o { e with state := .accepted }, true)
    | .ended, some .recalling => (s.recallOrder o e false, true)
    | .release, some .attached | .release, some .due => (s.decideOrder o { e with state := .cancelled }, true)
    | .release, some .sending =>
      if e.accepted > 0 then (s.recallOrder o e false, true) else (s.decideOrder o { e with state := .cancelled }, true)
    | .release, some .accepted | .release, some .recalling => (s.recallOrder o e false, true)
    | _, _ => (s, false)

/-! ### The write list (R156) -/

/-- Present the next word of the write list, its contents taken from the entry at this moment; the order's O4 opens it
(R156). Nothing is presented while the unit has an access outstanding. -/
def State.presentCqu (s : State) : State :=
  if s.mps.outstanding .cqu then s
  else
    match s.cqu.writing with
    | some (o, n) =>
      match s.orderEntry o with
      | some e => s.present (ownWrite .cqu (s.orderAddr o (4 + n), orderWord e n))
      | none => s
    | none =>
      match s.cqu.writeList with
      | [] => s
      | o :: rest =>
        match s.orderEntry o with
        | some e =>
          (s.onCqu fun c => { c with writeList := rest, writing := some (o, 0) }).present
            (ownWrite .cqu (s.orderAddr o 4, orderWord e 0))
        | none => s

/-- A word of an order has been written: an error sets MEMERR and the remaining words are still made (R156). -/
def State.cquDone (s : State) (error : Bool) : State :=
  let s := if error then s.setFlags flagMemerr else s
  s.onCqu fun c =>
    { c with
      writing :=
        match c.writing with
        | some (o, n) => if n < 3 then some (o, n + 1) else none
        | none => none }

end Sys2Proof.Machine
end

