-- ==== Sys2Proof/Machine/Kitchen.lean ====
section
/-! DEFINITION. The Kitchen Link Controller (chapters 10 and 11): taking work, assembling, sending, answers, soft faults,
mismatches, HALTED, KITCHEN-CLEAR, and the link over RESET and RESTART. -/

namespace Sys2Proof.Machine

/-- The sync word of the link's frames (R169). -/
def syncWord : Word := 0x5A3CC3A5

/-! ### Assembly (R168) -/

/-- Tickets of an order of `n` items: "n / 32 rounded up". -/
def ticketsFor (n : Nat) : Nat := (n + 31) / 32

/-- Items on ticket k of an order of `n` items: "the smaller of 32 and n − 32 × (k − 1)"; none, which is the model's choice,
where that is below 0 (assumption log entry 51). -/
def itemsOn (n k : Nat) : Nat := min 32 (n - 32 * (k - 1))

/-- The next word to read for the frame of a context, after the words `got`; none when the frame is whole. -/
def State.nextAssemblyRead (s : State) (c : Context) (got : List Word) : Option Addr :=
  let n := got.length
  match c.kind with
  | .ticket =>
    if n < 4 then some (s.orderAddr c.order n)
    else
      let j := n - 4
      if j < itemsOn (itemCount (got.getD 0 0)) c.ticketIndex then
        some (addrAt (itemList (got.getD 1 0)) (4 * (32 * (c.ticketIndex - 1) + j)))
      else none
  | .recall =>
    match n with
    | 0 => some (s.orderAddr c.order 0)
    | 1 => some (s.orderAddr c.order 2)
    | 2 => some (s.orderAddr c.order 3)
    | _ => none

/-- Header word H0 (section 12.7); each count fills its field of four bits (assumption log entry 35). -/
def header0 (e : OrderEntry) (station index : Nat) (isRecall : Bool) : Word :=
  place e.at_.room.val 0 ||| place (e.total % 16) 8 ||| place (index % 16) 16 ||| place station 24 ||| placeBit isRecall 31

/-- The sum of words modulo 2^32. -/
def sumWords (l : List Word) : Word := l.foldl (· + ·) 0

/-- The whole frame of a context from the words read (R168, R169). -/
def frameOf (c : Context) (e : OrderEntry) (got : List Word) : List Word :=
  let station := stationOf (got.getD 0 0)
  let lead := List.replicate 8 (0 : Word) ++ [syncWord]
  match c.kind with
  | .ticket =>
    let items := got.drop 4
    let body :=
      [header0 e station c.ticketIndex false, got.getD 2 0, place e.start 0, got.getD 3 0] ++ items
        ++ List.replicate (32 - items.length) 0
    lead ++ body ++ [sumWords body, 0]
  | .recall =>
    let body := [header0 e station 0 true, got.getD 1 0, place e.start 0, got.getD 2 0]
    lead ++ body ++ [sumWords body, 0]

/-- What the kitchen line carries: while a frame is on the wire, its words with no gap, "four bytes, most significant byte
first"; none while the line driver is off (R169). -/
def Klc.line (k : Klc) : Option (List LineSymbol) :=
  match k.stage with
  | .onWire => some (serial (k.buffer.flatMap wordBytes))
  | .quiet | .assembling _ | .assembled | .resendGap => none

/-- Begin to assemble the frame of a context (R167, R168); the mismatch count starts at 0 (R174). -/
def State.assemble (s : State) (c : Context) : State :=
  s.onKlc fun k =>
    { k with link := .sending, context := some { c with mismatches := 0 }, stage := .assembling [] }

/-- The link becomes IDLE with the context empty. -/
def State.linkIdle (s : State) : State :=
  s.onKlc fun k => { k with link := .idle, context := none, stage := .quiet, halt := .none }

/-- The link enters HALTED; the context is kept whole (R175). -/
def State.haltLink (s : State) (r : HaltReason) : State :=
  (s.onKlc fun k => { k with link := .halted, stage := .quiet, halt := r }).raiseKitchen

/-- Record the tickets total in the order's entry (R168). -/
def State.recordTotal (s : State) (o : OrderIx) (total : Nat) : State :=
  match s.orderEntry o with
  | none => s
  | some e => s.decideOrder o { e with total := total }

/-- A read of the assembly has completed (R168). The tickets total is handed over once O0 has been read (assumption log
entry 22), and the header takes the room, start and total from the entry when the last word has been read (assumption log
entry 41). When the frame is whole it begins to be sent, unless the gap after an answer still runs (R170). -/
def State.assemblyRead (s : State) (data : Word) (error : Bool) : State :=
  match s.klc.stage, s.klc.context with
  | .assembling got, some c =>
    if error then s.haltLink .memory
    else
      let got := got ++ [data]
      let s :=
        if c.kind = .ticket ∧ got.length = 1 then s.recordTotal c.order (ticketsFor (itemCount data)) else s
      match s.nextAssemblyRead c got, s.orderEntry c.order with
      | none, some e =>
        s.onKlc fun k =>
          { k with buffer := frameOf c e got, stage := if k.gap then .assembled else .onWire }
      | _, _ => s.onKlc fun k => { k with stage := .assembling got }
  | _, _ => s

/-! ### Taking work (R167) -/

/-- The first DUE order in Catering Queue order. -/
def State.firstDue (s : State) : Option OrderIx :=
  s.cqu.queue.find? fun o => decide ((s.orderEntry o).map (·.state) = some .due)

/-- The link looks for work: IDLE, context empty, phase RUNNING; the head of the Recall List first, then the first DUE
order (R167). -/
def State.lookForWork (s : State) : State :=
  if s.klc.link = .idle ∧ s.klc.context = none ∧ s.ctu.phase = .running then
    match s.cqu.recalls with
    | o :: rest =>
      (s.onCqu fun c => { c with recalls := rest }).assemble ⟨o, .recall, 0, .none, 0⟩
    | [] =>
      match s.firstDue with
      | none => s
      | some o =>
        match s.orderEntry o with
        | none => s
        | some e =>
          ((s.unqueue o).decideOrder o { e with state := .sending }).assemble ⟨o, .ticket, e.accepted + 1, .none, 0⟩
  else s

/-! ### Answers (R170 to R174, R179) -/

/-- The verdict an answer's verdict word names (section 12.7). -/
def answerVerdict (w : Word) : Option KitchenVerdict :=
  if w = 1 then some .accept else if w = 2 then some .checkfail else none

/-- The header words of the frame in the Ticket Buffer, after eight zero words and the sync word. -/
def Klc.header (k : Klc) (n : Nat) : Word := k.buffer.getD (9 + n) 0

/-- The station, order number and ticket index of the frame in the Ticket Buffer, as whole words. -/
def Klc.frameStation (k : Klc) : Word := place (bits (k.header 0) 27 24) 0
def Klc.frameOrderNumber (k : Klc) : Word := k.header 1
def Klc.frameTicket (k : Klc) : Word := place (bits (k.header 0) 19 16) 0

/-- A valid answer (R170): the right sync word, a verdict, and the checksum of its four middle words. -/
def answerValid (sync station orderNumber ticketIndex verdict checksum : Word) : Bool :=
  decide (sync = syncWord) && (answerVerdict verdict).isSome
    && decide (checksum = sumWords [station, orderNumber, ticketIndex, verdict])

/-- A TICKET frame is accepted (R171). An order whose tickets accepted exceed its total becomes ACCEPTED, which is the model's
choice (assumption log entry 52), and so is that the count and the effect of a mark are both decided before a word of the order
is presented (assumption log entry 57). -/
def State.ticketAccepted (s : State) (c : Context) (e : OrderEntry) : State :=
  let e := { e with accepted := e.accepted + 1, verdict := .accept, retries := 0 }
  if c.mark ≠ .none then ((s.decideOrder c.order e).dispose c.order c.mark).linkIdle
  else if e.accepted < e.total then (s.decideOrder c.order e).assemble { c with ticketIndex := e.accepted + 1 }
  else (s.decideOrder c.order { e with state := .accepted }).linkIdle

/-- A RECALL frame is accepted (R172). -/
def State.recallAccepted (s : State) (c : Context) (e : OrderEntry) : State :=
  let e := { e with verdict := .accept, retries := 0 }
  if e.resend then (s.queueOrder c.order { e with resend := false, accepted := 0 }).linkIdle
  else (s.decideOrder c.order { e with state := .recalled }).linkIdle

/-- The same frame is to be sent again after the byte time that follows the answer (R170, R173, R174). The link reads SENDING
from the answer on (assumption log entry 23). -/
def State.resend (s : State) (c : Context) : State :=
  s.onKlc fun k => { k with link := .sending, context := some c, stage := .resendGap }

/-- A soft fault: CHECKFAIL from the addressed station (R173), with the effect of a mark decided at once (assumption log entry
57). That the retries used stand as they are where a mark takes effect, and go on into the recall or the requeued ticket that
follows, is the model's choice (assumption log entry 59). -/
def State.softFault (s : State) (c : Context) (e : OrderEntry) : State :=
  let c := { c with mismatches := 0 }
  let e := { e with verdict := .checkfail }
  let s := s.onKlc fun k => { k with context := some c }
  if c.mark ≠ .none then ((s.decideOrder c.order e).dispose c.order c.mark).linkIdle
  else if s.haltOnSoft then (s.decideOrder c.order e).haltLink .soft
  else if e.retries < s.retries then (s.decideOrder c.order { e with retries := e.retries + 1 }).resend c
  else (s.decideOrder c.order { e with state := .failed, failure := .soft, resend := false }).linkIdle

/-- A mismatch: a valid answer of another station (R174). -/
def State.mismatch (s : State) (c : Context) : State :=
  let c := { c with mismatches := c.mismatches + 1 }
  if c.mismatches < 16 then s.resend c
  else (s.onKlc fun k => { k with context := some c }).haltLink .station

/-- The words of the final write after RESTART for an answer (R179). -/
def Residue.writes (r : Residue) (v : KitchenVerdict) : List WordWrite :=
  let accepted := if v = .accept ∧ r.kind = .ticket then r.ticketIndex else r.accepted
  let retries := if v = .accept then 0 else r.retries
  [(r.addr6, wordO6 accepted r.total), (r.addr7, wordO7 v retries .none)]

/-- A valid answer taken while the link is AWAITING (R170, R179). -/
def State.validAnswer (s : State) (station orderNumber ticketIndex : Word) (v : KitchenVerdict) : State :=
  let mine := decide (station = s.klc.frameStation)
  let matching := mine && decide (orderNumber = s.klc.frameOrderNumber) && decide (ticketIndex = s.klc.frameTicket)
  match s.klc.residue with
  | some r =>
    if matching then
      (s.onKlc fun k => { k with residue := none, gap := true, final := k.final ++ r.writes v }).linkIdle
    else s
  | none =>
    match s.klc.context with
    | none => s
    | some c =>
      match s.orderEntry c.order with
      | none => s
      | some e =>
        if matching then
          let s := s.onKlc fun k => { k with gap := true }
          match v, c.kind with
          | .accept, .ticket => s.ticketAccepted c e
          | .accept, .recall => s.recallAccepted c e
          | .checkfail, _ => s.softFault c e
          | .none, _ => s
        else if mine then s
        else (s.onKlc fun k => { k with gap := true }).mismatch c

/-! ### Presenting accesses -/

/-- Present the controller's next access (R14, R168, R179): a word of the final write after RESTART first, then a read of the
assembly, which is the model's choice where both wait (assumption log entry 46). -/
def State.presentKlc (s : State) : State :=
  if s.mps.outstanding .klc then s
  else
    match s.klc.final with
    | w :: _ => s.present (ownWrite .klcFinal w)
    | [] =>
      match s.klc.stage, s.klc.context with
      | .assembling got, some c =>
        match s.nextAssemblyRead c got with
        | some a => s.present (ownRead .klcAssembly a)
        | none => s
      | _, _ => s

/-- A word of the final write has completed; an error sets MEMERR (R179), and O7 is written after an error on O6 too
(assumption log entry 43). -/
def State.finalDone (s : State) (error : Bool) : State :=
  let s := if error then s.setFlags flagMemerr else s
  s.onKlc fun k => { k with final := k.final.drop 1 }

/-! ### KITCHEN-CLEAR (R177) -/

/-- KITCHEN-CLEAR of a HALTED link, once accepted, with the effect of a mark decided at once (assumption log entry 57). -/
def State.kitchenClear (s : State) : State :=
  match s.klc.context with
  | none => s.linkIdle
  | some c =>
    let s := s.onKlc fun k => { k with halt := .none }
    match s.orderEntry c.order with
    | none => s.linkIdle
    | some e =>
      let s := s.decideOrder c.order { e with retries := 0 }
      match c.kind with
      | .recall => s.assemble c
      | .ticket =>
        if c.mark = .none then s.assemble { c with ticketIndex := e.accepted + 1 }
        else (s.dispose c.order c.mark).linkIdle

/-! ### Resets (R178, R179) -/

/-- The controller after hardware RESET: a frame on the wire is finished from the Ticket Buffer, everything else ends at
once (R178). -/
def Klc.hardwareReset (k : Klc) : Klc :=
  match k.stage with
  | .onWire => { buffer := k.buffer, link := .sending, stage := .onWire, finishing := true }
  | .quiet | .assembling _ | .assembled | .resendGap => {}

/-- What the controller keeps of a frame over RESTART (R179). The addresses of O6 and O7 are those of the Order Table at the
RESTART, whatever base software or a START gives before the final write (assumption log entry 42). -/
def State.residueOf (s : State) : Option Residue :=
  match s.klc.context with
  | none => s.klc.residue
  | some c =>
    match s.orderEntry c.order with
    | none => s.klc.residue
    | some e =>
      some ⟨c.order, c.kind, c.ticketIndex, e.accepted, e.total, e.retries, s.orderAddr c.order 6, s.orderAddr c.order 7⟩

/-- RESTART at the controller, before the other blocks are reset (R179): a frame on the wire is completed and an answer
awaited with the context emptied; otherwise the link becomes IDLE. -/
def State.restartKlc (s : State) : State :=
  match s.klc.stage, s.klc.link with
  | .onWire, _ | .quiet, .awaiting =>
    let r := s.residueOf
    s.onKlc fun k => { k with context := none, residue := r }
  | _, _ => s.linkIdle

end Sys2Proof.Machine
end

