-- ==== Sys2Proof/Machine/Claims.lean ====
section
/-! DEFINITION. The schedule arbiter (section 4.4): which claim it may take, what a claim reads at its taking, the end of a
claim, lifecycle claims (R75), and the order of the Admission Unit's memory accesses. -/

namespace Sys2Proof.Machine

/-! ### Notices between claims (R45, R140, R141) -/

/-- A draft notice makes a FREE entry DRAFT; DRAFT and LIVE stay (R45). -/
def draftSlot (v : SlotState) : SlotState :=
  match v with
  | .free => .draft
  | .draft => .draft
  | .live i => .live i

/-- Apply the draft notice of the slot with this key. -/
def Adu.applyDraft (a : Adu) (k : Nat) : Adu :=
  { a with
    slotMap := Table.set .free a.slotMap k (draftSlot (Table.get .free a.slotMap k))
    drafts := Table.set false a.drafts k false }

/-- Apply every pending draft notice (R45). -/
def State.applyDrafts (s : State) : State :=
  s.onAdu fun a => (a.drafts.map (·.1)).foldl Adu.applyDraft a

/-- Every notice that waits is applied: the draft notices by rising slot, then the return notices, then the PRESENT reports by
rising room (the order of the kinds: assumption log entry 13). -/
def State.applyNotices (s : State) : State := rooms.foldl State.applyReports (rooms.foldl State.applyReturn s.applyDrafts)

/-- The notices that wait between claims are applied, as they are before a minute or day-end expiry is worked; during a claim
they wait for its end (R45, R140, R141). -/
def State.noticesBetweenClaims (s : State) : State := if s.adu.claim.isNone then s.applyNotices else s

/-! ### The choice of a claim (R59, R50, R99) -/

/-- The sources of claims, in the arbiter's order (R59). -/
inductive ClaimSource | scanner | minute | request | panel
  deriving DecidableEq, Repr

/-- The number of a cursor or slot in the order a pass visits a book. -/
def SlotRef.inBook (r : SlotRef) : Nat := r.room.val * 16 + r.slot.val

/-- The cursor has left a room of a book (R99): a pass over the book has visited the room's slot 15, or no pass is to visit
it. CLEAN and KEEP visit Book A, then Book B; a TURNOVER pass visits the cursor's book only (R98). -/
def Bsc.hasLeft (b : Bsc) (book : Book) (room : Room) : Bool :=
  match b.pass with
  | .none => true
  | .turnover => decide (book ≠ b.cursor.book) || decide (room < b.cursor.room)
  | .clean | .keep =>
    if book = b.cursor.book then decide (room < b.cursor.room)
    else decide (book = .bookA)

/-- A request claim waits and R50 does not hold it back. -/
def State.requestReady (s : State) : Bool :=
  match s.adu.request with
  | none => false
  | some r => s.bsc.hasLeft r.at_.book r.at_.room

/-- The arbiter may take the claim of a source now: no claim is in progress, and no source ahead has a claim waiting that
could be taken (R59). A Bank Scanner visit that has just become the next one counts as waiting only once it is presented
(assumption log entry 12); a walk's claim waits from the end of the one before it, so that a request "waits until the
Attendance Unit has presented all the changes that the expiry made due" (R59). -/
def State.mayTake (s : State) (c : ClaimSource) : Bool :=
  s.adu.claim.isNone &&
    match c with
    | .scanner => decide (s.bsc.pass ≠ PassKind.none)
    | .minute => s.atu.minuteClaim.isSome && !s.bsc.presented
    | .request => s.requestReady && !s.bsc.presented && s.atu.minuteClaim.isNone
    | .panel =>
      s.atu.panelEvent.isSome && !s.atu.panelTaken && !s.bsc.presented && s.atu.minuteClaim.isNone && !s.requestReady

/-- What a claim of a book reads at its taking (R60). -/
def State.takenFor (s : State) (b : Book) : Taken := ⟨s.roleOf b, s.clock.minute, s.clock.day⟩

/-- A claim is taken. Every notice that came before is applied first (R45, R140, R141); while the claim is in progress, the
scanner's next visit comes to stand at the arbiter (assumption log entry 12). -/
def State.take (s : State) (c : ClaimSource) : State :=
  let s := s.applyNotices
  let s : State :=
    match c with
    | .scanner => s.onBsc fun b => { b with presented := false }
    | .minute | .request | .panel => s.onBsc fun b => { b with presented := decide (b.pass ≠ PassKind.none) }
  match c with
  | .minute => s.onAtu fun a => { a with minuteClaim := none }
  | .panel => s.onAtu fun a => { a with panelTaken := true }
  | .request => s.onAdu fun a => { a with request := none }
  | .scanner => s

/-! ### The end of a claim (R59, R140 to R143) -/

/-- A claim ends: the draft notices, return notices and PRESENT reports that arrived during it are applied (R45, R140,
R141), then the minute expiries that waited (R111, R142), and a walk whose claim it was goes on (R143). -/
def State.endClaim (s : State) : State :=
  let s := (s.onAdu fun a => { a with claim := none }).applyNotices
  let s := s.workWindows.workExpiries
  if s.atu.walk.isSome && s.atu.minuteClaim.isNone then s.walkOn else s

/-! ### Memory accesses of the Admission Unit and the Bank Scanner -/

/-- The `n`-th word of the reads made, none where it was not read or memory reported an error for it. -/
def wordRead (got : List (Option Word)) (n : Nat) : Option Word := got.getD n none

/-- The next read of an admission's stage 2 (R63): W0, W1, W2 for NEW and AMEND, then O0 and O4 of the order that W2
names. A read that failed does not keep the others from being made; a W2 that could not be read names no order
(assumption log entry 18). -/
def State.proposalRead (s : State) (a : Admission) (got : List (Option Word)) : Option Addr :=
  match a.kind, a.slot with
  | .new, some slot | .amend, some slot =>
    let order := (wordRead got 2).bind fun w => orderOfField (proposedOrder w)
    match got.length, order with
    | 0, _ | 1, _ | 2, _ => some (s.slotAddr ⟨a.book, a.room, slot⟩ got.length)
    | 3, some o => some (s.orderAddr o 0)
    | 4, some o => some (s.orderAddr o 4)
    | _, _ => none
  | _, _ => none

/-- The next read of a KEEP visit (R101, R103): W5, W4, W6, then O0, O4 and O6 of the order that W6 of a live slot
names; an error on one read of the order does not keep the others from being made (assumption log entry 18). -/
def State.keepRead (s : State) (at_ : SlotRef) (got : List (Option Word)) : Option Addr :=
  let code := bookingStateCode ((wordRead got 0).getD 0)
  let order := if code == 1 || code == 2 then (wordRead got 2).bind fun w => orderOfField (admittedOrder w) else none
  match got.length, order with
  | 0, _ => some (s.slotAddr at_ 5)
  | 1, _ => some (s.slotAddr at_ 4)
  | 2, _ => some (s.slotAddr at_ 6)
  | 3, some o => some (s.orderAddr o 0)
  | 4, some o => some (s.orderAddr o 4)
  | 5, some o => some (s.orderAddr o 6)
  | _, _ => none

/-- The next read of the three words a refusal writes back (R74). -/
def State.backRead (s : State) (a : Admission) (got : List (Option Word)) : Option Addr :=
  match a.slot with
  | some slot => if got.length < 3 then some (s.slotAddr ⟨a.book, a.room, slot⟩ (4 + got.length)) else none
  | none => none

/-- The access the claim in progress wants to make next. -/
def State.claimAccess (s : State) : Option Access :=
  match s.adu.claim with
  | none => none
  | some c =>
    match c with
    | .admission a (.proposal got) => (s.proposalRead a got).map (ownRead .aduClaim)
    | .admission a (.readBack _ got) => (s.backRead a got).map (ownRead .aduClaim)
    | .admission _ (.writing _ _ todo _) => todo.head?.map (ownWrite .aduClaim)
    | .lifecycle _ _ todo _ _ => todo.head?.map (ownWrite .aduClaim)
    | .cleanVisit _ todo => todo.head?.map (ownWrite .aduClaim)
    | .turnoverVisit _ todo => todo.head?.map (ownWrite .aduClaim)
    | .keepWriting _ _ todo => todo.head?.map (ownWrite .aduClaim)
    | .keepReading at_ _ got => (s.keepRead at_ got).map (ownRead .bsc)

/-- Present the next left-over write of a claim that has ended (R52). -/
def State.presentTail (s : State) : State :=
  match s.adu.tail with
  | some ⟨w :: _, _⟩ => if s.mps.outstanding .adu then s else s.present (ownWrite .aduTail w)
  | _ => s

/-- Present the next access of the claim in progress; the Admission Unit makes the left-over writes first, and has one
access at a time (R14, R52). -/
def State.presentClaim (s : State) : State :=
  match s.claimAccess with
  | none => s
  | some a =>
    if s.mps.outstanding a.owner.requester || (decide (a.owner = .aduClaim) && s.adu.tail.isSome) then s
    else s.present a

/-- The last word of a claim's writes is presented: the claim leaves it behind as its tail (R52, R59). -/
def State.leaveTail (s : State) (todo : List WordWrite) (k : TailKind) : State :=
  s.onAdu fun a => { a with tail := some ⟨todo, k⟩ }

/-- A left-over write has completed. An error on a lifecycle claim's W7 has the four words written once more (R75); one on
a scanner visit's W7 sets MEMERR (R100); one on an admission's W7 brings about nothing (R74). -/
def State.tailDone (s : State) (error : Bool) : State :=
  match s.adu.tail with
  | none => s
  | some ⟨todo, k⟩ =>
    let rest := todo.drop 1
    match error, k with
    | true, .lifecycle words => s.onAdu fun a => { a with tail := some ⟨words, .ignored⟩ }
    | true, .scanner => (s.onAdu fun a => { a with tail := none }).setFlags flagMemerr
    | _, _ => s.onAdu fun a => { a with tail := if rest = [] then none else some ⟨rest, k⟩ }

/-- Recompose a room's status line at the end of a claim that changed a LIVE booking of it in the TODAY book (R154). -/
def State.recomposeToday (s : State) (b : Book) (r : Room) : State := if s.clock.today = b then s.recompose r else s

/-! ### Panel answers (R151) -/

/-- The Attendance Unit acts on the answer to a panel claim: a chime, the refusal mark, and the status line (R151). -/
def State.answerPanel (s : State) (r : Room) (confirmed : Bool) : State :=
  let s := s.onAtu fun a => { a with panelEvent := none, panelTaken := false }
  let s := s.chimeRequest r (if confirmed then .confirm else .refuse)
  let s := if confirmed then s else s.setRoomState r { s.roomState r with refusal := true }
  s.recompose r

/-! ### Lifecycle claims (R75) -/

/-- The entry of a booking as a lifecycle change writes it. -/
def LifeWork.changed (w : LifeWork) (e : PoolEntry) : PoolEntry :=
  match w.change with
  | .checkin src => { e with state := .inUse, source := src, checkinMinute := some w.taken.now }
  | .release | .ended _ => e

/-- The admitted half a lifecycle change writes (R75). -/
def State.lifeWrites (s : State) (w : LifeWork) (e : PoolEntry) : List WordWrite :=
  match w.change with
  | .checkin src => entryWrites s (w.changed e) .inUse .none src w.taken
  | .release => entryWrites s e .released .none .none w.taken
  | .ended c => entryWrites s e .ended c (if e.state = .inUse then e.source else .none) w.taken

/-- A lifecycle claim begins to write. -/
def State.beginLife (s : State) (w : LifeWork) : State :=
  match s.entry w.entry with
  | none => s
  | some e => s.onAdu fun a => { a with claim := some (.lifecycle w (s.lifeWrites w e) (s.lifeWrites w e) false false) }

/-- The death notice of a lifecycle change for the attached order (R75). -/
def LifeWork.deathNotices (w : LifeWork) (e : PoolEntry) : List Notice :=
  match e.order, w.change with
  | some o, .release => [.death o .release]
  | some o, .ended c => [.death o (.ended c)]
  | _, _ => []

/-- The commit of a lifecycle claim, with the death notice after it (R75). -/
def State.commitLife (s : State) (w : LifeWork) : State :=
  match s.entry w.entry with
  | none => s
  | some e =>
    match w.change with
    | .checkin _ => s.setEntry w.entry (some (w.changed e))
    | .release | .ended _ => (s.freeEntry w.entry).notices (w.deathNotices e)

/-- A lifecycle claim ends: the room is marked in the Change Summary, its status line recomposed, and a panel claim
answered CONFIRM (R143, R151, R152). -/
def State.endLife (s : State) (w : LifeWork) : State :=
  let s := (s.markChanged w.at_.room).recomposeToday w.at_.book w.at_.room
  let s := if w.panel then s.answerPanel w.at_.room true else s
  s.endClaim

/-- A write of a lifecycle claim has completed. When W6 has completed, W7 is presented and the change committed; a first
writing that met an error goes on with W7 and then all four words once more, which are not examined (R75). -/
def State.lifeWritten (s : State) (w : LifeWork) (words todo : List WordWrite) (failed second error : Bool) : State :=
  let failed := failed || error
  let rest := todo.drop 1
  let s := s.onAdu fun a => { a with claim := some (.lifecycle w words rest failed second) }
  match second, failed, rest with
  | false, false, [_] => ((s.commitLife w).leaveTail rest (.lifecycle words)).endLife w
  | false, true, [_] => s.commitLife w
  | false, true, [] => s.onAdu fun a => { a with claim := some (.lifecycle w words words false true) }
  | true, _, [_] => (s.leaveTail rest .ignored).endLife w
  | _, _, _ => s

/-! ### The end of every step -/

/-- An idle link looks for work (R167), and each block presents the access it wants to make (R14). That the link takes an order
which has become DUE in this step before the order's O4 is presented is the model's choice (R156; assumption log entry 54). -/
def presentAll (s : State) : State := s.lookForWork.presentCqu.presentKlc.presentTail.presentClaim

/-- What follows every command inside its step: the blocks present their accesses, and a free port is granted (R14). -/
def settle (s : State) : State := (presentAll s).onMps Mps.arbitrate

/-- The outcome of a command that runs: the state it leaves, settled. -/
def ran (s : State) : Out := .next (settle s)

end Sys2Proof.Machine
end

