-- ==== Sys2Proof/Machine/Admission.lean ====
section
/-! DEFINITION. Admissions (chapters 4 and 5): the checks, the trap decision, the writing, the commit, the reports and the
end; and the meanings of the request claims and the panel admissions. -/

namespace Sys2Proof.Machine

/-! ### The overlap test (R57) -/

/-- The other bookings of a room, `skip` left out. -/
def State.others (s : State) (b : Book) (r : Room) (skip : Option Nat) : List PoolEntry :=
  ((s.bookings b r).filter fun x => decide (some x.1 ≠ skip)).map (·.2)

/-- Some entry holds minute c. -/
def occupiedStart (l : List PoolEntry) (c : Nat) : Bool := l.any fun e => decide (e.start ≤ c) && decide (c < e.stop)

/-- The start of the first overlap, "The overlapping entry of least start" (R57): "An entry [s, e) overlaps the candidate
when s < d and c < e". -/
def firstOverlap (l : List PoolEntry) (c d : Nat) : Option Nat :=
  ((l.filter fun e => decide (e.start < d) && decide (c < e.stop)).map (·.start)).min?

/-! ### The checks (R64 to R69) -/

/-- What stage 2 read (R63): the proposal, the order record where W2 names an order, and whether memory reported an error. -/
structure Proposal where
  w0    : Word
  w1    : Word
  w2    : Word
  o0    : Word
  o4    : Word
  error : Bool
  deriving DecidableEq, Repr

/-- The proposal from the reads made, in the order of R63; with an error the words are not looked at (R64, check 2). -/
def Proposal.ofReads (got : List (Option Word)) : Proposal :=
  let w (n : Nat) : Word := (wordRead got n).getD 0
  ⟨w 0, w 1, w 2, w 3, w 4, got.any fun x => x.isNone⟩

/-- VOID checks 2 to 6 of NEW and AMEND (R64), for the slot's present entry; the reason of the first one met. -/
def State.voidCheck (s : State) (a : Admission) (p : Proposal) (present : Option PoolEntry) : Option Reason :=
  let start := proposedStart p.w0
  let len := proposedLength p.w0
  if p.error then some .memory
  else if !s.inService a.room then some .badRoom
  else if a.kind = .new ∧ present.isSome then some .slotTaken
  else if a.kind = .amend ∧ present.isNone then some .notLive
  else if 1440 ≤ start ∨ len = 0 ∨ 1440 < start + len then some .badTime
  else
    match present with
    | none => if a.taken.role = .today ∧ start < a.taken.now then some .past else none
    | some e =>
      if start ≠ e.start ∧ (e.state = .inUse ∨ (a.taken.role = .today ∧ start < a.taken.now)) then some .past else none

/-- The order checks (R65) for an order that is to be newly attached. -/
def State.orderCheck (s : State) (p : Proposal) : Option Reason :=
  match orderOfField (proposedOrder p.w2) with
  | none => some .badOrder
  | some o =>
    if !orderRecordOk s p.o0 then some .badOrder
    else
      match orderStateOf p.o4 with
      | none => some .badOrder
      | some st => if !st.attachable then some .badOrder else if (s.binding o).isSome then some .orderInUse else none

/-- The order an admission would newly attach: W2 is not NONE and differs from the present order (R65). -/
def newlyAttached (p : Proposal) (present : Option PoolEntry) : Bool :=
  let f := proposedOrder p.w2
  decide (f ≠ 255) && decide (some f ≠ (present.bind (·.order)).map (·.val))

/-- The result of the CLASH check (R67): refused, or the end as admitted, with whether it was trimmed. -/
def clashCheck (l : List PoolEntry) (start stop minlen : Nat) : Option (Nat × Bool) :=
  if occupiedStart l start then none
  else
    match firstOverlap l start stop with
    | none => some (stop, false)
    | some cut => if cut - start < minlen then none else some (cut, true)

/-- The SHORT check is met: the due minute is below 0, or before now in the TODAY bank (R69). -/
def shortMet (t : Taken) (start lead : Nat) : Bool :=
  decide (start < lead) || (decide (t.role = .today) && decide (start - lead < t.now))

/-- A refusal by its one kind (R77). -/
def refusal (k : Kind) (r : Reason) : KindSet × Judgement := (KindSet.single k, .refused r)

/-- The presence-seen mark of a new or amended booking (R70). -/
def State.seenAtAdmission (s : State) (a : Admission) (start : Nat) : Bool :=
  decide (a.taken.role = .today) && s.hasPanel a.room &&
    match (s.filter a.room).lastPresent with
    | some p => decide (p.source = .sample) && decide (p.day = a.taken.day) && decide (start - s.early ≤ p.minute)
    | none => false

/-- The state, source and check-in minute of a NEW (R70): IN-USE only in the TODAY bank, in a room without a panel, at a
start equal to now. -/
def State.newState (s : State) (a : Admission) (start : Nat) : LiveState × Source × Option Nat :=
  if a.taken.role = .today ∧ s.panelAddress a.room = 0 ∧ start = a.taken.now then (.inUse, .auto, some a.taken.now)
  else (.booked, .none, none)

/-- The entry a NEW or an AMEND leaves (R70, R71), for the interval, attendees, order and marks its checks gave. -/
def State.entryAfter (s : State) (a : Admission) (at_ : SlotRef) (present : Option PoolEntry) (start stop attendees : Nat)
    (order : Option OrderIx) (marks : Marks) : PoolEntry :=
  match present with
  | some old =>
    let e := { old with start := start, stop := stop, attendees := attendees, order := order, marks := marks, reason := .none }
    if old.start = start then e
    else { e with deadline := start + s.grace, presenceSeen := s.seenAtAdmission a start }
  | none =>
    let (st, src, m) := s.newState a start
    { at_ := at_, start := start, stop := stop, attendees := attendees, state := st, source := src, checkinMinute := m,
      origin := .request, order := order, marks := marks, reason := .none, presenceSeen := s.seenAtAdmission a start,
      deadline := start + s.grace }

/-- The notices of an admitted NEW or AMEND (R71, R76): `kept` when the proposal names the present order, `short` when the
SHORT check was met. -/
def admissionNotices (t : Taken) (at_ : SlotRef) (present : Option PoolEntry) (start lead : Nat) (proposed : Option OrderIx)
    (short : Bool) : List Notice :=
  let old := present.bind (·.order)
  let moved := decide (present.map (·.start) ≠ some start)
  if old = proposed then
    match old with
    | none => []
    | some o => if !moved then [] else if short then [.shortDetach o] else [.move o start (start - lead)]
  else
    (match old with | some o => [.death o .release] | none => []) ++
      (match proposed with | some o => if short then [] else [.attach o t.role at_ start (start - lead)] | none => [])

/-- The checks after the VOID, order and FULL checks of a NEW or AMEND (R67 to R69), and the outcome they give. -/
def State.judgeInterval (s : State) (a : Admission) (at_ : SlotRef) (p : Proposal) (present : Option PoolEntry) :
    KindSet × Judgement :=
  let start := proposedStart p.w0
  match clashCheck (s.others a.book a.room (s.liveIndex at_)) start (start + proposedLength p.w0) s.minlen with
  | none => refusal .clash .clash
  | some (stop, trimmed) =>
    let capped := decide (s.capacity a.room < proposedAttendees p.w1)
    let attendees := if capped then s.capacity a.room else proposedAttendees p.w1
    let proposed := orderOfField (proposedOrder p.w2)
    let moved := decide (present.map (·.start) ≠ some start)
    let judged := proposed.isSome && (newlyAttached p present || moved)
    let short := judged && shortMet a.taken start (leadOf p.o0)
    let order := if short then none else proposed
    let marks : Marks := ⟨trimmed, capped, short⟩
    ({ clash := trimmed, trim := trimmed && !a.quietTrim, crowd := capped, short := short && !a.quietShort },
      .admitted (s.entryAfter a at_ present start stop attendees order marks)
        (admissionNotices a.taken at_ present start (leadOf p.o0) proposed short))

/-- NEW and AMEND (R64 to R71). -/
def State.judgeNewAmend (s : State) (a : Admission) (at_ : SlotRef) (p : Proposal) : KindSet × Judgement :=
  let present := s.liveEntry at_
  match s.voidCheck a p present with
  | some r => refusal .void r
  | none =>
    match if newlyAttached p present then s.orderCheck p else none with
    | some r => refusal .void r
    | none =>
      if a.kind = .new ∧ s.adu.freeList = [] then refusal .full .full else s.judgeInterval a at_ p present

/-- CANCEL (R64, R72). -/
def State.judgeCancel (s : State) (a : Admission) (at_ : SlotRef) : KindSet × Judgement :=
  if !s.inService a.room then refusal .void .badRoom
  else
    match s.liveEntry at_ with
    | none => refusal .void .notLive
    | some e => ({}, .cancelled (match e.order with | some o => [.death o .cancel] | none => []))

/-- A walk-up in the slot it chose (R73, R150). -/
def State.judgeBooknow (s : State) (a : Admission) : KindSet × Judgement :=
  if !s.walkUp a.room then refusal .void .notAllowed
  else
    match a.slot with
    | none => refusal .void .noSlot
    | some slot =>
      if s.adu.freeList = [] then refusal .full .full
      else
        let now := a.taken.now
        let wished := now + a.minutes
        let l := s.others a.book a.room none
        let day := min wished 1440
        let cut := firstOverlap l now day
        let stop := cut.getD day
        if occupiedStart l now then refusal .clash .clash
        else if stop < wished ∧ stop - now < s.minlen then refusal .clash .clash
        else
          let trimmed := decide (stop < wished)
          ({ clash := cut.isSome, trim := trimmed },
            .admitted
              { at_ := ⟨a.book, a.room, slot⟩, start := now, stop := stop, attendees := 0, state := .inUse,
                source := .panel, checkinMinute := some now, origin := .panel, order := none,
                marks := { trimmed := trimmed }, reason := .none, presenceSeen := false, deadline := now + s.grace } [])

/-- An EXTEND of the booking in the slot it found (R73, R150). -/
def State.judgeExtend (s : State) (a : Admission) : KindSet × Judgement :=
  match a.slot with
  | none => refusal .void .notLive
  | some slot =>
    let at_ : SlotRef := ⟨a.book, a.room, slot⟩
    match s.liveEntry at_ with
    | none => refusal .void .notLive
    | some e =>
      let wished := e.stop + s.extstep
      let cut := firstOverlap (s.others a.book a.room (s.liveIndex at_)) e.stop wished
      let stop := min (cut.getD wished) 1440
      if stop ≤ e.stop then refusal .clash .clash
      else
        let trimmed := decide (stop < wished)
        ({ clash := cut.isSome, trim := trimmed },
          .admitted { e with stop := stop, marks := { trimmed := trimmed }, reason := .none } [])

/-- The checks of an admission (R63, stage 3). -/
def State.judge (s : State) (a : Admission) (p : Proposal) : KindSet × Judgement :=
  match a.kind, a.slot with
  | .new, some slot | .amend, some slot => s.judgeNewAmend a ⟨a.book, a.room, slot⟩ p
  | .cancel, some slot => s.judgeCancel a ⟨a.book, a.room, slot⟩
  | .booknow, _ => s.judgeBooknow a
  | .extend, _ => s.judgeExtend a
  | _, _ => refusal .void .badRequest

/-! ### The trap decision and the record (R82, R89, R90) -/

/-- The first kind of a list that is both recognised and trap-enabled. -/
def firstTrapped (k en : KindSet) (l : List Kind) : Option Kind := l.find? fun x => k.has x && en.has x

/-- The withholding kinds in the order of R82. -/
def withholdingKinds : List Kind := [.void, .full, .clash, .crowd]

/-- The completing kinds in the order of R82. -/
def completingKinds : List Kind := [.trim, .short]

/-- The origin of an admission. -/
def AdmissionKind.origin : AdmissionKind → Origin
  | .new | .amend | .cancel | .badRequest => .request
  | .booknow | .extend => .panel

/-- The reason of an outcome, NONE when nothing was refused. -/
def Judgement.reason : Judgement → Reason
  | .refused r => r
  | .admitted _ _ | .cancelled _ => .none

/-- The trap record of an admission (R89, R90). -/
def trapRecord (a : Admission) (j : Judged) (kind : Kind) (completed : Bool) (start stop : Nat) : TrapRecord :=
  { kind := kind, completed := completed, kinds := j.kinds, reason := j.outcome.reason, origin := a.kind.origin,
    request := a.kind, book := a.book, role := a.taken.role, room := a.room, slot := a.slot, day := a.taken.day,
    minute := a.taken.now, start := start, stop := stop }

/-! ### The end of an admission (R10, R52, R87) -/

/-- The verdict RELEASE: the held write is presented in the host class (R10). -/
def State.release (s : State) : State :=
  match s.mps.held with
  | none => s
  | some h => s.present ⟨.hostRelease, true, h.addr, h.data, h.lanes⟩

/-- The verdict DROP: the host access completes and the held access is EMPTY (R10). -/
def State.drop (s : State) : State :=
  s.onMps fun m =>
    match m.held with
    | none => m
    | some _ => { m with held := none, hostResult := .done none false }

/-- An admission ends: a request claim by its verdict, a panel claim by its answer (R63, R87). -/
def State.endAdmission (s : State) (a : Admission) (withheld confirmed : Bool) : State :=
  match a.kind.origin with
  | .request => (if withheld then s.drop else s.release).endClaim
  | .panel => (s.answerPanel a.room confirmed).endClaim

/-- A withheld admission: its record is presented and the claim ends; nothing else changes (R83, R91). -/
def State.withhold (s : State) (a : Admission) (j : Judged) (kind : Kind) : State :=
  (s.presentTrap (trapRecord a j kind false 0 0)).endAdmission a true false

/-! ### Commit and reports (R63 stages 6 to 8, R84 to R86) -/

/-- The slot of an admission, where it has one. -/
def Admission.at? (a : Admission) : Option SlotRef := a.slot.map fun n => ⟨a.book, a.room, n⟩

/-- A refusal on a LIVE slot "sets the entry's last marks to none and its last reason to the reason" (R74). -/
def State.commitRefusal (s : State) (at_ : SlotRef) (r : Reason) : State :=
  match s.liveIndex at_, s.liveEntry at_ with
  | some i, some e => s.setEntry i (some { e with marks := {}, reason := r })
  | _, _ => s

/-- The commit of an outcome and its notices (R70 to R73, R76). -/
def State.commit (s : State) (a : Admission) (o : Judgement) : State :=
  match o, a.at? with
  | .admitted e ns, some at_ =>
    match s.liveIndex at_ with
    | some i => (s.changeEntry i e).notices ns
    | none => (s.takeEntry e).notices ns
  | .cancelled ns, some at_ =>
    match s.liveIndex at_ with
    | some i => (s.freeEntry i).notices ns
    | none => s
  | .refused r, some at_ => if a.kind = .booknow then s else s.commitRefusal at_ r
  | _, none => s

/-- The interval a completed admission wrote into W4 (R90). -/
def State.writtenInterval (s : State) (a : Admission) (o : Judgement) (back : List Word) : Nat × Nat :=
  match o, a.at? with
  | .admitted e _, _ => (e.start, e.stop)
  | _, none => (0, 0)
  | _, some at_ =>
    if a.kind = .booknow then (0, 0)
    else
      match s.liveEntry at_ with
      | some e => (e.start, e.stop)
      | none =>
        match back with
        | [w4, _, _] => (admittedStart w4, admittedStop w4)
        | _ => (0, 0)

/-- The reports of a completed admission: the flags of the kinds that are not trap-enabled, then the record of a
trap-enabled one (R84 to R86, R91). -/
def State.reportTraps (s : State) (a : Admission) (j : Judged) (interval : Nat × Nat) : State :=
  let s := s.setFlags ((j.kinds.without j.enabled).word 0)
  match firstTrapped j.kinds j.enabled (withholdingKinds ++ completingKinds) with
  | none => s
  | some k => s.presentTrap (trapRecord a j k true interval.1 interval.2)

/-- A completed admission after its writing: commit, notices, reports, the Change Summary mark when it wrote the slot, the
status line and the end (R63 stages 6 to 9, R53, R152, R154). That the room is not marked for a refusal which writes nothing
after a memory error on its read-back (R74) is the model's choice: R53 has completed admissions reported, and has the report made
when the admitted half is written (assumption log entry 58). -/
def State.finishAdmission (s : State) (a : Admission) (j : Judged) (wrote : Bool) (back : List Word) : State :=
  let interval := if wrote then s.writtenInterval a j.outcome back else (0, 0)
  let s := s.commit a j.outcome
  let s := s.reportTraps a j interval
  let s := if wrote then s.markChanged a.room else s
  let s := s.recomposeToday a.book a.room
  s.endAdmission a false
    (match j.outcome with
      | .refused _ => false
      | .admitted _ _ | .cancelled _ => true)

/-! ### Writing (R74) -/

/-- The words a completed admission writes; none where it must first read W4 to W6 back, and an empty list where nothing is
written (R74, R150). That an EXTEND which a memory error has made VOID writes the refusal row of its LIVE slot is the model's
choice (assumption log entry 55). -/
def State.admissionWrites (s : State) (a : Admission) (o : Judgement) (back : List Word) : Option (List WordWrite) :=
  match o, a.at? with
  | _, none => some []
  | .admitted e _, some _ =>
    some ((if a.kind = .booknow then walkUpWrites s e else []) ++ entryWrites s e e.state.booking .none e.source a.taken)
  | .cancelled _, some at_ =>
    match s.liveEntry at_ with
    | some e => some (entryWrites s e .cancelled .none .none a.taken)
    | none => some []
  | .refused r, some at_ =>
    if a.kind = .booknow then some []
    else
      match s.liveEntry at_ with
      | some e => some (entryWrites s { e with marks := {}, reason := r } e.state.booking .none e.source a.taken)
      | none =>
        if a.kind = .new then some (refusedWrites s at_ .request r a.taken)
        else
          match back with
          | [w4, w5, w6] =>
            some (halfWrites s at_ (w4 &&& 0x07FF07FF) (w5Refused w5 r) (w6 &&& 0x00FF00FF) (wordW7 a.taken))
          | _ => none

/-- A completed admission begins to write, reads back first, or ends without writing (R74). -/
def State.beginWriting (s : State) (a : Admission) (j : Judged) (back : List Word) (second : Bool) : State :=
  match s.admissionWrites a j.outcome back with
  | none => s.onAdu fun u => { u with claim := some (.admission a (.readBack j [])) }
  | some [] => s.finishAdmission a j false back
  | some l => s.onAdu fun u => { u with claim := some (.admission a (.writing j back l second)) }

/-- Stages 3 to 5: the checks, the trap decision with the marks as they stand (R81, R82), and what it leads to. -/
def State.decideAdmission (s : State) (a : Admission) (p : Proposal) : State :=
  let (k, o) := s.judge a p
  let j : Judged := ⟨k, s.trapEnables, o⟩
  match firstTrapped k j.enabled withholdingKinds with
  | some kind => s.withhold a j kind
  | none => s.beginWriting a j [] false

/-- An admission goes on to its next read of stage 2, or to its checks when the reads are made: "The reads of stage 2
happen before any check" (R63, R64). -/
def State.advanceAdmission (s : State) (a : Admission) (got : List (Option Word)) : State :=
  match s.proposalRead a got with
  | some _ => s.onAdu fun u => { u with claim := some (.admission a (.proposal got)) }
  | none => s.decideAdmission a (Proposal.ofReads got)

/-- A write of W0 to W6 met a memory error: the outcome is not committed, K becomes VOID alone with reason MEMORY, the trap
decision is made again without withholding, and the refusal's words are written (R74, R86). -/
def State.voidMemory (s : State) (a : Admission) (back : List Word) : State :=
  let j : Judged := ⟨KindSet.single .void, s.trapEnables, .refused .memory⟩
  match s.admissionWrites a j.outcome back with
  | none => s.finishAdmission a j false back
  | some _ => s.beginWriting a j back true

/-- W7 is presented as the claim's last word, and a port that is free takes it: the verdict comes "after W4, W5 and W6 have
been written and W7 has been presented" (R52). -/
def State.presentLast (s : State) (rest : List WordWrite) : State :=
  (s.leaveTail rest .ignored).presentTail.onMps Mps.arbitrate

/-- A write of an admission has completed. When W6 has completed, W7 is presented and the outcome committed (R74). -/
def State.admissionWritten (s : State) (a : Admission) (j : Judged) (back : List Word) (todo : List WordWrite)
    (second error : Bool) : State :=
  let rest := todo.drop 1
  if error && !second then s.voidMemory a back
  else
    match rest with
    | [_] => (s.presentLast rest).finishAdmission a j true back
    | _ => s.onAdu fun u => { u with claim := some (.admission a (.writing j back rest second)) }

/-- The reads of W4, W5 and W6 before a refusal is written back go on (R74): when the three are made, the words are written
back, or none is where memory reported an error "for any of those three reads". -/
def State.backReadDone (s : State) (a : Admission) (j : Judged) (got : List (Option Word)) : State :=
  match got with
  | [some w4, some w5, some w6] => s.beginWriting a j [w4, w5, w6] false
  | [_, _, _] => s.finishAdmission a j false []
  | _ => s.onAdu fun u => { u with claim := some (.admission a (.readBack j got)) }

/-! ### Taking request claims (R51, R59) -/

/-- The admission of a request claim (R49, R60, R79). -/
def State.requestAdmission (s : State) (r : RequestClaim) (k : AdmissionKind) : Admission :=
  ⟨k, r.at_.book, r.at_.room, some r.at_.slot, s.takenFor r.at_.book, quietTrim r.word, quietShort r.word, 0⟩

/-- The arbiter takes the request claim when it may and the claim's kind is `rk`; the claim is then carried on by `go`. -/
def State.takeRequest (s : State) (rk : RequestKind) (go : State → RequestClaim → State) : State :=
  match s.adu.request with
  | none => s
  | some r => if s.mayTake .request && decide (requestKind r.word = rk) then go (s.take .request) r else s

/-- A NONE request: a DRAFT entry becomes FREE, and the verdict is RELEASE (R51). -/
def State.requestNone (s : State) (r : RequestClaim) : State :=
  let s := if s.slotState r.at_ = .draft then s.setSlot r.at_ .free else s
  s.release.endClaim

/-- An admission of a request claim begins with its reads (R63). -/
def State.beginRequest (k : AdmissionKind) (s : State) (r : RequestClaim) : State :=
  s.advanceAdmission (s.requestAdmission r k) []

/-! ### Panel admissions (R150) -/

/-- The lowest-numbered FREE slot of a room in the TODAY book (R150). -/
def State.walkUpSlot (s : State) (r : Room) : Option SlotNo :=
  ((List.range 16).map (Fin.ofNat 16)).find? fun n => decide (s.slotState ⟨s.clock.today, r, n⟩ = .free)

/-- The slot of the IN-USE booking that covers now (R149, R150). -/
def State.inUseCovering (s : State) (r : Room) : Option (Nat × PoolEntry) :=
  (s.bookingsToday r).find? fun b => decide (b.2.state = .inUse) && b.2.covers s.clock.minute

/-- The admission of a BOOKNOW (R73, R150): a slot is chosen only where the room carries WALK-UP (R90). -/
def State.booknowAdmission (s : State) (ev : PanelEvent) : Admission :=
  ⟨.booknow, s.clock.today, ev.room, if s.walkUp ev.room then s.walkUpSlot ev.room else none,
    s.takenFor s.clock.today, false, false, 15 * ev.argument⟩

/-- The admission of an EXTEND (R73, R150). -/
def State.extendAdmission (s : State) (ev : PanelEvent) : Admission :=
  ⟨.extend, s.clock.today, ev.room, (s.inUseCovering ev.room).map fun b => b.2.at_.slot, s.takenFor s.clock.today, false,
    false, 0⟩

/-- The arbiter takes the panel claim when it may and the event's button is `b`. -/
def State.takePanel (s : State) (b : Button) (go : State → PanelEvent → State) : State :=
  match s.atu.panelEvent with
  | none => s
  | some ev => if s.mayTake .panel && decide (ev.button = b) then go (s.take .panel) ev else s

/-! ### Meanings -/

/-- REQUEST_NEW (R70). -/
def execRequestNew (s : State) : Out := ran (s.takeRequest .new (State.beginRequest .new))

/-- REQUEST_AMEND (R71). -/
def execRequestAmend (s : State) : Out := ran (s.takeRequest .amend (State.beginRequest .amend))

/-- REQUEST_CANCEL (R72). -/
def execRequestCancel (s : State) : Out := ran (s.takeRequest .cancel (State.beginRequest .cancel))

/-- REQUEST_NONE (R51). -/
def execRequestNone (s : State) : Out := ran (s.takeRequest .none State.requestNone)

/-- BAD_REQUEST (R51, R64). -/
def execBadRequest (s : State) : Out := ran (s.takeRequest .bad (State.beginRequest .badRequest))

/-- EXTEND (R73, R150). -/
def execExtend (s : State) : Out :=
  ran (s.takePanel .extend fun s ev => s.advanceAdmission (s.extendAdmission ev) [])

/-- BOOKNOW (R73, R150). -/
def execBooknow (s : State) : Out :=
  ran (s.takePanel .booknow fun s ev => s.advanceAdmission (s.booknowAdmission ev) [])

end Sys2Proof.Machine
end

