-- ==== Sys2Proof/Machine/AttendanceClaims.lean ====
section
/-! DEFINITION. The minute-driven and panel claims of the Attendance Unit, and the work it and the Admission Unit do between
claims (chapters 3 and 9). -/

namespace Sys2Proof.Machine

/-! ### Minute-driven claims (R143 to R145) -/

/-- What a row does to its booking at the taking of its claim (R143, R144). -/
def WalkRow.change (row : WalkRow) (e : PoolEntry) : LifeChange :=
  match row with
  | .autoCheckin => .checkin .auto
  | .timeEndBooked => if e.presenceSeen then .ended .time else .release
  | .resolve => if e.presenceSeen then .checkin .presence else .release
  | .timeEndInUse => .ended .time
  | .vacancyEnd => .ended .vacant

/-- A minute-driven claim is judged at its taking on the entry as it stands (R60): it changes nothing unless its slot is
LIVE with the entry it names, its book is TODAY and its row still applies. -/
def State.beginMinute (s : State) (c : MinuteClaim) : State :=
  let t := s.takenFor c.at_.book
  match s.entry c.entry with
  | none => s.endClaim
  | some e =>
    if s.slotState c.at_ = .live c.entry ∧ t.role = .today ∧ s.rowApplies c.row c.at_.room e t.day t.now = true then
      s.beginLife ⟨c.row.change e, c.at_, c.entry, t, false⟩
    else s.endClaim

/-- The arbiter takes the walk's claim when it may and its row is one of `rows`. -/
def State.takeMinute (s : State) (rows : List WalkRow) : State :=
  match s.atu.minuteClaim with
  | none => s
  | some c => if s.mayTake .minute && decide (c.row ∈ rows) then (s.take .minute).beginMinute c else s

/-! ### Panel events and the buttons CHECKIN and END (R147 to R149) -/

/-- The head of the queue may be taken: no panel claim is held, and a CLEAN or KEEP pass has left the room in the TODAY book
(R99, R147). -/
def State.headReady (s : State) (ev : PanelEvent) : Bool :=
  s.atu.panelEvent.isNone &&
    match s.bsc.pass with
    | .clean | .keep => s.bsc.hasLeft s.clock.today ev.room
    | .none | .turnover => true

/-- The Attendance Unit takes the head of the Panel Event Queue (R147). -/
def State.takeEvent (s : State) : State :=
  match s.plu.events with
  | [] => s
  | ev :: rest =>
    if s.headReady ev then
      (s.onPlu fun p => { p with events := rest }).onAtu fun a => { a with panelEvent := some ev, panelTaken := false }
    else s

/-- A panel lifecycle claim on a booking begins to write. -/
def State.beginPanelLife (s : State) (b : Nat × PoolEntry) (change : LifeChange) : State :=
  s.beginLife ⟨change, b.2.at_, b.1, s.takenFor s.clock.today, true⟩

/-- A CHECKIN claim (R148): the open BOOKED booking of least start is checked in; else an IN-USE booking covering now is
confirmed; else NOT-OPEN. -/
def State.beginCheckin (s : State) (ev : PanelEvent) : State :=
  match (s.bookingsToday ev.room).find? fun b => s.windowOpen b.2 s.clock.minute with
  | some b => s.beginPanelLife b (.checkin .panel)
  | none => (s.answerPanel ev.room (s.inUseCovering ev.room).isSome).endClaim

/-- An END claim (R149): the IN-USE booking that covers now is ended; else the claim is refused. -/
def State.beginEnd (s : State) (ev : PanelEvent) : State :=
  match s.inUseCovering ev.room with
  | some b => s.beginPanelLife b (.ended .panel)
  | none => (s.answerPanel ev.room false).endClaim

/-! ### Work between claims (R45, R140, R141) -/

/-- The pending draft notice of a slot is applied, when no claim is in progress (R45). -/
def State.draftNotice (s : State) (r : SlotRef) : State :=
  if s.adu.claim.isNone && Table.get false s.adu.drafts r.key then s.onAdu fun a => a.applyDraft r.key else s

/-! ### Meanings -/

/-- AUTO_CHECKIN (R143, row 1). -/
def execAutoCheckin (s : State) : Out := ran (s.takeMinute [.autoCheckin])

/-- TIME_END (R143, rows 2 and 4). -/
def execTimeEnd (s : State) : Out := ran (s.takeMinute [.timeEndBooked, .timeEndInUse])

/-- RESOLVE (R143, row 3; R144). -/
def execResolve (s : State) : Out := ran (s.takeMinute [.resolve])

/-- VACANCY_END (R145). -/
def execVacancyEnd (s : State) : Out := ran (s.takeMinute [.vacancyEnd])

/-- PANEL_EVENT_TAKEN (R147). -/
def execPanelEventTaken (s : State) : Out := ran s.takeEvent

/-- CHECKIN (R148). -/
def execCheckin (s : State) : Out := ran (s.takePanel .checkin State.beginCheckin)

/-- END (R149). -/
def execEnd (s : State) : Out := ran (s.takePanel .end_ State.beginEnd)

/-- DRAFT_NOTICE (R45): with a claim in progress the notice waits for its end. -/
def execDraftNotice (bookB : Bool) (room : Room) (slot : SlotNo) (s : State) : Out :=
  ran (s.draftNotice ⟨if bookB then .bookB else .bookA, room, slot⟩)

/-- PRESENCE_REPORT (R140): with a claim in progress the reports wait for its end. -/
def execPresenceReport (room : Room) (s : State) : Out := ran (if s.adu.claim.isNone then s.applyReports room else s)

/-- RETURN_NOTICE (R141): with a claim in progress the notice waits for its end. -/
def execReturnNotice (room : Room) (s : State) : Out := ran (if s.adu.claim.isNone then s.applyReturn room else s)

end Sys2Proof.Machine
end

