-- ==== Sys2Proof/Machine/Exchanges.lean ====
section
/-! DEFINITION. The exchanges on the panel loops (chapter 7): rounds, polls, replies, misses, returns, button events and the
counts handed to the Occupancy Filter. -/

namespace Sys2Proof.Machine

/-! ### Replies (R114) -/

/-- A reply is good: it is complete, has the reply start code and the address polled, and its CRC is right (R114, R181). -/
def replyGood (address : Nat) (bs : List Byte) : Bool :=
  match bs with
  | [start, addr, b2, b3, c1, c2, crcHigh, crcLow] =>
    start == 0x6C && addr.toNat == address && [crcHigh, crcLow] == crcBytes [addr, b2, b3, c1, c2]
  | _ => false

/-- The button of a good reply with its argument; none for NONE, a code that names no button, or BOOKNOW with an argument
outside 1..4 (R114). -/
def replyButton (bs : List Byte) : Option (Button × Nat) :=
  let b := (bs.getD 2 0).toNat
  let arg := b / 16 % 8
  match b % 8 with
  | 1 => some (.checkin, 0)
  | 2 => some (.extend, 0)
  | 3 => some (.end_, 0)
  | 4 => if 1 ≤ arg ∧ arg ≤ 4 then some (.booknow, arg) else none
  | _ => none

/-- The tag of a reply. -/
def replyTag (bs : List Byte) : BitVec 3 := (bs.getD 3 0).setWidth 3

/-- The raw count of a reply, high byte first. -/
def replyCount (bs : List Byte) : Nat := (bs.getD 4 0).toNat * 256 + (bs.getD 5 0).toNat

/-- A good reply from an OFFLINE panel is a return (R116); any good reply sets the miss count to 0 (R115). -/
def State.linkGood (s : State) (r : Room) : State :=
  if (s.panel r).online then s.setPanel r { s.panel r with misses := 0 }
  else
    let s := s.setPanel r { s.panel r with online := true, misses := 0, lastTag := none }
    ((s.setDirty r).markUninitialised r).holdReturn r ⟨s.clock.day, s.clock.minute⟩

/-- The page and chime marks after a good reply (R120, R121). -/
def State.settleMarks (s : State) (l : LoopNo) (r : Room) : State :=
  match (s.loop l).exchange with
  | none => s
  | some x =>
    let p := s.panel r
    s.setPanel r
      { p with
        dirty := if x.page && !x.pageRenewal then false else p.dirty
        chime := if x.chime ≠ .none ∧ x.chimeRenewal = false then .none else p.chime }

/-- A count is handed to the filter of a room, with its reports: every sample with presence PRESENT goes to the Attendance
Unit, and a change of presence is activity on the loop (R111, R128 to R133). -/
def State.takeSample (s : State) (r : Room) (count : Nat) : State :=
  let old := s.filter r
  let new := old.sample (s.sense r) count s.clock.day s.clock.minute
  let s := s.setFilter r new
  let s := if new.present then s.holdReport r ⟨s.clock.day, s.clock.minute⟩ else s
  if new.present ≠ old.present then s.makeFast (s.loopOf r) else s

/-- The raw count of a good reply: dropped under DROP-ON-REFRESH when the poll carried the page (R122). -/
def State.handCount (s : State) (r : Room) (page : Bool) (count : Nat) : State :=
  if s.dropOnRefresh && page then s else s.takeSample r count

/-- A button event on its tag (R117). -/
def State.buttonEvent (s : State) (l : LoopNo) (r : Room) (b : Button) (arg : Nat) (tag : BitVec 3) : State :=
  let p := s.panel r
  if p.lastTag = some tag then s
  else if s.plu.events.any fun e => decide (e.room = r) && decide (e.tag = tag) then
    s.setPanel r { p with lastTag := some tag }
  else if s.plu.events.length < 24 then
    ((s.onPlu fun u => { u with events := u.events ++ [⟨r, b, arg, tag⟩] }).setPanel r { p with lastTag := some tag }).makeFast l
  else s.makeFast l

/-- A good reply, "in this order: the link state; the page and chime marks; the raw count; the button" (R114). -/
def State.goodReply (s : State) (l : LoopNo) (x : Exchange) (bs : List Byte) : State :=
  let r := x.listed.room
  let s := ((s.linkGood r).settleMarks l r).handCount r x.page (replyCount bs)
  match replyButton bs with
  | none => s
  | some (b, arg) => s.buttonEvent l r b arg (replyTag bs)

/-- A whole reply frame on a loop; bytes that arrive while no exchange waits for a reply are disregarded (R113, R114). -/
def State.reply (s : State) (l : LoopNo) (bs : List Byte) : State :=
  match (s.loop l).exchange with
  | none => s
  | some x =>
    if x.stage = .sending then s
    else if replyGood x.listed.address bs then (s.goodReply l x bs).endExchange l
    else s.missExchange l

/-- The exchange in progress of a loop stands at a stage. -/
def Loop.exchangeAt (lp : Loop) (st : ExchangeStage) : Bool :=
  match lp.exchange with
  | some x => decide (x.stage = st)
  | none => false

/-! ### Meanings -/

/-- ROUND_START (R110): the round timer runs out; a round under way goes on, and the next one then starts at its end. The
loops are silent in SETUP (R123). -/
def execRoundStart (l : LoopNo) (s : State) : Out :=
  ran (if s.ctu.phase = .setup ∨ (s.loop l).silent = true then s
    else if (s.loop l).inRound then s.setLoop l { s.loop l with timer := .runOut }
    else s.startRound l)

/-- POLL (R112). -/
def execPoll (l : LoopNo) (s : State) : Out := ran (s.sendPoll l)

/-- POLL_SENT (R113). -/
def execPollSent (l : LoopNo) (s : State) : Out := ran (s.exchangeStep l .sending .waiting)

/-- REPLY_START_BIT (R113). -/
def execReplyStartBit (l : LoopNo) (s : State) : Out := ran (s.exchangeStep l .waiting .receiving)

/-- REPLY_WAIT_EXPIRY (R113): the exchange ends as a miss while no reply has begun. -/
def execReplyWaitExpiry (l : LoopNo) (s : State) : Out :=
  ran (if (s.loop l).exchangeAt .waiting then s.missExchange l else s)

/-- REPLY_GAP_EXPIRY (R113): the exchange ends as a miss when a reply that has begun stalls. -/
def execReplyGapExpiry (l : LoopNo) (s : State) : Out :=
  ran (if (s.loop l).exchangeAt .receiving then s.missExchange l else s)

/-- REPLY (R114). -/
def execReply (l : LoopNo) (bs : List Byte) (s : State) : Out := ran (s.reply l bs)

/-- ROUND_END_AFTER_GAP (R111, R113): the round ends once every panel of its list has been polled and answered or missed. -/
def execRoundEndAfterGap (l : LoopNo) (s : State) : Out :=
  let lp := s.loop l
  ran (if lp.inRound = true ∧ lp.exchange = none ∧ lp.roundList.length ≤ lp.polls then s.endRound l else s)

end Sys2Proof.Machine
end

