-- ==== Sys2Proof/Machine/KitchenLink.lean ====
section
/-! DEFINITION. The meanings of the events on the kitchen link (chapters 10 and 11). -/

namespace Sys2Proof.Machine

/-- The last bit of the frame on the wire has been sent (R169): the link is AWAITING with a fresh answer wait; a frame that
hardware RESET let finish leaves the link IDLE (R178). -/
def State.frameSent (s : State) : State :=
  match s.klc.stage with
  | .onWire =>
    if s.klc.finishing then s.onKlc fun k => { k with link := .idle, stage := .quiet, finishing := false }
    else s.onKlc fun k => { k with link := .awaiting, stage := .quiet }
  | .quiet | .assembling _ | .assembled | .resendGap => s

/-- A whole answer frame has been received: disregarded unless the link is AWAITING and the answer valid (R170). -/
def State.kitchenAnswer (s : State) (sync station orderNumber ticketIndex verdict checksum : Word) : State :=
  match answerVerdict verdict with
  | some v =>
    if s.klc.link = .awaiting ∧ answerValid sync station orderNumber ticketIndex verdict checksum = true then
      s.validAnswer station orderNumber ticketIndex v
    else s
  | none => s

/-- The byte time after the answer is over: the same frame is sent again from the Ticket Buffer (R170, R173, R174). -/
def State.frameResend (s : State) : State :=
  match s.klc.stage with
  | .resendGap => s.onKlc fun k => { k with link := .sending, stage := .onWire, gap := false }
  | .quiet | .assembling _ | .assembled | .onWire => s

/-- KWAIT has run out while the link is AWAITING: the link halts with reason SILENT (R175); after RESTART it becomes IDLE
without a fault (R179). -/
def State.answerWaitExpiry (s : State) : State :=
  if s.klc.link = .awaiting then
    match s.klc.residue with
    | some _ => (s.onKlc fun k => { k with residue := none }).linkIdle
    | none => s.haltLink .silent
  else s

/-- The byte time after an answer is over: a frame that already stands in the Ticket Buffer begins to be sent (R170). -/
def State.nextFrameGapEnd (s : State) : State :=
  s.onKlc fun k =>
    { k with
      gap := false
      stage :=
        match k.stage with
        | .assembled => .onWire
        | .quiet => .quiet
        | .assembling got => .assembling got
        | .onWire => .onWire
        | .resendGap => .resendGap }

/-! ### Meanings -/

/-- FRAME_SENT (R169). -/
def execFrameSent (s : State) : Out := ran s.frameSent

/-- KITCHEN_ANSWER (R170). -/
def execKitchenAnswer (sync station orderNumber ticketIndex verdict checksum : Word) (s : State) : Out :=
  ran (s.kitchenAnswer sync station orderNumber ticketIndex verdict checksum)

/-- FRAME_RESEND (R173). -/
def execFrameResend (s : State) : Out := ran s.frameResend

/-- ANSWER_WAIT_EXPIRY (R175). -/
def execAnswerWaitExpiry (s : State) : Out := ran s.answerWaitExpiry

/-- NEXT_FRAME_GAP_END (R170). -/
def execNextFrameGapEnd (s : State) : Out := ran s.nextFrameGapEnd

end Sys2Proof.Machine
end

