-- ==== Sys2Proof/Machine/Resets.lean ====
section
/-! DEFINITION. Hardware RESET (R16), its end, and RESTART (R17, R27) over all blocks, with their meanings where the opcode
table gives them a row of their own. -/

namespace Sys2Proof.Machine

/-! ### Hardware RESET (R16) -/

/-- Hardware RESET with these straps: every block at its hardware RESET state, the Control Page OFF until RESET ends, a
kitchen frame on the wire still being finished (R178), memory as it stands. The queue of commands and the count of free
values are the model's own and go on. -/
def State.hardwareReset (straps : BitVec 3) (s : State) : State :=
  { mps := { straps := straps, controlOn := false }, klc := s.klc.hardwareReset, mem := s.mem, resetAsserted := true,
    freeCount := s.freeCount, pending := s.pending }

/-- RESET is released: the Control Page is ON from now (R1, R16). Nothing happens when RESET is not asserted. -/
def State.endOfReset (s : State) : State :=
  if s.resetAsserted then { s with resetAsserted := false }.onMps fun m => { m with controlOn := true } else s

/-! ### RESTART (R17, R27) -/

/-- The claim in progress is a Bank Scanner visit that writes its slot. -/
def Claim.visitWrites : Claim → Bool
  | .cleanVisit _ _ | .turnoverVisit _ _ | .keepWriting _ _ _ => true
  | .admission _ _ | .lifecycle _ _ _ _ _ | .keepReading _ _ _ => false

/-- The owner, after RESTART, of an access that was granted before it. It "runs to completion" (R17), and an error still sets
MEMERR where R29 has the reset block do so; that nothing else follows is the model's choice (assumption log entry 36). A final
write stays the Kitchen Link Controller's own (R179). -/
def Adu.orphaned (a : Adu) : Owner → Owner
  | .aduClaim => if (a.claim.map Claim.visitWrites).getD false then .orphanVisit else .orphanAdu
  | .aduTail => if a.tail.map (·.kind) = some .scanner then .orphanVisit else .orphanAdu
  | .cqu => .orphanCqu
  | .bsc => .orphanBsc
  | .klcAssembly => .orphanKlc
  | o => o

/-- RESTART at the Memory Path Switch (R17): the four windows go OFF, the Room Directory window returns to its SETUP rule,
the locked-order set is emptied, and the waiting accesses of the blocks that are reset are withdrawn. That a waiting read of a
frame's assembly is withdrawn too is the model's choice (assumption log entry 45): R17 names the other three blocks, and R179
ends the assembly. -/
def Mps.restart (m : Mps) (u : Adu) : Mps :=
  { m with
    windows := none
    locked := []
    granted := m.granted.map fun a => { a with owner := u.orphaned a.owner }
    waiting := { m.waiting with adu := none, cqu := none, bsc := none, klc := Waiting.keepFinal m.waiting.klc } }

/-- RESTART at the Campus Clock: it "keeps the second, minute, day and selector, and it clears the three marks" (R94). -/
def Clock.clearMarks (c : Clock) : Clock := { c with deferredMinute := false, deferredDayEnd := false, heldDayEnd := false }

/-- RESTART, once accepted (R17, R27, R179). The Kitchen Link Controller goes first, since its record is taken from the
order's entry before the Catering Queue Unit is reset. -/
def State.restart (s : State) : State :=
  let s := s.restartKlc
  { s with
    mps := s.mps.restart s.adu
    ctu := { s.ctu with phase := .setup, runningStart := none }
    clock := s.clock.clearMarks
    adu := {}
    bsc := {}
    plu := {}
    ocf := {}
    atu := {}
    cqu := {} }

/-! ### Meanings -/

/-- HARDWARE_RESET (R16). -/
def execHardwareReset (straps : BitVec 3) (s : State) : Out := ran (s.hardwareReset straps)

/-- END_OF_RESET (R16). -/
def execEndOfReset (s : State) : Out := ran s.endOfReset

end Sys2Proof.Machine
end

