-- ==== Sys2Proof/Machine/Clock.lean ====
section
/-! DEFINITION. The Campus Clock (section 6.1): pulses, minute expiries, day-end expiries. -/

namespace Sys2Proof.Machine

/-- A minute expiry in RUNNING reaches the Catering Queue Unit, the Panel Loop Unit and the Attendance Unit (R96). The last
two act between claims, after every notice that came before (R111, R140 to R142); the order of the three is the model's
(assumption log entry 11). -/
def State.minuteReaches (s : State) : State :=
  (((s.noticesBetweenClaims.cateringMinute).onPlu fun p => { p with expiryDue := true }).workWindows).atuMinute

/-- A minute expiry is raised (R96). -/
def State.minuteExpiry (s : State) : State :=
  match s.ctu.phase with
  | .setup => s
  | .walking => s.onClock fun c => { c with deferredMinute := true }
  | .running => s.minuteReaches

/-- A day-end expiry acts in RUNNING: the selector swaps, a TURNOVER pass starts over the book that has become NEXT, and
the Catering Queue Unit closes its day (R97). The notices that came before are applied to the books as they stood. -/
def State.dayEndActs (s : State) : State :=
  let s := s.noticesBetweenClaims
  let finished := s.clock.today
  let s := s.onClock fun c => { c with today := finished.other }
  let s := s.onBsc fun _ => { pass := .turnover, cursor := ⟨finished, 0, 0⟩, opening := true, presented := true }
  s.dayClose finished

/-- A day-end expiry is raised (R96, R97). -/
def State.dayEndExpiry (s : State) : State :=
  match s.ctu.phase with
  | .setup => s
  | .walking => s.onClock fun c => { c with deferredDayEnd := true }
  | .running =>
    if s.bsc.pass = .turnover then s.onClock fun c => { c with heldDayEnd := true } else s.dayEndActs

/-- A pulse finds the second at 59 (R94): it carries into the minute, and past minute 1439 into the day; the day-end expiry
comes before the minute expiry for minute 0. -/
def State.carry (s : State) : State :=
  if s.clock.minute < 1439 then
    (s.onClock fun c => { c with second := 0, minute := c.minute + 1 }).minuteExpiry
  else
    ((s.onClock fun c => { c with second := 0, minute := 0, day := (c.day + 1) % 65536 }).dayEndExpiry).minuteExpiry

/-- A TICK pulse (R94); pulses that arrive while RESET is asserted are not counted. -/
def State.pulse (s : State) : State :=
  if s.resetAsserted then s
  else if s.clock.second < 59 then s.onClock fun c => { c with second := c.second + 1 }
  else s.carry

/-- When RUNNING begins, the deferred day end is taken, then the deferred minute (R96). -/
def State.takeDeferred (s : State) : State :=
  let s :=
    if s.clock.deferredDayEnd then (s.onClock fun c => { c with deferredDayEnd := false }).dayEndActs else s
  if s.clock.deferredMinute then (s.onClock fun c => { c with deferredMinute := false }).minuteReaches else s

/-- TICK (R94). -/
def execTick (s : State) : Out := ran s.pulse

/-- MINUTE_EXPIRY (R96): the pulse that carries into the minute below 1439; where the next pulse does not carry so, the
event cannot come and nothing changes (assumption log entry 10). -/
def execMinuteExpiry (s : State) : Out :=
  ran (if s.clock.second = 59 ∧ s.clock.minute < 1439 then s.pulse else s)

/-- DAY_END_EXPIRY (R97): the pulse that carries past minute 1439 (assumption log entry 10). -/
def execDayEndExpiry (s : State) : Out :=
  ran (if s.clock.second = 59 ∧ s.clock.minute = 1439 then s.pulse else s)

end Sys2Proof.Machine
end

