-- ==== Sys2Proof/Machine/Scanner.lean ====
section
/-! DEFINITION. The Bank Scanner (chapter 6): the visits of CLEAN, KEEP and TURNOVER passes, and the end of a pass. -/

namespace Sys2Proof.Machine

/-! ### The cursor and the end of a pass (R98, R106) -/

/-- The slot after a slot in the order of a pass (R98); none after the last slot of the pass's last book. -/
def nextCursor (pass : PassKind) (c : SlotRef) : Option SlotRef :=
  if c.slot.val < 15 then some { c with slot := Fin.ofNat 16 (c.slot.val + 1) }
  else if c.room.val < 63 then some ⟨c.book, Fin.ofNat 64 (c.room.val + 1), 0⟩
  else
    match pass, c.book with
    | .clean, .bookA | .keep, .bookA => some ⟨.bookB, 0, 0⟩
    | _, _ => none

/-- The code of a START (section 12.2). -/
def StartKind.code : StartKind → BitVec 4
  | .clean => 1
  | .keep => 2

/-- A pass ends (R106, R26): a CLEAN or KEEP pass makes the phase RUNNING and the START's code DONE; then the clock takes
its deferred or held marks. The link looks for its first work after those marks (assumption log entry 40). -/
def State.passEnd (s : State) : State :=
  let pass := s.bsc.pass
  let s := (s.onBsc fun _ => {}).raiseScan
  match pass with
  | .clean | .keep =>
    (s.onCtu fun c =>
      { c with
        phase := .running
        runningStart := none
        command :=
          match c.runningStart with
          | some k => { code := k.code, argument := 0, status := .done, reason := .none }
          | none => c.command }).takeDeferred
  | .turnover => if s.clock.heldDayEnd then (s.onClock fun c => { c with heldDayEnd := false }).dayEndActs else s
  | .none => s

/-- A visit has ended: the cursor goes on, or the pass ends (R98, R106). What waited for the claim's end, the notices and the
minute expiries, comes before the end of the pass, which is the model's choice (assumption log entry 50). -/
def State.visitEnded (s : State) : State :=
  let s := s.endClaim
  match nextCursor s.bsc.pass s.bsc.cursor with
  | some c => s.onBsc fun b => { b with cursor := c }
  | none => s.passEnd

/-- A visit's writes have only W7 left: it is presented, and the visit ends (R59). -/
def State.visitWritten (s : State) (todo : List WordWrite) (again : List WordWrite → Claim) : State :=
  match todo.drop 1 with
  | [w] => (s.leaveTail [w] .scanner).visitEnded
  | rest => s.onAdu fun a => { a with claim := some (again rest) }

/-! ### CLEAN and TURNOVER (R100, R105) -/

/-- A visit sets its slot FREE unless it is DRAFT (R47). -/
def State.clearSlot (s : State) (r : SlotRef) : State := if s.slotState r = .draft then s else s.setSlot r .free

/-- A CLEAN visit begins (R100). -/
def State.beginClean (s : State) : State :=
  let r := s.bsc.cursor
  (s.clearSlot r).onAdu fun a => { a with claim := some (.cleanVisit r (emptyWrites s r (s.takenFor r.book))) }

/-- A TURNOVER visit frees a LIVE booking as an end of cause TIME and marks the room (R105). -/
def State.turnoverFree (s : State) (r : SlotRef) : State :=
  match s.liveIndex r, s.liveEntry r with
  | some i, some e =>
    ((s.freeEntry i).notices (match e.order with | some o => [.death o (.ended .time)] | none => [])).markChanged r.room
  | _, _ => s

/-- A TURNOVER visit begins (R105). -/
def State.beginTurnover (s : State) : State :=
  let r := s.bsc.cursor
  (s.turnoverFree r).onAdu fun a => { a with claim := some (.turnoverVisit r (emptyWrites s r (s.takenFor r.book))) }

/-- A key of the slot tables lies in a book. -/
def keyInBook (b : Book) (k : Nat) : Bool :=
  match b with
  | .bookA => decide (k < 1024)
  | .bookB => decide (1024 ≤ k)

/-- The opening claim of a TURNOVER pass "sets FREE every DRAFT entry of the swept book" (R105). -/
def State.openTurnover (s : State) : State :=
  let s := s.onAdu fun a =>
    { a with slotMap := a.slotMap.filter fun x => !(keyInBook s.bsc.cursor.book x.1 && decide (x.2 = .draft)) }
  (s.onBsc fun b => { b with opening := false }).endClaim

/-! ### KEEP (R101 to R104) -/

/-- What a KEEP visit has read, in the order W5, W4, W6, O0, O4, O6, with whether a read failed. -/
structure KeepReads where
  w5 : Word
  w4 : Word
  w6 : Word
  o0 : Word
  o4 : Word
  o6 : Word
  orderError : Bool
  deriving DecidableEq, Repr

/-- The words in the order they are read; with an error on the order its words are not looked at (R104). -/
def KeepReads.ofReads (got : List (Option Word)) : KeepReads :=
  let w (n : Nat) : Word := (wordRead got n).getD 0
  ⟨w 0, w 1, w 2, w 3, w 4, w 5, got.any fun x => x.isNone⟩

/-- The judgement of a live slot (R101). -/
inductive KeepJudgement
  | refused (reason : Reason) (flag : Kind)
  | ended
  | rebuilt
  deriving DecidableEq, Repr

/-- The checks of R101, in order. -/
def State.keepCheck (s : State) (r : SlotRef) (t : Taken) (k : KeepReads) : KeepJudgement :=
  let start := admittedStart k.w4
  let stop := admittedStop k.w4
  if !s.inService r.room then .refused .badRoom .void
  else if stop ≤ start ∨ 1440 < stop then .refused .badTime .void
  else if t.role = .today ∧ stop ≤ t.now then .ended
  else if s.adu.freeList = [] then .refused .full .full
  else if (firstOverlap (s.others r.book r.room none) start stop).isSome then .refused .clash .clash
  else .rebuilt

/-- The fate a hand-over carries for a judgement (R103). -/
def KeepJudgement.fate : KeepJudgement → Fate
  | .refused _ _ => .release
  | .ended => .ended
  | .rebuilt => .rebuilt

/-- The order of a live slot is handed over with the fate of its judgement, where the slot's reads succeeded and O0 passes
(R103, R104); the second component says that a REBUILT booking keeps it. Each decision of the hand-over "gives its lock notice
and write" (R166), whatever the fate, as R103 refers "the lock notices it gives" to that rule. The closing words of R103 and a
sentence of R11 withhold hand-over and notice from an order that "no rebuilt booking names"; they are read as speaking of an
order that no judged slot hands over (assumption log entries 49 and 60). The resend mark read from O4 goes with RECALLING
alone; that every other hand-over enters it clear is the model's choice (assumption log entry 56). -/
def State.keepHandOver (s : State) (r : SlotRef) (t : Taken) (k : KeepReads) (j : KeepJudgement) : State × Option OrderIx :=
  match orderOfField (admittedOrder k.w6) with
  | none => (s, none)
  | some o =>
    let start := admittedStart k.w4
    let lead := leadOf k.o0
    if k.orderError || !orderRecordOk s k.o0 || decide (start < lead) then (s, none)
    else
      let e : OrderEntry :=
        { state := .attached, resend := false, at_ := r, role := t.role, start := start, lead := lead, due := start - lead,
          accepted := ticketsAccepted k.o6, total := ticketsTotal k.o6, verdict := .none, retries := 0, failure := .none }
      let (u, kept) := s.handOver o j.fate (orderStateOf k.o4) (resendOf k.o4) e
      (u, if kept then some o else none)

/-- The entry of a rebuilt booking (R102). -/
def State.keepEntry (s : State) (r : SlotRef) (t : Taken) (k : KeepReads) (order : Option OrderIx) (detached : Bool) : PoolEntry :=
  let start := admittedStart k.w4
  let inUse := bookingStateCode k.w5 == 2
  let marks := marksOf k.w5
  { at_ := r, start := start, stop := admittedStop k.w4, attendees := admittedAttendees k.w6,
    state := if inUse then .inUse else .booked, source := sourceOf k.w5,
    checkinMinute := if inUse then some t.now else none, origin := originOf k.w5, order := order,
    marks := if detached then { marks with noCatering := true } else marks, reason := reasonOf k.w5,
    presenceSeen := false, deadline := (if t.role = .today then max start t.now else start) + s.grace }

/-- A KEEP visit ends: a rebuilt booking of the TODAY book has its room's status line recomposed (R154). -/
def State.endKeep (s : State) (r : SlotRef) (rebuilt : Bool) : State :=
  (if rebuilt then s.recomposeToday r.book r.room else s).visitEnded

/-- A KEEP visit goes on to its writes, which mark the room in the Change Summary (R101, R102). -/
def State.keepWrite (s : State) (r : SlotRef) (rebuilt : Bool) (l : List WordWrite) : State :=
  (s.markChanged r.room).onAdu fun a => { a with claim := some (.keepWriting r rebuilt l) }

/-- A KEEP visit is judged on what it read (R101 to R103). A refusal's flag is set here, before its words are written, which is
the model's choice (R80 gives no moment; assumption log entry 48). -/
def State.judgeKeep (s : State) (r : SlotRef) (t : Taken) (k : KeepReads) : State :=
  let code := bookingStateCode k.w5
  if code ≠ 1 ∧ code ≠ 2 then s.endKeep r false
  else
    let j := s.keepCheck r t k
    let (s, kept) := s.keepHandOver r t k j
    match j with
    | .refused reason flag =>
      (s.setFlags ((KindSet.single flag).word 0)).keepWrite r false (refusedWrites s r (originOf k.w5) reason t)
    | .ended =>
      s.keepWrite r false
        (halfWrites s r (k.w4 &&& 0x07FF07FF)
          (wordW5 .ended .time (if code = 2 then sourceOf k.w5 else .none) (originOf k.w5) (marksOf k.w5) (reasonOf k.w5))
          (k.w6 &&& 0x00FF00FF) (wordW7 t))
    | .rebuilt =>
      let detached := decide (admittedOrder k.w6 ≠ 255) && kept.isNone
      let e := s.keepEntry r t k kept detached
      let s := s.takeEntry e
      if detached then s.keepWrite r true (entryWrites s e e.state.booking .none e.source t) else s.endKeep r true

/-- A KEEP visit goes on to its next read, or to its judgement when the reads are made (R101, R103). -/
def State.advanceKeep (s : State) (r : SlotRef) (t : Taken) (got : List (Option Word)) : State :=
  match s.keepRead r got with
  | some _ => s.onAdu fun a => { a with claim := some (.keepReading r t got) }
  | none => s.judgeKeep r t (KeepReads.ofReads got)

/-- A read of a KEEP visit has completed (R101, R103, R104): an error sets MEMERR, and on W5, W4 or W6 "The reads that follow
the failed one are not made". -/
def State.keepReadDone (s : State) (r : SlotRef) (t : Taken) (got : List (Option Word)) (data : Word) (error : Bool) :
    State :=
  if error then
    let s := s.setFlags flagMemerr
    if got.length < 3 then s.keepWrite r false (refusedWrites s r .request .memory t)
    else s.advanceKeep r t (got ++ [none])
  else s.advanceKeep r t (got ++ [some data])

/-- A KEEP visit begins with its reads (R101). -/
def State.beginKeep (s : State) : State :=
  let r := s.bsc.cursor
  s.onAdu fun a => { a with claim := some (.keepReading r (s.takenFor r.book) []) }

/-! ### Memory completions for the claim in progress -/

/-- An access of the claim in progress has completed (R15, R74, R75, R86, R100 to R105). -/
def State.claimAccessDone (s : State) (data : Word) (error : Bool) : State :=
  match s.adu.claim with
  | none => s
  | some c =>
    match c with
    | .admission a (.proposal got) => s.advanceAdmission a (got ++ [if error then none else some data])
    | .admission a (.readBack j got) => s.backReadDone a j (got ++ [if error then none else some data])
    | .admission a (.writing j back todo second) => s.admissionWritten a j back todo second error
    | .lifecycle w words todo failed second => s.lifeWritten w words todo failed second error
    | .cleanVisit r todo => (if error then s.setFlags flagMemerr else s).visitWritten todo (.cleanVisit r)
    | .turnoverVisit r todo => (if error then s.setFlags flagMemerr else s).visitWritten todo (.turnoverVisit r)
    | .keepReading r t got => s.keepReadDone r t got data error
    | .keepWriting r rebuilt todo =>
      let s := if error then s.setFlags flagMemerr else s
      match todo.drop 1 with
      | [w] => (s.leaveTail [w] .scanner).endKeep r rebuilt
      | rest => s.onAdu fun a => { a with claim := some (.keepWriting r rebuilt rest) }

/-! ### Meanings -/

/-- The arbiter takes the Bank Scanner's claim when it may and the pass is of this kind. -/
def State.takeVisit (s : State) (pass : PassKind) (opening : Bool) (go : State → State) : State :=
  if s.mayTake .scanner && decide (s.bsc.pass = pass) && s.bsc.opening == opening then go (s.take .scanner) else s

/-- CLEAN_VISIT (R100). -/
def execCleanVisit (s : State) : Out := ran (s.takeVisit .clean false State.beginClean)

/-- KEEP_VISIT (R101). -/
def execKeepVisit (s : State) : Out := ran (s.takeVisit .keep false State.beginKeep)

/-- TURNOVER_OPENING (R105). -/
def execTurnoverOpening (s : State) : Out := ran (s.takeVisit .turnover true State.openTurnover)

/-- TURNOVER_VISIT (R105). -/
def execTurnoverVisit (s : State) : Out := ran (s.takeVisit .turnover false State.beginTurnover)

end Sys2Proof.Machine
end

