-- ==== Sys2Proof/Machine/ControlUnit.lean ====
section
/-! DEFINITION. The Control Unit's acts: storing settings (R18, R19), judging and carrying out commands (R22 to R28), and the
action words (R29, R31, R34). -/

namespace Sys2Proof.Machine

/-! ### Settings (R18, R19) -/

/-- The bits of a setting word that carry a field; the others are discarded on the store (R18, section 12.2). -/
def settingMask (n : Nat) : Word :=
  match n with
  | 2 => 0xFFFFFFFF
  | 3 => 0x00000001
  | 4 | 5 | 6 | 7 | 8 => 0x00FFFFFF
  | 9 => 0x0000003F
  | 16 => 0x0000000F
  | 24 => 0x7FFFFFFF
  | 25 => 0x0000FFFF
  | 26 => 0x007FFFFF
  | 27 => 0xFFFFFFFF
  | 28 => 0x003FFFFF
  | _ => 0

/-- The stored value of a setting word. -/
def Shadow.value (h : Shadow) (n : Nat) : Word :=
  match n with
  | 2 => h.w2
  | 3 => h.w3
  | 4 => h.w4
  | 5 => h.w5
  | 6 => h.w6
  | 7 => h.w7
  | 8 => h.w8
  | 9 => h.w9
  | 16 => h.w16
  | 24 => h.w24
  | 25 => h.w25
  | 26 => h.w26
  | 27 => h.w27
  | 28 => h.w28
  | _ => 0

/-- Store a value. -/
def Shadow.store (h : Shadow) (n : Nat) (w : Word) : Shadow :=
  match n with
  | 2 => { h with w2 := w }
  | 3 => { h with w3 := w }
  | 4 => { h with w4 := w }
  | 5 => { h with w5 := w }
  | 6 => { h with w6 := w }
  | 7 => { h with w7 := w }
  | 8 => { h with w8 := w }
  | 9 => { h with w9 := w }
  | 16 => { h with w16 := w }
  | 24 => { h with w24 := w }
  | 25 => { h with w25 := w }
  | 26 => { h with w26 := w }
  | 27 => { h with w27 := w }
  | 28 => { h with w28 := w }
  | _ => h

/-- A CLOCK value is in range: "the minute is at most 1439 and the second at most 59" (R19). -/
def clockInRange (w : Word) : Bool := decide (bits w 16 6 ≤ 1439) && decide (bits w 5 0 ≤ 59)

/-- A CLOCK write loads the Campus Clock when it is in range, and sets the clock-setting mark (R19). -/
def State.loadClock (s : State) (w : Word) : State :=
  if clockInRange w then
    (s.onClock fun c => { c with second := bits w 5 0, minute := bits w 16 6, day := bits w 31 17 }).onCtu
      fun c => { c with clockGood := true }
  else s.onCtu fun c => { c with clockGood := false }

/-- A BANK write loads the bank selector (R19). -/
def State.loadBank (s : State) (w : Word) : State :=
  s.onClock fun c => { c with today := if bit w 0 then .bookB else .bookA }

/-- A captured write to a setting word: each enabled byte lane replaces that byte of the shadow word, and the merged word is
stored as a whole-word write of that value (R7, R18, R19). -/
def State.storeSetting (s : State) (n : Nat) (data : Word) (lanes : Lanes) : State :=
  let w := mergeLanes (s.ctu.shadow.value n) data lanes &&& settingMask n
  let s := s.onCtu fun c => { c with shadow := c.shadow.store n w }
  match n with
  | 2 => s.loadClock w
  | 3 => s.loadBank w
  | _ => s

/-! ### Validation of START (R24, R25) -/

/-- The sizes of the five windows, with their bases in shadow words 4 to 8 (R24): each base "must be a multiple of" the
size. -/
def State.windowSpans (s : State) : List (Nat × Nat) :=
  [(bits s.ctu.shadow.w4 23 0, 0x8000), (bits s.ctu.shadow.w5 23 0, 0x8000), (bits s.ctu.shadow.w6 23 0, 0x1000),
    (bits s.ctu.shadow.w7 23 0, 0x1000), (bits s.ctu.shadow.w8 23 0, 0x200)]

/-- The base of the Control Page (R1). -/
def Mps.controlBase (m : Mps) : Nat := 0xFFF000 + 0x100 * m.straps.toNat

/-- Two spans of bytes share none. -/
def apart (a b : Nat × Nat) : Bool := decide (a.1 + a.2 ≤ b.1) || decide (b.1 + b.2 ≤ a.1)

/-- The spans of a list share no byte. -/
def allApart : List (Nat × Nat) → Bool
  | [] => true
  | a :: l => l.all (apart a) && allApart l

/-- The layout passes (R24). -/
def State.layoutOk (s : State) : Bool :=
  let l := s.windowSpans
  (l.all fun a => a.1 % a.2 == 0 && decide (a.1 + a.2 ≤ 0x1000000)) && allApart ((s.mps.controlBase, 0x100) :: l)

/-- A value lies in a range, both ends included. -/
def within (lo v hi : Nat) : Bool := decide (lo ≤ v) && decide (v ≤ hi)

/-- Every field of words 24 to 28 lies in its range (R18, R25). -/
def State.fieldsOk (s : State) : Bool :=
  within 5 s.minlen 60 && within 1 s.grace 30 && within 0 s.early 15 && within 0 s.vacant 60 && within 0 s.warn 15
    && within 5 s.extstep 60 && within 0 s.retries 7 && within 1 s.kwait 255 && within 1 s.stationCount 8
    && within 1 s.fast 15 && within 8 s.slow 120 && within 1 s.stay 255 && within 1 s.replyWait 15
    && within 3 s.noise 255 && within 0 s.bucketSize 255 && within 1 s.negnoise 255 && within 1 s.lowreset 255
    && within 0 s.hyst 254 && within 1 s.debounce 255 && decide (s.average ∈ [1, 2, 4, 8])

/-- The conditions on one in-service entry (R25). -/
def State.entryOk (s : State) (r : Room) : Bool :=
  within 1 (s.capacity r) 200
    && (s.panelAddress r == 0
      || (decide (s.panelLoop r ≤ 3) && within 1 (s.panelAddress r) 16 && within 3 (s.threshold r) 255
        && decide (s.hyst < s.threshold r)
        && rooms.all fun q =>
          !(s.hasPanel q) || q == r || !(s.panelLoop q == s.panelLoop r && s.panelAddress q == s.panelAddress r)))

/-- The settings pass (R25). Entries not in service are not examined. -/
def State.settingsOk (s : State) : Bool :=
  s.ctu.clockGood && s.fieldsOk && rooms.all fun r => !s.inService r || s.entryOk r

/-! ### Judging a command (R22) -/

/-- The command codes of word 1. -/
inductive CommandCode | startClean | startKeep | restart | kitchenClear | rebase | swap
  deriving DecidableEq, Repr

/-- The command a code names; "Every other code, including the all-zero code, is unknown" (section 2.3). -/
def CommandCode.ofCode : Nat → Option CommandCode
  | 1 => some .startClean
  | 2 => some .startKeep
  | 3 => some .restart
  | 4 => some .kitchenClear
  | 5 => some .rebase
  | 6 => some .swap
  | _ => none

/-- The phases a command is allowed in (R22). -/
def CommandCode.allowed (c : CommandCode) (p : Phase) : Bool :=
  match c, p with
  | .startClean, .setup | .startKeep, .setup => true
  | .restart, .walking | .restart, .running => true
  | .kitchenClear, .running | .rebase, .running | .swap, .running => true
  | _, _ => false

/-- The arguments of SWAP (section 12.2). -/
def swapLoop (w : Word) : Nat := bits w 10 8
def swapA (w : Word) : Nat := bits w 20 16
def swapB (w : Word) : Nat := bits w 28 24

/-- The argument the command state keeps: the argument's bits for REBASE and SWAP, none for the other codes (R22, assumption
log entry 17). -/
def commandArgument (w : Word) : Word :=
  match CommandCode.ofCode (bits w 3 0) with
  | some .rebase => w &&& 0x0000BF00
  | some .swap => w &&& 0x1F1F0700
  | _ => 0

/-- A START's own checks (R23). -/
def State.startCheck (s : State) : Option CommandReason :=
  if !s.layoutOk then some .layout else if !s.settingsOk then some .setting else none

/-- The command's own checks (R23, R28). -/
def State.ownCheck (s : State) (c : CommandCode) (w : Word) : Option CommandReason :=
  match c with
  | .startClean | .startKeep => s.startCheck
  | .kitchenClear => if s.klc.link = .halted then none else some .notHalted
  | .swap => if 3 < swapLoop w ∨ 15 < swapA w ∨ 15 < swapB w then some .setting else none
  | .restart | .rebase => none

/-- The outcome of the judging: the reason of the first check that applies, or the command accepted (R22). -/
def State.judgeCommand (s : State) (w : Word) : CommandReason ⊕ CommandCode :=
  let c := CommandCode.ofCode (bits w 3 0)
  if s.ctu.runningStart.isSome ∧ c ≠ some .restart then .inl .busy
  else
    match c with
    | none => .inl .unknown
    | some c =>
      if !c.allowed s.ctu.phase then .inl .phase
      else
        match s.ownCheck c w with
        | some r => .inl r
        | none => .inr c

/-! ### Carrying out a command (R22, R23, R27, R28) -/

/-- Set the command state. -/
def State.setCommand (s : State) (w : Word) (st : CommandStatus) (r : CommandReason) : State :=
  s.onCtu fun c =>
    { c with command := { code := BitVec.ofNat 4 (bits w 3 0), argument := commandArgument w, status := st, reason := r } }

/-- The windows that START turns ON (R1, R23). -/
def Shadow.windows (h : Shadow) : Windows :=
  ⟨h.w4.setWidth 24, h.w5.setWidth 24, h.w6.setWidth 24, h.w7.setWidth 24, h.w8.setWidth 24⟩

/-- A START takes effect (R23, R96, R98, R108, R126, R138). -/
def State.start (s : State) (k : StartKind) : State :=
  let s := s.onCtu fun c => { c with runningStart := some k, phase := .walking }
  let s := s.onMps fun m => { m with windows := some s.ctu.shadow.windows }
  let s := s.onClock fun c => { c with deferredMinute := false, deferredDayEnd := false }
  let s := s.onBsc fun _ => { pass := match k with | .clean => .clean | .keep => .keep, presented := true }
  ((s.startPlu).onOcf fun _ => {}).startAtu

/-- REBASE takes effect (R28): the named room's filter, or every room's, is marked. -/
def State.rebase (s : State) (w : Word) : State :=
  if bit w 15 then rooms.foldl State.markUninitialised s else s.markUninitialised (Fin.ofNat 64 (bits w 13 8))

/-- An accepted command takes effect. -/
def State.carryOut (s : State) (c : CommandCode) (w : Word) : State :=
  match c with
  | .startClean => s.start .clean
  | .startKeep => s.start .keep
  | .restart => s.restart
  | .kitchenClear => s.kitchenClear
  | .rebase => s.rebase w
  | .swap => s.swapPositions (Fin.ofNat 4 (swapLoop w)) (swapA w) (swapB w)

/-- The status after acceptance (R22). -/
def CommandCode.acceptedStatus : CommandCode → CommandStatus
  | .startClean | .startKeep => .busy
  | .restart | .kitchenClear | .rebase | .swap => .done

/-- A whole-word COMMAND write (R22). -/
def State.commandWrite (s : State) (w : Word) : State :=
  match s.judgeCommand w with
  | .inl r => s.setCommand w .refused r
  | .inr c => (s.carryOut c w).setCommand w c.acceptedStatus .none

/-! ### The other action words (R29, R31, R34) -/

/-- A whole-word write to word 11 empties the Trap Slot (R31). -/
def State.trapTaken (s : State) : State := s.onCtu fun c => { c with trapSlot := none }

/-- A whole-word write to word 17 clears KITCHEN and SCAN where their positions hold a one (R34). -/
def State.clearCauses (s : State) (w : Word) : State :=
  s.onCtu fun c => { c with kitchenCause := c.kitchenCause && !bit w 2, scanCause := c.scanCause && !bit w 3 }

/-- The action an action word names (R6). -/
def State.act (s : State) (n : Nat) (w : Word) : State :=
  match n with
  | 1 => s.commandWrite w
  | 10 => s.clearFlags w
  | 11 => s.trapTaken
  | 17 => s.clearCauses w
  | _ => s

end Sys2Proof.Machine
end

