-- ==== Sys2Proof/Machine/MemoryPath.lean ====
section
/-! DEFINITION. The Memory Path Switch (chapter 1): decoding a host access, its treatment, the completion of a memory
access, and the meanings of the host's accesses. -/

namespace Sys2Proof.Machine

/-! ### Decoding (R1, R2) -/

/-- What an address names (R2). The word offsets are within a record: 0..7 of a slot or an order, 0..15 of a page, 0..1 of a
directory entry. -/
inductive Target
  | outside
  | control (word : Nat)
  | slot (at_ : SlotRef) (word : Nat)
  | order (order : OrderIx) (word : Nat)
  | page (room : Room) (word : Nat)
  | directory (room : Room) (word : Nat)
  | capture (room : Room) (word : Nat)
  deriving DecidableEq, Repr

/-- The byte offset of an address within a window. -/
def offsetIn (base size : Nat) (a : Addr) : Option Nat :=
  if base ≤ a.toNat ∧ a.toNat < base + size then some (a.toNat - base) else none

/-- The slot word at byte offset f of a book (section 1.4): "the room is f / 512 rounded down, the slot is (f / 32 rounded
down) modulo 16, and the word is (f / 4 rounded down) modulo 8". -/
def slotTarget (b : Book) (f : Nat) : Target := .slot ⟨b, Fin.ofNat 64 (f / 512), Fin.ofNat 16 (f / 32)⟩ (f / 4 % 8)

/-- The target among the windows that START turned ON. -/
def windowsTarget (w : Windows) (a : Addr) : Target :=
  match offsetIn w.bookA.toNat 0x8000 a with
  | some f => slotTarget .bookA f
  | none =>
    match offsetIn w.bookB.toNat 0x8000 a with
    | some f => slotTarget .bookB f
    | none =>
      match offsetIn w.orders.toNat 0x1000 a with
      | some f => .order (Fin.ofNat 128 (f / 32)) (f / 4 % 8)
      | none =>
        match offsetIn w.pages.toNat 0x1000 a with
        | some f => .page (Fin.ofNat 64 (f / 64)) (f / 4 % 16)
        | none =>
          match offsetIn w.directory.toNat 0x200 a with
          | some f => .directory (Fin.ofNat 64 (f / 8)) (f / 4 % 2)
          | none => .outside

/-- The Room Directory's CAPTURE state in SETUP: "while that value is a multiple of 0x200 and the 512 bytes from it do not
overlap the Control Page" (R1). -/
def State.captures (s : State) : Bool :=
  let base := bits s.ctu.shadow.w8 23 0
  base % 0x200 == 0 && apart (base, 0x200) (s.mps.controlBase, 0x100)

/-- What an address names now. While RESET is asserted every window is OFF (assumption log entry 15). -/
def State.target (s : State) (a : Addr) : Target :=
  if !s.mps.controlOn then .outside
  else
    match offsetIn s.mps.controlBase 0x100 a with
    | some f => .control (f / 4)
    | none =>
      match s.mps.windows with
      | some w => windowsTarget w a
      | none =>
        if s.captures then
          match offsetIn (bits s.ctu.shadow.w8 23 0) 0x200 a with
          | some f => .capture (Fin.ofNat 64 (f / 8)) (f / 4 % 2)
          | none => .outside
        else .outside

/-! ### The treatments (R3, R4, R6) -/

/-- The host access goes to the memory-side arbiter in the host class, with ready stretched (R3). Captured writes do the
same. -/
def State.toMemory (s : State) (a : HostAccess) : State :=
  (s.present ⟨.host, a.write, a.addr, a.data, a.lanes⟩).onMps fun m => { m with hostResult := .stalled }

/-- The host access completes at once (R4, R5). -/
def State.completeHost (s : State) (data : Option Word) (error : Bool) : State :=
  s.onMps fun m => { m with hostResult := .done data error }

/-- A withheld write: it completes without error and sets PROTECT (R4). -/
def State.withholdWrite (s : State) : State := (s.setFlags flagProtect).completeHost none false

/-- A read of an interpreted Control Page word (R5): substituted; words 18 and 19 lose the marks of the enabled lanes
(R32). -/
def State.readControl (s : State) (n : Nat) (lanes : Lanes) : State :=
  let data := s.controlRead n
  let s := if n = 18 ∨ n = 19 then s.onCtu fun c => c.clearRead (decide (n = 19)) lanes else s
  s.completeHost (some data) false

/-- The classes of the Control Page's words (R6). -/
inductive WordClass | report | action | anyPhase | setup | none
  deriving DecidableEq, Repr

/-- The class of a Control Page word; words 23 and 29 to 63 are not interpreted (R6). -/
def wordClass (n : Nat) : WordClass :=
  if n = 0 ∨ (12 ≤ n ∧ n ≤ 15) ∨ (18 ≤ n ∧ n ≤ 22) then .report
  else if n = 1 ∨ n = 10 ∨ n = 11 ∨ n = 17 then .action
  else if n = 9 ∨ n = 16 then .anyPhase
  else if (2 ≤ n ∧ n ≤ 8) ∨ (24 ≤ n ∧ n ≤ 28) then .setup
  else .none

/-- A write to a Control Page word (R6, R7). -/
def State.writeControl (s : State) (n : Nat) (a : HostAccess) : State :=
  match wordClass n with
  | .report => s.withholdWrite
  | .action => if a.lanes = allLanes then (s.act n a.data).toMemory a else (s.setFlags flagPartial).toMemory a
  | .anyPhase => (s.storeSetting n a.data a.lanes).toMemory a
  | .setup => if s.ctu.phase = .setup then (s.storeSetting n a.data a.lanes).toMemory a else s.withholdWrite
  | .none => s.toMemory a

/-- A draft notice is handed to the Admission Unit (R8, R45). -/
def State.noteDraft (s : State) (r : SlotRef) : State :=
  s.onAdu fun a => { a with drafts := Table.set false a.drafts r.key true }

/-- A whole-word W3 write is held, and its request claim handed over (R9, R10, R49). -/
def State.holdRequest (s : State) (r : SlotRef) (a : HostAccess) : State :=
  (s.onMps fun m => { m with held := some a, hostResult := .stalled }).onAdu
    fun u => { u with request := some ⟨r, a.data⟩ }

/-- A write to a slot word (R8, R9). -/
def State.writeSlot (s : State) (r : SlotRef) (n : Nat) (a : HostAccess) : State :=
  if n < 3 then (s.noteDraft r).toMemory a
  else if n = 3 then (if a.lanes = allLanes then s.holdRequest r a else (s.setFlags flagPartial).toMemory a)
  else s.withholdWrite

/-- A write to an order word (R11). -/
def State.writeOrder (s : State) (o : OrderIx) (n : Nat) (a : HostAccess) : State :=
  if n < 4 ∧ s.locked o = false then s.toMemory a else s.withholdWrite

/-- Line 1 bytes handed to the Panel Loop Unit: written into the capture with page-dirty set, discarded for a room without
panel state (R12, R119). -/
def State.captureLine (s : State) (r : Room) (n : Nat) (data : Word) (lanes : Lanes) : State :=
  if s.hasPanel r then
    (s.setPanel r { s.panel r with line1 := mergeLine (s.panel r).line1 n data lanes }).setDirty r
  else s

/-- A write to a page word (R12). -/
def State.writePage (s : State) (r : Room) (n : Nat) (a : HostAccess) : State :=
  if n < 8 then (s.captureLine r n a.data a.lanes).toMemory a else s.toMemory a

/-- A write to a directory word in CAPTURE (R13). -/
def State.captureDirectory (s : State) (r : Room) (n : Nat) (data : Word) (lanes : Lanes) : State :=
  s.onCtu fun c =>
    { c with directory := Table.set 0 c.directory (2 * r.val + n) (mergeLanes (s.dirWord r n) data lanes) }

/-- A host write, by what its address names. -/
def State.hostWrite (s : State) (a : HostAccess) : State :=
  match s.target a.addr with
  | .outside => s.toMemory a
  | .control n => s.writeControl n a
  | .slot r n => s.writeSlot r n a
  | .order o n => s.writeOrder o n a
  | .page r n => s.writePage r n a
  | .directory _ _ => s.withholdWrite
  | .capture r n => (s.captureDirectory r n a.data a.lanes).toMemory a

/-- A host read, by what its address names (R2, R5, R12). -/
def State.hostRead (s : State) (a : HostAccess) : State :=
  match s.target a.addr with
  | .control n => if wordClass n = .none then s.toMemory a else s.readControl n a.lanes
  | .page r n => if n < 8 then s.toMemory a else s.completeHost (some (lineWord (s.roomState r).line (n - 8))) false
  | .outside | .slot _ _ | .order _ _ | .directory _ _ | .capture _ _ => s.toMemory a

/-- A host access has arrived and is treated (R2). -/
def State.hostTreat (s : State) (a : HostAccess) : State := if a.write then s.hostWrite a else s.hostRead a

/-- A host access: it cannot arrive while the previous one is in progress (R10, assumption log entry 6). -/
def hostAccess (a : HostAccess) (s : State) : Out :=
  if s.mps.hostResult = .stalled then .fault .hostBusBusy else ran (s.hostTreat a)

/-- The byte address of a Control Page word. -/
def State.controlAddr (s : State) (n : Nat) : Addr := addrAt s.mps.controlBase (4 * n)

/-- A host write to a Control Page word. -/
def controlWrite (n : Nat) (data : Word) (lanes : Lanes) (s : State) : Out :=
  hostAccess ⟨true, s.controlAddr n, data, lanes⟩ s

/-- A whole-word host write to COMMAND of a code with the bits above it. -/
def commandWord (code : BitVec 4) (rest : BitVec 28) : Word := rest ++ code

/-! ### Completion of a memory access (R14, R15) -/

/-- The data a completed read returns: the word in memory, or a free value when memory reported an error (R15). -/
def State.readData (s : State) (a : Access) (error : Bool) : Word :=
  if error then Config.freeWord s.freeCount else readWord s.mem a.addr

/-- Memory after a completed access: a write's enabled lanes are written, with free values when memory reported an error
(assumption log entry 9). -/
def State.memAfter (s : State) (a : Access) (error : Bool) : List Host.Cell :=
  if a.write then writeWord s.mem a.addr (if error then Config.freeWord s.freeCount else a.data) a.lanes else s.mem

/-- The data and the error are handed to the requester of a completed access. Of an access whose block RESTART has reset since,
an error that R29 has set MEMERR still does; nothing else follows (assumption log entry 36). -/
def State.deliver (s : State) (a : Access) (data : Word) (error : Bool) : State :=
  match a.owner with
  | .host => s.completeHost (if a.write then none else some data) error
  | .hostRelease => (s.completeHost none error).onMps fun m => { m with held := none }
  | .aduClaim | .bsc => s.claimAccessDone data error
  | .aduTail => s.tailDone error
  | .cqu => s.cquDone error
  | .klcAssembly => s.assemblyRead data error
  | .klcFinal => s.finalDone error
  | .orphanVisit | .orphanCqu | .orphanBsc => if error then s.setFlags flagMemerr else s
  | .orphanAdu | .orphanKlc => s

/-- Memory completes the granted access. When the port becomes free, the accesses already waiting are granted before those
the completion gives rise to, unless these arrive first (R14). -/
def State.accessComplete (s : State) (error nextFirst : Bool) : State :=
  match s.mps.granted with
  | none => s
  | some a =>
    let data := s.readData a error
    let s := { s with mem := s.memAfter a error, freeCount := if error then s.freeCount + 1 else s.freeCount }
    let s := s.onMps fun m => { m with granted := none }
    let s := if nextFirst then s else s.onMps Mps.arbitrate
    s.deliver a data error

/-- The requester of a completed access has not presented its next access yet, as the host has not when its access has just
completed, and no access of the host class stands, which would be first in any grant: a write that the completion released
takes part in the grant at once. -/
def State.awaitsNext (before after : State) : Bool :=
  match before.mps.granted with
  | none => false
  | some a => !after.mps.outstanding a.owner.requester && !after.mps.outstanding .host

/-- The end of the step that completed an access: where the requester's next access is to arrive before the grant and is
not there yet, the port stays free until the end of the next step, so that the access takes part in the grant (R14,
assumption log entry 8). -/
def settleAfter (before after : State) (nextFirst : Bool) : State :=
  let s := presentAll after
  if nextFirst && before.awaitsNext s then s else s.onMps Mps.arbitrate

/-- MEMORY_ACCESS_COMPLETE (R14, R15). -/
def execMemoryAccessComplete (error nextFirst : Bool) (s : State) : Out :=
  .next (settleAfter s (s.accessComplete error nextFirst) nextFirst)

/-! ### Meanings of the host's accesses -/

/-- HOST_ACCESS_PASS (R3). -/
def execHostAccessPass (a : HostAccess) (s : State) : Out := hostAccess a s

/-- WITHHELD_WRITE (R4). -/
def execWithheldWrite (addr : Addr) (data : Word) (lanes : Lanes) (s : State) : Out := hostAccess ⟨true, addr, data, lanes⟩ s

/-- CONTROL_PAGE_WRITE (R6). -/
def execControlPageWrite (word : Fin 64) (data : Word) (lanes : Lanes) (s : State) : Out := controlWrite word.val data lanes s

/-- PARTIAL_ACTION_WRITE (R7). -/
def execPartialActionWrite (word : Fin 64) (data : Word) (lanes : Lanes) (s : State) : Out := controlWrite word.val data lanes s

/-- CLOCK_WRITE (R19). -/
def execClockWrite (data : Word) (lanes : Lanes) (s : State) : Out := controlWrite 2 data lanes s

/-- BANK_WRITE (R19). -/
def execBankWrite (data : Word) (lanes : Lanes) (s : State) : Out := controlWrite 3 data lanes s

/-- TRAP_ENABLE_WRITE (R81). -/
def execTrapEnableWrite (data : Word) (lanes : Lanes) (s : State) : Out := controlWrite 9 data lanes s

/-- INT_ENABLE_WRITE (R35). -/
def execIntEnableWrite (data : Word) (lanes : Lanes) (s : State) : Out := controlWrite 16 data lanes s

/-- FLAGS_WRITE (R29). -/
def execFlagsWrite (data : Word) (s : State) : Out := controlWrite 10 data allLanes s

/-- TRAP_TAKEN (R31). -/
def execTrapTaken (data : Word) (s : State) : Out := controlWrite 11 data allLanes s

/-- INT_PENDING_WRITE (R34). -/
def execIntPendingWrite (data : Word) (s : State) : Out := controlWrite 17 data allLanes s

/-- CHANGE_SUMMARY_READ (R32). -/
def execChangeSummaryRead (high : Bool) (lanes : Lanes) (s : State) : Out :=
  hostAccess ⟨false, s.controlAddr (if high then 19 else 18), 0, lanes⟩ s

/-- START_CLEAN (R23). -/
def execStartClean (rest : BitVec 28) (s : State) : Out := controlWrite 1 (commandWord 1 rest) allLanes s

/-- START_KEEP (R23). -/
def execStartKeep (rest : BitVec 28) (s : State) : Out := controlWrite 1 (commandWord 2 rest) allLanes s

/-- RESTART (R27). -/
def execRestart (rest : BitVec 28) (s : State) : Out := controlWrite 1 (commandWord 3 rest) allLanes s

/-- KITCHEN_CLEAR (R177). -/
def execKitchenClear (rest : BitVec 28) (s : State) : Out := controlWrite 1 (commandWord 4 rest) allLanes s

/-- REBASE (R28). -/
def execRebase (rest : BitVec 28) (s : State) : Out := controlWrite 1 (commandWord 5 rest) allLanes s

/-- SWAP (R109). -/
def execSwap (rest : BitVec 28) (s : State) : Out := controlWrite 1 (commandWord 6 rest) allLanes s

/-- COMMAND_UNKNOWN (R22). -/
def execCommandUnknown (code : BitVec 4) (rest : BitVec 28) (s : State) : Out :=
  controlWrite 1 (commandWord code rest) allLanes s

/-- HOST_PROPOSAL_WRITE (R8). -/
def execHostProposalWrite (addr : Addr) (data : Word) (lanes : Lanes) (s : State) : Out :=
  hostAccess ⟨true, addr, data, lanes⟩ s

/-- HOST_REQUEST_WRITE (R9). -/
def execHostRequestWrite (addr : Addr) (data : Word) (s : State) : Out := hostAccess ⟨true, addr, data, allLanes⟩ s

/-- PARTIAL_REQUEST_WRITE (R9). -/
def execPartialRequestWrite (addr : Addr) (data : Word) (lanes : Lanes) (s : State) : Out :=
  hostAccess ⟨true, addr, data, lanes⟩ s

/-- ORDER_WORD_WRITE (R11). -/
def execOrderWordWrite (addr : Addr) (data : Word) (lanes : Lanes) (s : State) : Out := hostAccess ⟨true, addr, data, lanes⟩ s

/-- PAGE_LINE1_WRITE (R12). -/
def execPageLine1Write (addr : Addr) (data : Word) (lanes : Lanes) (s : State) : Out := hostAccess ⟨true, addr, data, lanes⟩ s

/-- DIRECTORY_WRITE (R13). -/
def execDirectoryWrite (addr : Addr) (data : Word) (lanes : Lanes) (s : State) : Out := hostAccess ⟨true, addr, data, lanes⟩ s

end Sys2Proof.Machine
end

