-- ==== Sys2Proof/Machine/Dispatch.lean ====
section
/-! DEFINITION. The meaning of each command: one arm per constructor of Instr. -/

namespace Sys2Proof.Machine

/-- The effect of a command on everything but the queue. -/
def exec (i : Instr) (s : State) : Host.Outcome State Fault Refusal :=
  match i with
  | .hardwareReset straps => Sys2Proof.Machine.execHardwareReset straps s
  | .tick => Sys2Proof.Machine.execTick s
  | .minuteExpiry => Sys2Proof.Machine.execMinuteExpiry s
  | .dayEndExpiry => Sys2Proof.Machine.execDayEndExpiry s
  | .hostAccessPass access => Sys2Proof.Machine.execHostAccessPass access s
  | .withheldWrite addr data lanes => Sys2Proof.Machine.execWithheldWrite addr data lanes s
  | .controlPageWrite word data lanes => Sys2Proof.Machine.execControlPageWrite word data lanes s
  | .partialActionWrite word data lanes => Sys2Proof.Machine.execPartialActionWrite word data lanes s
  | .clockWrite data lanes => Sys2Proof.Machine.execClockWrite data lanes s
  | .bankWrite data lanes => Sys2Proof.Machine.execBankWrite data lanes s
  | .trapEnableWrite data lanes => Sys2Proof.Machine.execTrapEnableWrite data lanes s
  | .intEnableWrite data lanes => Sys2Proof.Machine.execIntEnableWrite data lanes s
  | .flagsWrite data => Sys2Proof.Machine.execFlagsWrite data s
  | .trapTaken data => Sys2Proof.Machine.execTrapTaken data s
  | .intPendingWrite data => Sys2Proof.Machine.execIntPendingWrite data s
  | .changeSummaryRead high lanes => Sys2Proof.Machine.execChangeSummaryRead high lanes s
  | .startClean rest => Sys2Proof.Machine.execStartClean rest s
  | .startKeep rest => Sys2Proof.Machine.execStartKeep rest s
  | .restart rest => Sys2Proof.Machine.execRestart rest s
  | .kitchenClear rest => Sys2Proof.Machine.execKitchenClear rest s
  | .rebase rest => Sys2Proof.Machine.execRebase rest s
  | .swap rest => Sys2Proof.Machine.execSwap rest s
  | .commandUnknown code rest => Sys2Proof.Machine.execCommandUnknown code rest s
  | .hostProposalWrite addr data lanes => Sys2Proof.Machine.execHostProposalWrite addr data lanes s
  | .draftNotice bookB room slot => Sys2Proof.Machine.execDraftNotice bookB room slot s
  | .hostRequestWrite addr data => Sys2Proof.Machine.execHostRequestWrite addr data s
  | .partialRequestWrite addr data lanes => Sys2Proof.Machine.execPartialRequestWrite addr data lanes s
  | .orderWordWrite addr data lanes => Sys2Proof.Machine.execOrderWordWrite addr data lanes s
  | .pageLine1Write addr data lanes => Sys2Proof.Machine.execPageLine1Write addr data lanes s
  | .directoryWrite addr data lanes => Sys2Proof.Machine.execDirectoryWrite addr data lanes s
  | .memoryAccessComplete error nextFirst => Sys2Proof.Machine.execMemoryAccessComplete error nextFirst s
  | .requestNew => Sys2Proof.Machine.execRequestNew s
  | .requestAmend => Sys2Proof.Machine.execRequestAmend s
  | .requestCancel => Sys2Proof.Machine.execRequestCancel s
  | .requestNone => Sys2Proof.Machine.execRequestNone s
  | .badRequest => Sys2Proof.Machine.execBadRequest s
  | .cleanVisit => Sys2Proof.Machine.execCleanVisit s
  | .keepVisit => Sys2Proof.Machine.execKeepVisit s
  | .turnoverOpening => Sys2Proof.Machine.execTurnoverOpening s
  | .turnoverVisit => Sys2Proof.Machine.execTurnoverVisit s
  | .autoCheckin => Sys2Proof.Machine.execAutoCheckin s
  | .timeEnd => Sys2Proof.Machine.execTimeEnd s
  | .resolve => Sys2Proof.Machine.execResolve s
  | .vacancyEnd => Sys2Proof.Machine.execVacancyEnd s
  | .panelEventTaken => Sys2Proof.Machine.execPanelEventTaken s
  | .checkin => Sys2Proof.Machine.execCheckin s
  | .endBooking => Sys2Proof.Machine.execEnd s
  | .extend => Sys2Proof.Machine.execExtend s
  | .booknow => Sys2Proof.Machine.execBooknow s
  | .presenceReport room => Sys2Proof.Machine.execPresenceReport room s
  | .returnNotice room => Sys2Proof.Machine.execReturnNotice room s
  | .roundStart loop => Sys2Proof.Machine.execRoundStart loop s
  | .poll loop => Sys2Proof.Machine.execPoll loop s
  | .replyWaitExpiry loop => Sys2Proof.Machine.execReplyWaitExpiry loop s
  | .replyGapExpiry loop => Sys2Proof.Machine.execReplyGapExpiry loop s
  | .reply loop bytes => Sys2Proof.Machine.execReply loop bytes s
  | .frameSent => Sys2Proof.Machine.execFrameSent s
  | .kitchenAnswer sync station orderNumber ticketIndex verdict checksum => Sys2Proof.Machine.execKitchenAnswer sync station orderNumber ticketIndex verdict checksum s
  | .frameResend => Sys2Proof.Machine.execFrameResend s
  | .answerWaitExpiry => Sys2Proof.Machine.execAnswerWaitExpiry s
  | .endOfReset => Sys2Proof.Machine.execEndOfReset s
  | .pollSent loop => Sys2Proof.Machine.execPollSent loop s
  | .replyStartBit loop => Sys2Proof.Machine.execReplyStartBit loop s
  | .roundEndAfterGap loop => Sys2Proof.Machine.execRoundEndAfterGap loop s
  | .nextFrameGapEnd => Sys2Proof.Machine.execNextFrameGapEnd s

end Sys2Proof.Machine
end

