-- ==== Sys2Proof/Safety.lean ====
section
/-! DEFINITION. The terms the claims use: what a command leaves unchanged, and what every state that the block can be in
satisfies. -/

namespace Sys2Proof.Machine

/-! ### What a command leaves -/

/-- The parts of the state a command may change. `hostPort` is the held access and what the host-side port shows; `regionMap`
the straps and the decode states of the windows; `catering` the Catering Queue Unit, the Kitchen Link Controller and the
locked-order set; `resetPin` the RESET pin; `freeValues` the count of free values used. -/
inductive Part
  | hostPort | regionMap | ctu | clock | adu | bsc | plu | ocf | atu | catering | resetPin | freeValues
  deriving DecidableEq, Repr

/-- Every byte of memory reads as before. -/
def SameMemory (s t : State) : Prop := ∀ a, readByte t.mem a = readByte s.mem a

/-- `t` differs from `s`, memory left out of the account, only in the parts listed. The part `catering` is compared with what
the end of any step leaves of it (`settle`: an idle link takes work, a listed order's words begin to be written); the
memory-side arbiter's queue, which every step may move, is not compared. -/
def LeavesAlone (ps : List Part) (s t : State) : Prop :=
  t.pending = s.pending
    ∧ (.hostPort ∉ ps → t.mps.held = s.mps.held ∧ t.mps.hostResult = s.mps.hostResult)
    ∧ (.regionMap ∉ ps → t.mps.straps = s.mps.straps ∧ t.mps.controlOn = s.mps.controlOn ∧ t.mps.windows = s.mps.windows)
    ∧ (.ctu ∉ ps → t.ctu = s.ctu)
    ∧ (.clock ∉ ps → t.clock = s.clock)
    ∧ (.adu ∉ ps → t.adu = s.adu)
    ∧ (.bsc ∉ ps → t.bsc = s.bsc)
    ∧ (.plu ∉ ps → t.plu = s.plu)
    ∧ (.ocf ∉ ps → t.ocf = s.ocf)
    ∧ (.atu ∉ ps → t.atu = s.atu)
    ∧ (.catering ∉ ps →
        t.cqu = (settle s).cqu ∧ t.klc = (settle s).klc ∧ t.mps.locked = (settle s).mps.locked)
    ∧ (.resetPin ∉ ps → t.resetAsserted = s.resetAsserted)
    ∧ (.freeValues ∉ ps → t.freeCount = s.freeCount)

/-- `t` differs from `s` only in the parts listed, and every byte of memory reads as before. -/
def ChangesOnly (ps : List Part) (s t : State) : Prop := SameMemory s t ∧ LeavesAlone ps s t

/-- The command runs, to a state of which `p` holds. -/
def Runs (c : Instr) (s : State) (p : State → Prop) : Prop := ∃ t, exec c s = .next t ∧ p t

/-- The memory-side arbiter stands as it would without the command: the command gave rise to no access. -/
def ArbiterUntouched (s t : State) : Prop :=
  t.mps.granted = (settle s).mps.granted ∧ t.mps.waiting = (settle s).mps.waiting

/-- The host access stands at the memory-side arbiter in the host class, granted or waiting, with ready stretched (R3). -/
def HostAccessStands (a : HostAccess) (t : State) : Prop :=
  t.mps.hostResult = .stalled ∧
    (t.mps.granted = some ⟨.host, a.write, a.addr, a.data, a.lanes⟩
      ∨ t.mps.waiting.host = some ⟨.host, a.write, a.addr, a.data, a.lanes⟩)

/-- The held write stands at the memory-side arbiter in the host class, granted or waiting (R10, RELEASE). -/
def ReleaseStands (h : HostAccess) (t : State) : Prop :=
  t.mps.granted = some ⟨.hostRelease, true, h.addr, h.data, h.lanes⟩
    ∨ t.mps.waiting.host = some ⟨.hostRelease, true, h.addr, h.data, h.lanes⟩

/-- An access of one of the part's blocks stands at the memory-side arbiter, granted or waiting. -/
def AccessStands (x : Access) (t : State) : Prop :=
  t.mps.granted = some x ∨ t.mps.waiting.of x.owner.requester = some x

/-- No access of the requester waits at the memory-side arbiter (R14). -/
def NoneWaits (s : State) (r : Requester) : Prop :=
  ∀ place x, s.mps.waiting.of place = some x → place ≠ r ∧ x.owner.requester ≠ r

/-- The host may present an access: the previous one has completed (R10). -/
def HostFree (s : State) : Prop := s.mps.hostResult ≠ .stalled

/-- The host may reach the Control Page: the previous access has completed, and the page is ON (R1). -/
def HostReady (s : State) : Prop := HostFree s ∧ s.mps.controlOn = true

/-- The host write to a word of the Control Page that a row of the table stands for. -/
def controlWriteAt (s : State) (n : Nat) (data : Word) (lanes : Lanes) : HostAccess := ⟨true, s.controlAddr n, data, lanes⟩

/-- The host write was withheld (R4): it has completed without an error and without a memory-side access, and PROTECT is
set. -/
def Withheld (s t : State) : Prop :=
  t.mps.hostResult = .done none false ∧ t.mps.held = s.mps.held ∧ ArbiterUntouched s t
    ∧ t.ctu = { s.ctu with flags := s.ctu.flags ||| 0x100 }

/-! ### Terms of the spec's tables -/

/-- The accesses that pass (R2, R3 and the summary of treatments in section 1.1), by what their address names. -/
def Passes (s : State) (a : HostAccess) : Prop :=
  match s.target a.addr with
  | .outside => True
  | .control n => n = 23 ∨ 29 ≤ n
  | .slot _ _ | .directory _ _ | .capture _ _ => a.write = false
  | .order o n => a.write = false ∨ (n < 4 ∧ s.locked o = false)
  | .page _ n => (n < 8 ∧ a.write = false) ∨ (8 ≤ n ∧ a.write = true)

/-- The words whose host writes are withheld now (R4, R6 and the summary of treatments in section 1.1). -/
def Protected (s : State) (addr : Addr) : Prop :=
  match s.target addr with
  | .outside | .page _ _ | .capture _ _ => False
  | .control n =>
    n = 0 ∨ (12 ≤ n ∧ n ≤ 15) ∨ (18 ≤ n ∧ n ≤ 22)
      ∨ (s.ctu.phase ≠ .setup ∧ ((2 ≤ n ∧ n ≤ 8) ∨ (24 ≤ n ∧ n ≤ 28)))
  | .slot _ n => 4 ≤ n
  | .order o n => 4 ≤ n ∨ s.locked o = true
  | .directory _ _ => True

/-- The base value in a setting word: bits [23:0] (section 12.2). -/
def baseOf (w : Word) : Nat := w.toNat % 0x1000000

/-- A byte lies in the window of `size` bytes at `base`. -/
def InWindow (base size a : Nat) : Prop := base ≤ a ∧ a < base + size

/-- Two windows share no byte. -/
def Disjoint2 (b1 size1 b2 size2 : Nat) : Prop := ∀ a, ¬ (InWindow b1 size1 a ∧ InWindow b2 size2 a)

/-- A window is a multiple of its size and ends at or below 0x100_0000 (R24). -/
def Placed (base size : Nat) : Prop := base % size = 0 ∧ base + size ≤ 0x1000000

/-- The layout conditions (R24), on the base values in shadow words 4 to 8 and the Control Page at its strap position. -/
def LayoutHolds (s : State) : Prop :=
  let a := baseOf s.ctu.shadow.w4
  let b := baseOf s.ctu.shadow.w5
  let o := baseOf s.ctu.shadow.w6
  let p := baseOf s.ctu.shadow.w7
  let d := baseOf s.ctu.shadow.w8
  let c := 0xFFF000 + 0x100 * s.mps.straps.toNat
  (Placed a 0x8000 ∧ Placed b 0x8000 ∧ Placed o 0x1000 ∧ Placed p 0x1000 ∧ Placed d 0x200)
    ∧ (Disjoint2 a 0x8000 b 0x8000 ∧ Disjoint2 a 0x8000 o 0x1000 ∧ Disjoint2 a 0x8000 p 0x1000
      ∧ Disjoint2 a 0x8000 d 0x200)
    ∧ (Disjoint2 b 0x8000 o 0x1000 ∧ Disjoint2 b 0x8000 p 0x1000 ∧ Disjoint2 b 0x8000 d 0x200)
    ∧ (Disjoint2 o 0x1000 p 0x1000 ∧ Disjoint2 o 0x1000 d 0x200 ∧ Disjoint2 p 0x1000 d 0x200)
    ∧ (Disjoint2 c 0x100 a 0x8000 ∧ Disjoint2 c 0x100 b 0x8000 ∧ Disjoint2 c 0x100 o 0x1000
      ∧ Disjoint2 c 0x100 p 0x1000 ∧ Disjoint2 c 0x100 d 0x200)

/-- The conditions on the settings (R25), with the ranges of R18 that a field can miss, and on each in-service entry of the
directory copy. -/
def SettingsHold (s : State) : Prop :=
  s.ctu.clockGood = true
    ∧ (5 ≤ s.minlen ∧ s.minlen ≤ 60 ∧ 1 ≤ s.grace ∧ s.grace ≤ 30 ∧ s.early ≤ 15 ∧ s.vacant ≤ 60 ∧ s.warn ≤ 15
      ∧ 5 ≤ s.extstep ∧ s.extstep ≤ 60)
    ∧ (1 ≤ s.kwait ∧ 1 ≤ s.stationCount ∧ s.stationCount ≤ 8)
    ∧ (1 ≤ s.fast ∧ 8 ≤ s.slow ∧ s.slow ≤ 120 ∧ 1 ≤ s.stay ∧ 1 ≤ s.replyWait)
    ∧ (3 ≤ s.noise ∧ 1 ≤ s.negnoise ∧ 1 ≤ s.lowreset)
    ∧ (s.hyst ≤ 254 ∧ 1 ≤ s.debounce ∧ (s.average = 1 ∨ s.average = 2 ∨ s.average = 4 ∨ s.average = 8))
    ∧ ∀ r, s.inService r = true →
        (1 ≤ s.capacity r ∧ s.capacity r ≤ 200)
          ∧ (s.panelAddress r ≠ 0 →
              s.panelLoop r ≤ 3 ∧ s.panelAddress r ≤ 16 ∧ 3 ≤ s.threshold r ∧ s.hyst < s.threshold r
                ∧ ∀ q, q ≠ r → s.inService q = true →
                    ¬ (s.panelLoop q = s.panelLoop r ∧ s.panelAddress q = s.panelAddress r))

/-- The row of the table for a whole-word write to COMMAND of a code, with the bits above it. -/
def commandRow (code : BitVec 4) (rest : BitVec 28) : Instr :=
  match code.toNat with
  | 1 => .startClean rest
  | 2 => .startKeep rest
  | 3 => .restart rest
  | 4 => .kitchenClear rest
  | 5 => .rebase rest
  | 6 => .swap rest
  | _ => .commandUnknown code rest

/-- No draft notice, return notice or PRESENT report waits to be applied (R45, R140, R141). -/
def NoNoticeWaits (s : State) : Prop := s.adu.drafts = [] ∧ s.atu.returns = [] ∧ s.atu.reports = []

/-- Nothing waits for the end of a claim: no notice and no minute expiry is held back (R45, R111, R140 to R142). -/
def NothingHeldBack (s : State) : Prop := NoNoticeWaits s ∧ s.plu.expiryDue = false ∧ s.atu.expiries = []

/-- No claim is in progress, neither the Bank Scanner nor the walk has a claim standing at the arbiter, and no notice waits
to be applied before the next claim (R45, R59, R140, R141). -/
def ArbiterFree (s : State) : Prop :=
  s.adu.claim = none ∧ s.bsc.presented = false ∧ s.atu.minuteClaim = none ∧ NoNoticeWaits s

/-- No pass holds back the claims of a room of a book (R50, R99): no pass is under way over the book, or its cursor has passed
the room. A CLEAN or KEEP pass covers Book A and then Book B, a TURNOVER pass the cursor's book. -/
def CursorHasPassed (s : State) (b : Book) (r : Room) : Prop :=
  match s.bsc.pass with
  | .none => True
  | .turnover => b ≠ s.bsc.cursor.book ∨ r < s.bsc.cursor.room
  | .clean | .keep => (b = s.bsc.cursor.book ∧ r < s.bsc.cursor.room) ∨ (b = .bookA ∧ s.bsc.cursor.book = .bookB)

/-- A panel claim for `ev` may be taken (R59): the arbiter is free, and no host request could be taken. -/
def PanelMayBeTaken (s : State) (ev : PanelEvent) : Prop :=
  ArbiterFree s ∧ s.atu.panelEvent = some ev ∧ s.atu.panelTaken = false
    ∧ ∀ r, s.adu.request = some r → ¬ CursorHasPassed s r.at_.book r.at_.room

/-- Two intervals share a minute (R57). -/
def Overlaps (start stop start' stop' : Nat) : Prop := start < stop' ∧ start' < stop

/-- The admission of a request claim, as taken (R49, R60). -/
def admissionOf (s : State) (k : AdmissionKind) (r : RequestClaim) : Admission :=
  { kind := k, book := r.at_.book, room := r.at_.room, slot := some r.at_.slot
    taken :=
      { role := if r.at_.book = s.clock.today then .today else .next, now := s.clock.minute, day := s.clock.day }
    quietTrim := r.word.getLsbD 8, quietShort := r.word.getLsbD 9, minutes := 0 }

/-- What taking a request claim leaves of the scanner: its next visit comes to stand at the arbiter. -/
def RequestTaken (s t : State) : Prop :=
  t.bsc = { s.bsc with presented := decide (s.bsc.pass ≠ .none) }

/-! ### What the Catering Queue Unit does with an order -/

/-- An order comes before another in the Catering Queue: by due minute, and among equal due minutes by order index (R159). -/
def DueBefore (due : OrderIx → Nat) (p o : OrderIx) : Prop := due p < due o ∨ (due p = due o ∧ p < o)

/-- An order stands in a list in the place its due minute and index give: the ones before it come before it, the one after it
comes after it, and a list that was in order stays so (R159). -/
def PlacedByDue (due : OrderIx → Nat) (o : OrderIx) (l others : List OrderIx) : Prop :=
  (∃ before after, l = before ++ o :: after ∧ before ++ after = others
    ∧ (∀ p ∈ before, DueBefore due p o) ∧ ∀ p, after.head? = some p → DueBefore due o p)
    ∧ (others.Pairwise (DueBefore due) → l.Pairwise (DueBefore due))

/-- The due minute of an order's entry; 0 for an order that is NOT-HELD. -/
def dueMinute (s : State) (o : OrderIx) : Nat :=
  match s.orderEntry o with
  | some e => e.due
  | none => 0

/-- The write of word O(4 + n) of order `o` stands at the memory-side arbiter, with its contents taken from the entry (R156). -/
def OrderWordStands (o : OrderIx) (n : Nat) (t : State) : Prop :=
  ∃ e, t.orderEntry o = some e ∧ AccessStands ⟨.cqu, true, t.orderAddr o (4 + n), orderWord e n, 15#4⟩ t

/-- Order `o` stands DUE in the Catering Queue with the entry `d` otherwise, or an idle link has taken it from there as its next
ticket (R159, R167). -/
def StandsDue (t : State) (o : OrderIx) (d : OrderEntry) : Prop :=
  (t.orderEntry o = some { d with state := .due } ∧ o ∈ t.cqu.queue)
    ∨ (t.orderEntry o = some { d with state := .sending } ∧ t.klc.context = some ⟨o, .ticket, d.accepted + 1, .none, 0⟩)

/-- Order `o` has joined the Catering Queue with the entry `d`: DUE when its book is TODAY and its due minute is at or before
now, ATTACHED otherwise (R158). -/
def Requeued (s t : State) (o : OrderIx) (d : OrderEntry) : Prop :=
  (d.at_.book = s.clock.today ∧ d.due ≤ s.clock.minute → StandsDue t o d)
    ∧ (¬ (d.at_.book = s.clock.today ∧ d.due ≤ s.clock.minute) →
        t.orderEntry o = some { d with state := .attached } ∧ o ∈ t.cqu.queue)

/-- Order `o` is RECALLING with the entry `d` otherwise: it stands on the Recall List, or an idle link has taken it from there
(R164, R167). -/
def Recalled (t : State) (o : OrderIx) (d : OrderEntry) (resend : Bool) : Prop :=
  t.orderEntry o = some { d with state := .recalling, resend := resend }
    ∧ (o ∈ t.cqu.recalls ∨ t.klc.context = some ⟨o, .recall, 0, .none, 0⟩)

/-- A disposition mark has taken effect on order `o`, whose entry is `d` after the counting of the answer (the table of
R163). -/
def Disposed (s t : State) (o : OrderIx) (m : Disposition) (d : OrderEntry) : Prop :=
  match m with
  | .none => True
  | .move => if d.accepted = 0 then Requeued s t o d else Recalled t o d true
  | .short => if d.accepted = 0 then t.orderEntry o = some { d with state := .detached } else Recalled t o d false
  | .release => if d.accepted = 0 then t.orderEntry o = some { d with state := .cancelled } else Recalled t o d false
  | .ended =>
    if d.accepted ≠ 0 ∧ d.accepted = d.total then t.orderEntry o = some { d with state := .accepted }
    else
      t.orderEntry o = some { d with state := .failed, failure := .stale }
        ∧ (d.state ≠ .failed → t.ctu.kitchenCause = true)

/-- The in-flight context carries the mark `m`, unless a RELEASE or an END stood in it that `m` does not replace (R163). -/
def ContextMarked (s t : State) (o : OrderIx) (m : Disposition) : Prop :=
  ∀ c, s.klc.context = some c → c.order = o →
    t.klc.context =
      some
        { c with
          mark :=
            if (c.mark = .release ∨ c.mark = .ended) ∧ (m = .move ∨ m = .short) then c.mark else m }

/-- A notice of the Admission Unit has been taken by the Catering Queue Unit (R158, and the tables of R160, R161 and R162). -/
def NoticeTaken (s t : State) (n : Notice) : Prop :=
  match n with
  | .attach o role at_ start due =>
    Requeued s t o
      { state := .attached, resend := false, at_ := at_, role := role, start := start, lead := start - due, due := due,
        accepted := 0, total := 0, verdict := .none, retries := 0, failure := .none }
  | .move o start due =>
    ∀ old, s.orderEntry o = some old →
      let d := { old with start := start, due := due, lead := start - due }
      (old.state = .attached ∨ old.state = .due → Requeued s t o d)
        ∧ (old.state = .sending → t.orderEntry o = some d ∧ ContextMarked s t o .move)
        ∧ (old.state = .accepted → Recalled t o d true)
        ∧ (old.state ∉ [OrderState.attached, .due, .sending, .accepted] → t.orderEntry o = some d)
  | .shortDetach o =>
    ∀ d, s.orderEntry o = some d →
      (d.state = .attached ∨ d.state = .due → t.orderEntry o = some { d with state := .detached } ∧ o ∉ t.cqu.queue)
        ∧ (d.state = .sending → t.orderEntry o = some d ∧ ContextMarked s t o .short)
        ∧ (d.state = .accepted → Recalled t o d false)
        ∧ (d.state = .recalling → t.orderEntry o = some { d with resend := false })
        ∧ (d.state ∉ [OrderState.attached, .due, .sending, .accepted, .recalling] → t.orderEntry o = some d)
  | .death o k =>
    let ends := ∃ cause, k = .ended cause
    ∀ d, s.orderEntry o = some d →
      (d.state = .attached ∨ d.state = .due → t.orderEntry o = some { d with state := .cancelled } ∧ o ∉ t.cqu.queue)
        ∧ (d.state = .sending →
            t.orderEntry o = some d ∧ (ends → ContextMarked s t o .ended) ∧ (¬ ends → ContextMarked s t o .release))
        ∧ (d.state = .accepted → (ends → t.orderEntry o = some d) ∧ (¬ ends → Recalled t o d false))
        ∧ (d.state = .recalling → t.orderEntry o = some { d with resend := false })
        ∧ (d.state ∉ [OrderState.attached, .due, .sending, .accepted, .recalling] → t.orderEntry o = some d)

/-- The Catering Queue Unit has answered the hand-over of an order that was NOT-HELD, with the state `st` that O4 shows (none for
a code that names none), its resend mark, and `d` the entry that the hand-over gives but for its state (the table of R166). That the table governs a
REBUILT order of the NEXT book read SENDING, against R159, is the model's choice (assumption log entry 62). -/
def HandedOver (s t : State) (o : OrderIx) (fate : Fate) (st : Option OrderState) (resend : Bool) (d : OrderEntry) : Prop :=
  let full := d.total ≠ 0 ∧ d.accepted = d.total
  let becomes : OrderState → Prop := fun x => t.orderEntry o = some { d with state := x }
  (st = some .attached ∨ st = some .due →
      (fate = .rebuilt → Requeued s t o d) ∧ (fate ≠ .rebuilt → becomes .cancelled))
    ∧ (st = some .sending →
        (fate = .rebuilt → (full → becomes .accepted) ∧ (¬ full → StandsDue t o d))
          ∧ (fate = .ended →
              (full → becomes .accepted)
                ∧ (¬ full → t.orderEntry o = some { d with state := .failed, failure := .stale }))
          ∧ (fate = .release →
              (0 < d.accepted → Recalled t o d false) ∧ (d.accepted = 0 → becomes .cancelled)))
    ∧ (st = some .accepted → (fate ≠ .release → becomes .accepted) ∧ (fate = .release → Recalled t o d false))
    ∧ (st = some .recalling →
        (fate = .rebuilt → Recalled t o d resend) ∧ (fate ≠ .rebuilt → Recalled t o d false))
    ∧ ((st = none ∨ st ∈ [some OrderState.unused, some .detached, some .cancelled, some .recalled, some .failed]) →
        t.orderEntry o = none)

/-- The mark of order `o` in the locked-order set follows the state of its entry: set for ATTACHED, DUE, SENDING, ACCEPTED and
RECALLING, cleared for every other state; while the order is NOT-HELD it stays as `s` has it. No other order's entry or mark has
changed since `s` (R11, R156, R157). -/
def LockNoticeGiven (s t : State) (o : OrderIx) : Prop :=
  t.locked o =
      (match t.orderEntry o with
        | some e => decide (e.state ∈ [OrderState.attached, .due, .sending, .accepted, .recalling])
        | none => s.locked o)
    ∧ ∀ p, p ≠ o → t.locked p = s.locked p ∧ t.orderEntry p = s.orderEntry p

/-! ### Pages and chimes of the panels -/

/-- A change of the page of room `r`, and with `chime` a chime request for it, has come while the exchanges in progress went on:
the exchange with the room's panel has its page renewal mark set where its poll carried the page, and its chime renewal mark set
by a chime request; nothing else of a loop has changed (R120, R121). -/
def MarksRenewed (s t : State) (r : Room) (chime : Bool) : Prop :=
  ∀ l,
    t.loop l =
      { s.loop l with
        exchange :=
          (s.loop l).exchange.map fun x =>
            if l = s.loopOf r ∧ x.listed.room = r then
              { x with pageRenewal := x.pageRenewal || x.page, chimeRenewal := x.chimeRenewal || chime }
            else x }

/-! ### What holds in every state the block can be in -/

/-- The Campus Clock is in range (section 6.1): second 0..59, minute 0..1439, day 0..65535. -/
def ClockInRange (c : Clock) : Prop := c.second ≤ 59 ∧ c.minute ≤ 1439 ∧ c.day ≤ 65535

/-- Phase, running START, pass kind and windows agree (R1, R20, R21): the windows are OFF and no pass runs in SETUP; a CLEAN or
KEEP pass with its START recorded runs throughout WALKING; in RUNNING there is a TURNOVER pass or none. -/
def PhaseAgrees (s : State) : Prop :=
  match s.ctu.phase with
  | .setup => s.mps.windows = none ∧ s.ctu.runningStart = none ∧ s.bsc.pass = .none
  | .walking =>
    s.mps.windows.isSome ∧ s.ctu.runningStart.isSome ∧ (s.bsc.pass = .clean ∨ s.bsc.pass = .keep)
  | .running => s.mps.windows.isSome ∧ s.ctu.runningStart = none ∧ (s.bsc.pass = .none ∨ s.bsc.pass = .turnover)

/-- The Interval Pool and the free list agree (R54, R55): the pool's table is canonical, no entry stands twice on the free
list, and each of the entries 0 to 1023, and no other, is either free, on the list, or owned. -/
def PoolAgrees (a : Adu) : Prop :=
  Table.wf none a.pool = true ∧ a.freeList.Nodup
    ∧ (∀ i, i ∈ a.freeList ↔ i < 1024 ∧ Table.get none a.pool i = none)
    ∧ (∀ i, 1024 ≤ i → Table.get none a.pool i = none)

/-- An index stands in a list in the place its start gives: the ones before it start no later, the one after it later (R56). -/
def PlacedByStart (startOf : Nat → Nat) (i : Nat) (l : List Nat) (others : List Nat) : Prop :=
  ∃ before after, l = before ++ i :: after ∧ before ++ after = others
    ∧ (∀ j ∈ before, startOf j ≤ startOf i) ∧ ∀ j, after.head? = some j → startOf i < startOf j

/-- Pool entries, Slot Map, Room Schedules and Order Binding Table name each other (R54, R56, R58): a slot is LIVE with an index
exactly where the entry of that index is the slot's; a Room Schedule lists exactly the entries of its room and book, each once,
in ascending order of start, and no two of them share a minute; an order is bound to an index exactly where that entry names
it, and is then HELD by the Catering Queue Unit. -/
def BookingsAgree (s : State) : Prop :=
  (∀ r i, s.slotState r = .live i ↔ ∃ e, s.entry i = some e ∧ e.at_ = r)
    ∧ (∀ b r i, i ∈ s.schedule b r ↔ ∃ e, s.entry i = some e ∧ e.at_.book = b ∧ e.at_.room = r)
    ∧ (∀ b r, (s.schedule b r).Nodup ∧ (s.schedule b r).Pairwise fun i j => s.startOf i ≤ s.startOf j)
    ∧ (∀ i j e d, s.entry i = some e → s.entry j = some d → i ≠ j → e.at_.book = d.at_.book → e.at_.room = d.at_.room →
        ¬ Overlaps e.start e.stop d.start d.stop)
    ∧ (∀ i e, s.entry i = some e → e.start < e.stop)
    ∧ (∀ o i, s.binding o = some i ↔ ∃ e, s.entry i = some e ∧ e.order = some o)
    ∧ ∀ o, s.binding o ≠ none → s.orderEntry o ≠ none

/-- An admission that is judged and not yet committed keeps to the law of the bookings: the entry it will leave stands in its
slot, overlaps no other booking of the room, and names an order that is unbound, with an attach notice for it, or bound to the
slot's own booking (R65, R67, R73). -/
def OutcomeAgrees (s : State) (a : Admission) (o : Judgement) : Prop :=
  match o with
  | .refused _ | .cancelled _ => True
  | .admitted e ns =>
    a.at? = some e.at_ ∧ e.start < e.stop
      ∧ (∀ i d, s.entry i = some d → d.at_.book = a.book → d.at_.room = a.room → s.liveIndex e.at_ ≠ some i →
          ¬ Overlaps e.start e.stop d.start d.stop)
      ∧ ∀ o, e.order = some o →
          (s.binding o = none ∧ ∃ role at_ start due, Notice.attach o role at_ start due ∈ ns)
            ∨ ∃ i, s.binding o = some i ∧ s.liveIndex e.at_ = some i

/-- The claim in progress agrees with the bookings and with the pass (R59, R60, R101); only NEW and AMEND read a proposal
(R63). -/
def ClaimAgrees (s : State) : Prop :=
  match s.adu.claim with
  | some (.admission a (.proposal _)) => a.kind = .new ∨ a.kind = .amend
  | some (.admission a (.writing j _ _ _)) | some (.admission a (.readBack j _)) => OutcomeAgrees s a j.outcome
  | some (.keepReading r _ _) => s.bsc.pass = .keep ∧ r = s.bsc.cursor
  | _ => True

/-- The cursor of a CLEAN or KEEP pass has left this slot (R98). -/
def SlotBehind (s : State) (r : SlotRef) : Prop :=
  (r.book = s.bsc.cursor.book ∧ r.inBook < s.bsc.cursor.inBook) ∨ (r.book = .bookA ∧ s.bsc.cursor.book = .bookB)

/-- What a CLEAN or KEEP pass has not visited is not LIVE (R99, R100, R101): a LIVE slot lies behind the cursor, or is the
cursor's, rebuilt by the visit that is being written; an admission in progress and the panel event held concern rooms that the
cursor has left. -/
def PassAgrees (s : State) : Prop :=
  s.bsc.pass = .clean ∨ s.bsc.pass = .keep →
    (∀ r i, s.slotState r = .live i →
      SlotBehind s r ∨ (r = s.bsc.cursor ∧ ∃ q rebuilt todo, s.adu.claim = some (.keepWriting q rebuilt todo)))
    ∧ (∀ a stage, s.adu.claim = some (.admission a stage) → CursorHasPassed s a.book a.room)
    ∧ ∀ ev, s.atu.panelEvent = some ev → CursorHasPassed s s.clock.today ev.room

/-- In SETUP there is no booking and no claim, no panel event, and no exchange or round on any loop (R62, R118, R123). -/
def SetupAgrees (s : State) : Prop :=
  s.ctu.phase = .setup →
    (∀ r i, s.slotState r ≠ .live i)
    ∧ (s.adu.claim = none ∧ s.adu.request = none ∧ s.atu.minuteClaim = none ∧ s.atu.panelEvent = none ∧ s.plu.events = [])
    ∧ ∀ l, (s.loop l).inRound = false ∧ (s.loop l).exchange = none

/-- A BOOKNOW on its way from a panel to its claim carries an argument 1 to 4 (R114). -/
def PanelEventsAgree (s : State) : Prop :=
  ∀ ev, ev ∈ s.plu.events ∨ s.atu.panelEvent = some ev → ev.button = .booknow → 1 ≤ ev.argument ∧ ev.argument ≤ 4

/-- The booking side of the part agrees: bookings, claim in progress, pass, SETUP, and panel events. -/
def BookingSideAgrees (s : State) : Prop :=
  BookingsAgree s ∧ ClaimAgrees s ∧ PassAgrees s ∧ SetupAgrees s ∧ PanelEventsAgree s

/-- The queues keep their bounds and an order stands in one place (R118, R157, R159, R164): at most 24 panel events wait, the
Catering Queue and the Recall List hold no order twice, and no order stands in two of them and the in-flight context. -/
def QueuesAgree (s : State) : Prop :=
  s.plu.events.length ≤ 24 ∧ s.cqu.queue.Nodup ∧ s.cqu.recalls.Nodup
    ∧ (∀ o ∈ s.cqu.queue, o ∉ s.cqu.recalls ∧ s.klc.context.map (·.order) ≠ some o)
    ∧ ∀ o ∈ s.cqu.recalls, s.klc.context.map (·.order) ≠ some o

/-- Outside RUNNING no walk is under way, no minute-driven claim stands at the arbiter, and no minute expiry waits to be worked
(R96, R138, R142, R143). -/
def WalkRests (s : State) : Prop :=
  s.ctu.phase ≠ .running → s.atu.walk = none ∧ s.atu.minuteClaim = none ∧ s.atu.expiries = []

/-- Every table of the state is in its canonical form, so that equal contents are equal data. -/
def TablesCanonical (s : State) : Prop :=
  Table.wf false s.mps.locked = true
    ∧ Table.wf 0 s.ctu.directory = true
    ∧ (Table.wf none s.adu.pool = true ∧ Table.wf [] s.adu.schedules = true ∧ Table.wf .free s.adu.slotMap = true
        ∧ Table.wf none s.adu.bindings = true ∧ Table.wf false s.adu.drafts = true)
    ∧ (Table.wf {} s.plu.loops = true ∧ Table.wf {} s.plu.panels = true)
    ∧ Table.wf {} s.ocf.filters = true
    ∧ (Table.wf {} s.atu.rooms = true ∧ Table.wf [] s.atu.reports = true ∧ Table.wf [] s.atu.returns = true)
    ∧ Table.wf none s.cqu.entries = true

/-- The scan position tables are canonical, and both lines of every page have their 16 cells (R108, R119, R153). -/
def PanelsAgree (s : State) : Prop :=
  (∀ l, Table.wf none (s.loop l).positions = true)
    ∧ ∀ r, (s.panel r).line1.length = 16 ∧ (s.roomState r).line.length = 16

/-- Outside SETUP the layout and the settings are those that START found valid, and the windows stand at the bases in the
shadow (R1, R18, R24, R25). -/
def ValidatedOutsideSetup (s : State) : Prop :=
  s.ctu.phase ≠ .setup → LayoutHolds s ∧ SettingsHold s ∧ s.mps.windows = some s.ctu.shadow.windows

end Sys2Proof.Machine
end

