-- ==== Sys2Proof/Certificates/Slice0/Obligations.lean ====
section
/-! DEFINITION. The statements about the model: what each command of the opcode table does to the state, and what every step
keeps. `Runs c s p` says that exec answers a next state of which `p` holds; `ChangesOnly` is the frame. -/

open Sys2Proof Sys2Proof.Machine

/-! ### Steps, resets and the clock -/

/-- A step takes the command at the front of the queue and is exec of it on the state with the queue's rest. On an empty
queue a step idles, which is the model's own choice (log entry 3). -/
def Obligations.StepRunsTheFrontCommand : Prop :=
  (∀ (c : Instr) (rest : List Instr) (s : State), s.pending = c :: rest → step s = exec c { s with pending := rest })
  ∧ (∀ s : State, s.pending = [] → step s = .next s)

/-- What the spec gives for the state after hardware RESET: the Control Unit, the windows, the clock, the lists of the
Admission Unit, the panels, the filters and the kitchen link. The straps, which a board fixes, are not part of it (log
entry 2). -/
def Obligations.ResetValues : Prop :=
  let s := State.reset
  (s.ctu.phase = .setup ∧ s.ctu.runningStart = none ∧ s.ctu.clockGood = true ∧ s.ctu.trapSlot = none)
    ∧ (∀ n, n ∈ [2, 3, 4, 5, 6, 7, 8, 9, 16] → s.ctu.shadow.value n = 0)
    ∧ (s.ctu.shadow.w24 = 0x1EA7AA8F ∧ s.ctu.shadow.w25 = 0x00008323 ∧ s.ctu.shadow.w26 = 0x0020F102
      ∧ s.ctu.shadow.w27 = 0x14146428 ∧ s.ctu.shadow.w28 = 0x0021030A)
    ∧ (s.controlRead 0 = 0 ∧ s.controlRead 1 = 0x80000000 ∧ s.controlRead 10 = 0 ∧ s.controlRead 11 = 0
      ∧ s.controlRead 17 = 0 ∧ s.controlRead 18 = 0 ∧ s.controlRead 19 = 0 ∧ s.controlRead 20 = 1024
      ∧ s.controlRead 21 = 0 ∧ s.controlRead 22 = 0x0000FF00)
    ∧ s.ctu.intLine = false
    ∧ (s.mps.controlOn = true ∧ s.mps.windows = none ∧ s.mps.held = none ∧ ∀ o, s.locked o = false)
    ∧ (s.clock.second = 0 ∧ s.clock.minute = 0 ∧ s.clock.day = 0 ∧ s.clock.today = .bookA)
    ∧ (s.clock.deferredMinute = false ∧ s.clock.deferredDayEnd = false ∧ s.clock.heldDayEnd = false)
    ∧ (s.bsc.pass = .none ∧ s.bsc.cursor = ⟨.bookA, 0, 0⟩)
    ∧ (s.adu.freeList = List.range 1024 ∧ (∀ r, s.slotState r = .free) ∧ (∀ b r, s.schedule b r = [])
      ∧ ∀ o, s.binding o = none)
    ∧ (∀ r w, s.dirWord r w = 0)
    ∧ (∀ r, (s.panel r).online = false ∧ (s.panel r).misses = 0 ∧ (s.panel r).lastTag = none ∧ (s.panel r).chime = .none)
    ∧ (∀ r, (s.filter r).initDone = false ∧ (s.filter r).present = false ∧ (s.filter r).lastPresent = none)
    ∧ ((∀ o, s.orderEntry o = none) ∧ s.cqu.queue = [] ∧ s.cqu.recalls = [] ∧ s.plu.events = [])
    ∧ (s.klc.link = .idle ∧ s.klc.context = none ∧ s.klc.halt = .none)

/-- Hardware RESET leaves every block at its reset state with the straps sampled and the Control Page OFF until RESET
ends, memory as it stands, and of the kitchen link only a frame on the wire. The model's own parts of this: a write in
progress at the RESET is not performed (log entry 16), every window is OFF while RESET is asserted (log entry 15), and
the host-side port's result, the Ticket Buffer and the gap timer take the values of log entry 30, the round timers that
of log entry 38, and no draft mark is pending (log entry 47). When RESET ends the Control Page is ON; a machine whose
kitchen link had no frame on the wire then stands as State.reset does, with its straps and its memory. -/
def Obligations.HardwareResetAndItsEnd : Prop :=
  (∀ (straps : BitVec 3) (s : State),
     exec (.hardwareReset straps) s =
       .next
         { mps := { straps := straps, controlOn := false }
           klc :=
             if s.klc.stage = .onWire then { buffer := s.klc.buffer, link := .sending, stage := .onWire, finishing := true }
             else {}
           mem := s.mem
           resetAsserted := true
           freeCount := s.freeCount
           pending := s.pending })
  ∧ (∀ (straps : BitVec 3) (s : State),
       (s.resetAsserted = true →
         Runs .endOfReset s fun t =>
           ChangesOnly [.regionMap, .resetPin] s t ∧ t.resetAsserted = false ∧ t.mps.controlOn = true
             ∧ t.mps.straps = s.mps.straps ∧ t.mps.windows = s.mps.windows)
       ∧ (s.klc.stage ≠ .onWire →
           Runs (.hardwareReset straps) s fun u =>
             exec .endOfReset u =
               .next
                 { State.reset with
                   mps := { State.reset.mps with straps := straps }
                   mem := s.mem
                   freeCount := s.freeCount
                   pending := s.pending }))

/-- A pulse advances the second below 59, and is not counted while RESET is asserted. A pulse at second 59 outside
RUNNING carries into the minute, and past minute 1439 into the day; in SETUP the expiries reach no block, and in WALKING
they set the deferred marks alone. TICK, MINUTE_EXPIRY and DAY_END_EXPIRY are one pulse, named by what it raises (log
entry 10). -/
def Obligations.PulseAdvancesTheClock : Prop :=
  (∀ s : State,
     (s.resetAsserted = false → s.clock.second < 59 →
       Runs .tick s fun t => ChangesOnly [.clock] s t ∧ t.clock = { s.clock with second := s.clock.second + 1 })
     ∧ (s.resetAsserted = true → Runs .tick s (ChangesOnly [] s)))
  ∧ (∀ s : State, s.resetAsserted = false → s.clock.second = 59 → s.ctu.phase ≠ .running →
       (s.clock.minute < 1439 → ∀ c ∈ [Instr.tick, .minuteExpiry],
         Runs c s fun t =>
           ChangesOnly [.clock] s t
             ∧ t.clock =
                 { s.clock with
                   second := 0
                   minute := s.clock.minute + 1
                   deferredMinute := s.clock.deferredMinute || decide (s.ctu.phase = .walking) })
       ∧ (s.clock.minute = 1439 → ∀ c ∈ [Instr.tick, .dayEndExpiry],
         Runs c s fun t =>
           ChangesOnly [.clock] s t
             ∧ t.clock =
                 { s.clock with
                   second := 0
                   minute := 0
                   day := (s.clock.day + 1) % 65536
                   deferredMinute := s.clock.deferredMinute || decide (s.ctu.phase = .walking)
                   deferredDayEnd := s.clock.deferredDayEnd || decide (s.ctu.phase = .walking) }))

/-- A minute expiry in RUNNING. During a claim the Catering Queue Unit works it at once, and the Attendance Unit and
the Panel Loop Unit keep it until the claim has ended (log entry 11). Between claims the notices that came before are
applied first (log entry 13); then every refusal mark is cleared, the entries change in the presence-seen mark alone,
and the walk presents a claim for a booking to which a row applies, or finds no booking of the TODAY bank to which one
applies. The sweep sets the presence-seen mark of each BOOKED booking of the TODAY bank in whose window the room's
presence note falls; a room with a panel that has an IN-USE booking ending in WARN minutes has a WARN chime requested;
every status line is recomposed, and the page of one that changed is dirty; the exchange in progress with a panel that
is warned has its chime renewal mark set, and with one that is warned or whose line changed its page renewal mark,
where its poll carried the page; every loop that is not silent has its window-held indication recomputed, and a held
one makes it FAST with its counter at STAY. An order of the TODAY book that stands ATTACHED in the Catering Queue
becomes DUE at the first expiry that reaches its due minute; the link may take it at once. TICK and MINUTE_EXPIRY at
second 59 are one pulse, named by what it raises (log entry 10). -/
def Obligations.MinuteExpiryInRunning : Prop :=
  (∀ s : State, s.resetAsserted = false → s.clock.second = 59 → s.clock.minute < 1439 → s.ctu.phase = .running →
     s.adu.claim.isSome →
     ∀ c ∈ [Instr.tick, .minuteExpiry],
       Runs c s fun t =>
         ChangesOnly [.clock, .plu, .atu, .catering] s t
           ∧ t.clock = { s.clock with second := 0, minute := s.clock.minute + 1 }
           ∧ t.plu = { s.plu with expiryDue := true }
           ∧ t.atu = { s.atu with expiries := s.atu.expiries ++ [s.clock.minute + 1] })
  ∧ (∀ s : State, s.resetAsserted = false → s.clock.second = 59 → s.clock.minute < 1439 → s.ctu.phase = .running →
       s.adu.claim = none → s.atu.minuteClaim = none → s.atu.expiries = [] → NoNoticeWaits s → TablesCanonical s →
       ∀ c ∈ [Instr.tick, .minuteExpiry],
         Runs c s fun t =>
           ChangesOnly [.clock, .adu, .plu, .atu, .catering] s t
             ∧ t.clock = { s.clock with second := 0, minute := s.clock.minute + 1 }
             ∧ t.adu = { s.adu with pool := t.adu.pool }
             ∧ (∀ i e, s.entry i = some e →
                 ∃ seen, t.entry i = some { e with presenceSeen := seen } ∧ (e.presenceSeen = true → seen = true))
             ∧ (∀ r, (t.roomState r).refusal = false)
             ∧ (∀ m, t.atu.minuteClaim = some m →
                 ∃ r e, (m.entry, e) ∈ t.bookingsToday r ∧ m.at_ = e.at_
                   ∧ t.walkRow r e t.clock.day t.clock.minute = some m.row)
             ∧ (t.atu.minuteClaim = none →
                 ∀ r b, b ∈ t.bookingsToday r → t.walkRow r b.2 t.clock.day t.clock.minute = none))
  ∧ (∀ s : State, s.resetAsserted = false → s.clock.second = 59 → s.clock.minute < 1439 → s.ctu.phase = .running →
       s.adu.claim = none → TablesCanonical s → ∀ c ∈ [Instr.tick, .minuteExpiry], exec c s = exec c s.applyNotices)
  ∧ (∀ s : State, s.resetAsserted = false → s.clock.second = 59 → s.clock.minute < 1439 → s.ctu.phase = .running →
       s.adu.claim = none → s.atu.minuteClaim = none → s.atu.expiries = [] → NoNoticeWaits s → TablesCanonical s →
       BookingsAgree s →
       let now := s.clock.minute + 1
       let seen : Room → PoolEntry → Prop := fun r e =>
         ∃ n, (s.roomState r).note = some n ∧ n.day = s.clock.day ∧ e.start - s.early ≤ n.minute ∧ n.minute < e.stop
       let warned : Room → Prop := fun r =>
         0 < s.warn ∧ s.hasPanel r = true ∧ ∃ b ∈ s.bookingsToday r, b.2.state = .inUse ∧ b.2.stop = now + s.warn
       let held : LoopNo → Prop := fun l =>
         ∃ p x b, p < 16 ∧ Table.get none (s.loop l).positions p = some x ∧ b ∈ s.bookingsToday x.room
           ∧ b.2.state = .booked ∧ b.2.start - s.early ≤ now ∧ now < b.2.deadline
       ∀ c ∈ [Instr.tick, .minuteExpiry],
         Runs c s fun t =>
           (∀ r b, b ∈ s.bookingsToday r →
             (b.2.state = .booked → seen r b.2 → t.entry b.1 = some { b.2 with presenceSeen := true })
               ∧ (¬ (b.2.state = .booked ∧ seen r b.2) → t.entry b.1 = some b.2))
           ∧ (∀ i, (∀ r b, b ∈ s.bookingsToday r → b.1 ≠ i) → t.entry i = s.entry i)
           ∧ (∀ r, warned r → (t.panel r).chime = .warn ∧ (t.panel r).dirty = true)
           ∧ (∀ r, ¬ warned r → (t.panel r).chime = (s.panel r).chime)
           ∧ (∀ r, (t.roomState r).line = t.composeLine r ∧ (t.roomState r).note = (s.roomState r).note)
           ∧ (∀ r, s.hasPanel r = true → (t.roomState r).line ≠ (s.roomState r).line → (t.panel r).dirty = true)
           ∧ (∀ r, ¬ warned r → (t.roomState r).line = (s.roomState r).line → t.panel r = s.panel r)
           ∧ (∀ l x, (s.loop l).exchange = some x → s.hasPanel x.listed.room = true → s.loopOf x.listed.room = l →
               let r := x.listed.room
               (warned r →
                 (t.loop l).exchange = some { x with pageRenewal := x.pageRenewal || x.page, chimeRenewal := true })
               ∧ (¬ warned r → (t.roomState r).line ≠ (s.roomState r).line →
                   (t.loop l).exchange = some { x with pageRenewal := x.pageRenewal || x.page })
               ∧ (¬ warned r → (t.roomState r).line = (s.roomState r).line → (t.loop l).exchange = some x))
           ∧ (∀ l, (∃ p x, p < 16 ∧ Table.get none (s.loop l).positions p = some x) →
               ((t.loop l).windowHeld = true ↔ held l)
                 ∧ (held l → (t.loop l).mode = .fast ∧ (t.loop l).stay = s.stay
                     ∧ ((s.loop l).mode = .slow → (s.loop l).inRound = false → ∀ n, (s.loop l).timer = .running n →
                         (t.loop l).timer = .running s.fast))
                 ∧ (¬ held l →
                     (t.loop l).mode = (s.loop l).mode ∧ (t.loop l).stay = (s.loop l).stay
                       ∧ (t.loop l).timer = (s.loop l).timer)))
  ∧ (∀ (s : State) (o : OrderIx) (e : OrderEntry), s.resetAsserted = false → s.clock.second = 59 → s.clock.minute < 1439 →
       s.ctu.phase = .running → TablesCanonical s → o ∈ s.cqu.queue → s.orderEntry o = some e → e.state = .attached →
       e.at_.book = s.clock.today →
       Runs .minuteExpiry s fun t =>
         ∃ st, t.orderEntry o = some { e with state := st }
           ∧ (e.due ≤ s.clock.minute + 1 → st = .due ∨ st = .sending)
           ∧ (s.clock.minute + 1 < e.due → st = .attached))

/-- A day-end expiry in RUNNING swaps the selector, starts a TURNOVER pass over the book that has become NEXT, and
closes the finished day's catering; while a TURNOVER pass is under way it sets the held-day-end mark instead. The
notices that came between claims are applied before it acts (log entry 13). TICK and DAY_END_EXPIRY at second 59 are one
pulse, named by what it raises (log entry 10), and the opening claim of the pass stands at the arbiter at once, which is
the model's choice (log entry 12). -/
def Obligations.DayEndInRunning : Prop :=
  (∀ s : State, s.resetAsserted = false → s.clock.second = 59 → s.clock.minute = 1439 → s.ctu.phase = .running →
     TablesCanonical s → s.adu.claim.isSome ∨ NoNoticeWaits s →
     ∀ c ∈ [Instr.tick, .dayEndExpiry],
       (s.bsc.pass ≠ .turnover →
         Runs c s fun t =>
           ChangesOnly [.clock, .bsc, .adu, .plu, .atu, .catering] s t
             ∧ t.clock =
                 { s.clock with
                   second := 0, minute := 0, day := (s.clock.day + 1) % 65536, today := s.clock.today.other }
             ∧ t.bsc = { pass := .turnover, cursor := ⟨s.clock.today, 0, 0⟩, opening := true, presented := true }
             ∧ (t.adu.slotMap = s.adu.slotMap ∧ t.adu.schedules = s.adu.schedules ∧ t.adu.freeList = s.adu.freeList
               ∧ t.adu.bindings = s.adu.bindings)
             ∧ (∀ o e, s.orderEntry o = some e → e.at_.book = s.clock.today →
                 (o ∈ s.cqu.queue → t.orderEntry o = some { e with state := .cancelled } ∧ o ∉ t.cqu.queue)
                   ∧ (o ∉ s.cqu.queue → e.state = .accepted → t.orderEntry o = some { e with state := .detached })))
       ∧ (s.bsc.pass = .turnover →
         Runs c s fun t =>
           ChangesOnly [.clock, .adu, .plu, .atu, .catering] s t
             ∧ t.clock =
                 { s.clock with
                   second := 0, minute := 0, day := (s.clock.day + 1) % 65536, heldDayEnd := true }))
  ∧ (∀ s : State, s.resetAsserted = false → s.clock.second = 59 → s.clock.minute = 1439 → s.ctu.phase = .running →
       s.adu.claim = none → TablesCanonical s → ∀ c ∈ [Instr.tick, .dayEndExpiry], exec c s = exec c s.applyNotices)

/-! ### The memory path -/

/-- With the layout valid and the windows ON, the address of each word names that word. In SETUP the Room Directory
window captures at the base in shadow word 8 while that base is a multiple of 0x200 and its 512 bytes do not overlap the
Control Page; every other address outside the Control Page names nothing, and with the windows ON an address in no
window names nothing. -/
def Obligations.AddressesNameTheirWords : Prop :=
  (∀ s : State, s.mps.controlOn = true →
     (∀ n, n < 64 → s.target (addrAt (0xFFF000 + 0x100 * s.mps.straps.toNat) (4 * n)) = .control n)
     ∧ (LayoutHolds s → s.mps.windows = some s.ctu.shadow.windows →
         (∀ (room : Room) (slot : SlotNo) (n : Nat), n < 8 →
           s.target (addrAt (baseOf s.ctu.shadow.w4) ((room.val * 16 + slot.val) * 32 + 4 * n)) = .slot ⟨.bookA, room, slot⟩ n
           ∧ s.target (addrAt (baseOf s.ctu.shadow.w5) ((room.val * 16 + slot.val) * 32 + 4 * n))
               = .slot ⟨.bookB, room, slot⟩ n)
         ∧ (∀ (o : OrderIx) (n : Nat), n < 8 →
             s.target (addrAt (baseOf s.ctu.shadow.w6) (32 * o.val + 4 * n)) = .order o n)
         ∧ (∀ (room : Room) (n : Nat), n < 16 →
             s.target (addrAt (baseOf s.ctu.shadow.w7) (64 * room.val + 4 * n)) = .page room n)
         ∧ (∀ (room : Room) (n : Nat), n < 2 →
             s.target (addrAt (baseOf s.ctu.shadow.w8) (8 * room.val + 4 * n)) = .directory room n)
         ∧ ∀ a : Addr,
             ¬ InWindow (0xFFF000 + 0x100 * s.mps.straps.toNat) 0x100 a.toNat →
             ¬ InWindow (baseOf s.ctu.shadow.w4) 0x8000 a.toNat → ¬ InWindow (baseOf s.ctu.shadow.w5) 0x8000 a.toNat →
             ¬ InWindow (baseOf s.ctu.shadow.w6) 0x1000 a.toNat → ¬ InWindow (baseOf s.ctu.shadow.w7) 0x1000 a.toNat →
             ¬ InWindow (baseOf s.ctu.shadow.w8) 0x200 a.toNat → s.target a = .outside))
  ∧ (∀ s : State, s.mps.controlOn = true → s.mps.windows = none →
       let base := baseOf s.ctu.shadow.w8
       let page := 0xFFF000 + 0x100 * s.mps.straps.toNat
       let on := base % 0x200 = 0 ∧ Disjoint2 base 0x200 page 0x100
       (on → ∀ (room : Room) (n : Nat), n < 2 → s.target (addrAt base (8 * room.val + 4 * n)) = .capture room n)
       ∧ (∀ a : Addr, ¬ InWindow page 0x100 a.toNat → ¬ (on ∧ InWindow base 0x200 a.toNat) → s.target a = .outside))

/-- A passed access stands at the memory-side arbiter in the host class as the host gave it, with ready stretched, and
changes nothing else. A host access that arrives while the previous one is in progress is a fault, since the host bus
completes its accesses in order (the fault is the model's, log entry 6). -/
def Obligations.PassedAccessGoesToMemory : Prop :=
  (∀ (s : State) (a : HostAccess), HostFree s → Passes s a →
     Runs (.hostAccessPass a) s fun t => ChangesOnly [.hostPort] s t ∧ HostAccessStands a t ∧ t.mps.held = s.mps.held)
  ∧ (∀ (s : State) (a : HostAccess), s.mps.hostResult = .stalled → exec (.hostAccessPass a) s = .fault .hostBusBusy)

/-- A host write to a protected word completes without an error and without reaching memory, and sets PROTECT, whichever
host row carries it, by its address or by its word of the Control Page (log entry 7). Outside SETUP the rows for setup
words are withheld writes. -/
def Obligations.WithheldWriteSetsProtect : Prop :=
  (∀ (s : State) (data : Word) (lanes : Lanes), HostFree s →
     (∀ addr : Addr, Protected s addr →
       ∀ c ∈ [Instr.withheldWrite addr data lanes, .hostAccessPass ⟨true, addr, data, lanes⟩,
           .hostProposalWrite addr data lanes, .hostRequestWrite addr data, .partialRequestWrite addr data lanes,
           .orderWordWrite addr data lanes, .pageLine1Write addr data lanes, .directoryWrite addr data lanes],
         Runs c s fun t => ChangesOnly [.hostPort, .ctu] s t ∧ Withheld s t)
     ∧ (∀ n : Fin 64, Protected s (s.controlAddr n.val) →
         ∀ c ∈ [Instr.controlPageWrite n data lanes, .partialActionWrite n data lanes],
           Runs c s fun t => ChangesOnly [.hostPort, .ctu] s t ∧ Withheld s t))
  ∧ (∀ (s : State) (data : Word) (lanes : Lanes), HostReady s → s.ctu.phase ≠ .setup →
       (∀ c ∈ [Instr.clockWrite data lanes, .bankWrite data lanes],
         Runs c s fun t => ChangesOnly [.hostPort, .ctu] s t ∧ Withheld s t)
       ∧ (∀ n : Fin 64, n.val ∈ [2, 3, 4, 5, 6, 7, 8, 24, 25, 26, 27, 28] →
           Runs (.controlPageWrite n data lanes) s fun t => ChangesOnly [.hostPort, .ctu] s t ∧ Withheld s t))

/-- A write replaces exactly the byte lanes it enables. A write to a setting word of the Control Page, in SETUP, and to
TRAP-ENABLE and INT-ENABLE in any phase, goes to memory and stores the merged word, in the bits of the word that carry a
field; the other shadow words stay. -/
def Obligations.SettingWriteIsStored : Prop :=
  (∀ (old new : Word) (lanes : Lanes) (i : Fin 32),
     (mergeLanes old new lanes).getLsbD i.val =
       if lanes.getLsbD (i.val / 8) then new.getLsbD i.val else old.getLsbD i.val)
  ∧ (∀ (s : State) (data : Word) (lanes : Lanes), HostReady s →
       let stored : Nat → State → Prop := fun n t =>
         ChangesOnly [.hostPort, .ctu] s t ∧ HostAccessStands (controlWriteAt s n data lanes) t
           ∧ t.ctu = { s.ctu with shadow := t.ctu.shadow }
           ∧ t.ctu.shadow.value n = mergeLanes (s.ctu.shadow.value n) data lanes &&& settingMask n
           ∧ ∀ m, m ≠ n → t.ctu.shadow.value m = s.ctu.shadow.value m
       (s.ctu.phase = .setup → ∀ n : Fin 64, n.val ∈ [4, 5, 6, 7, 8, 24, 25, 26, 27, 28] →
           Runs (.controlPageWrite n data lanes) s (stored n.val))
       ∧ (∀ c ∈ [Instr.trapEnableWrite data lanes, .controlPageWrite 9 data lanes], Runs c s (stored 9))
       ∧ (∀ c ∈ [Instr.intEnableWrite data lanes, .controlPageWrite 16 data lanes], Runs c s (stored 16)))

/-- A CLOCK write in SETUP stores the merged word and loads the Campus Clock when its minute and second are in range,
and a BANK write loads the selector. -/
def Obligations.ClockAndBankWrites : Prop :=
  ∀ (s : State) (data : Word) (lanes : Lanes), HostReady s → s.ctu.phase = .setup →
    (let w := mergeLanes s.ctu.shadow.w2 data lanes;
      Runs (.clockWrite data lanes) s fun t =>
        ChangesOnly [.hostPort, .ctu, .clock] s t ∧ HostAccessStands (controlWriteAt s 2 data lanes) t
          ∧ t.ctu = { s.ctu with shadow := { s.ctu.shadow with w2 := w }, clockGood := t.ctu.clockGood }
          ∧ (bits w 16 6 ≤ 1439 ∧ bits w 5 0 ≤ 59 →
              t.ctu.clockGood = true
                ∧ t.clock = { s.clock with second := bits w 5 0, minute := bits w 16 6, day := bits w 31 17 })
          ∧ (¬ (bits w 16 6 ≤ 1439 ∧ bits w 5 0 ≤ 59) → t.ctu.clockGood = false ∧ t.clock = s.clock))
    ∧ (let w := mergeLanes s.ctu.shadow.w3 data lanes &&& 1;
      Runs (.bankWrite data lanes) s fun t =>
        ChangesOnly [.hostPort, .ctu, .clock] s t ∧ HostAccessStands (controlWriteAt s 3 data lanes) t
          ∧ t.ctu = { s.ctu with shadow := { s.ctu.shadow with w3 := w } }
          ∧ t.clock = { s.clock with today := if w = 1 then .bookB else .bookA })

/-- A write to an action word with fewer than four byte enables goes to memory, sets PARTIAL, and does nothing else. A
FLAGS write clears the flags named by ones; an INT-PENDING write clears KITCHEN and SCAN where named, and leaves TRAP
and PANEL. -/
def Obligations.ActionWritesClearOrSetPartial : Prop :=
  (∀ (s : State) (n : Fin 64) (data : Word) (lanes : Lanes), HostReady s → n.val ∈ [1, 10, 11, 17] → lanes ≠ 15#4 →
     Runs (.partialActionWrite n data lanes) s fun t =>
       ChangesOnly [.hostPort, .ctu] s t ∧ HostAccessStands (controlWriteAt s n.val data lanes) t
         ∧ t.ctu = { s.ctu with flags := s.ctu.flags ||| 0x200 })
  ∧ (∀ (s : State) (data : Word), HostReady s →
       (Runs (.flagsWrite data) s fun t =>
         ChangesOnly [.hostPort, .ctu] s t ∧ HostAccessStands (controlWriteAt s 10 data 15#4) t
           ∧ t.ctu = { s.ctu with flags := t.ctu.flags }
           ∧ ∀ i, i < 32 → t.ctu.flags.getLsbD i = (s.ctu.flags.getLsbD i && !data.getLsbD i))
       ∧ (Runs (.intPendingWrite data) s fun t =>
         ChangesOnly [.hostPort, .ctu] s t ∧ HostAccessStands (controlWriteAt s 17 data 15#4) t
           ∧ t.ctu =
               { s.ctu with
                 kitchenCause := s.ctu.kitchenCause && !data.getLsbD 2
                 scanCause := s.ctu.scanCause && !data.getLsbD 3 }))

/-- R30: a presented record is stored when the slot is EMPTY; when it is FULL the record is discarded and OVERRUN set;
TRAP is pending exactly while the slot is FULL; hardware RESET empties the slot and RESTART keeps it. R31: reads of
words 11 to 15, the whole-word and the partial TRAP-TAKEN write, and the four orders in which a record and a write can
be taken. -/
def Obligations.TrapSlotHoldsOneRecord : Prop :=
  (∀ (s : State) (data : Word) (lanes : Lanes), HostReady s →
     (∀ n, n ∈ [11, 12, 13, 14, 15] →
       Runs (.hostAccessPass ⟨false, s.controlAddr n, data, lanes⟩) s fun t =>
         ChangesOnly [.hostPort] s t
           ∧ t.mps.hostResult =
               .done
                 (some
                   (match s.ctu.trapSlot, n with
                     | none, _ => 0
                     | some _, 11 => 1
                     | some r, 12 => r.word12
                     | some r, 13 => r.word13
                     | some r, 14 => r.word14
                     | some r, _ => r.word15))
                 false)
     ∧ (Runs (.trapTaken data) s fun t =>
         ChangesOnly [.hostPort, .ctu] s t ∧ HostAccessStands (controlWriteAt s 11 data 15#4) t
           ∧ t.ctu = { s.ctu with trapSlot := none })
     ∧ (lanes ≠ 15#4 →
         Runs (.partialActionWrite 11 data lanes) s fun t =>
           ChangesOnly [.hostPort, .ctu] s t ∧ t.ctu = { s.ctu with flags := s.ctu.flags ||| 0x200 })
     ∧ (∀ r : TrapRecord,
         (s.ctu.trapSlot.isSome →
           (s.trapTaken.presentTrap r).ctu = { s.ctu with trapSlot := some r }
           ∧ (s.presentTrap r).trapTaken.ctu = { s.ctu with trapSlot := none, flags := s.ctu.flags ||| 0x400 })
         ∧ (s.ctu.trapSlot = none →
             (s.trapTaken.presentTrap r).ctu = { s.ctu with trapSlot := some r }
             ∧ (s.presentTrap r).trapTaken.ctu = s.ctu)))
  ∧ (∀ (s : State) (r : TrapRecord) (straps : BitVec 3),
       (s.ctu.trapSlot = none → s.presentTrap r = { s with ctu := { s.ctu with trapSlot := some r } })
       ∧ (s.ctu.trapSlot.isSome → s.presentTrap r = { s with ctu := { s.ctu with flags := s.ctu.flags ||| 0x400 } })
       ∧ (bit s.ctu.pendingWord 0 = true ↔ s.ctu.trapSlot.isSome)
       ∧ (Runs (.hardwareReset straps) s fun t => t.ctu.trapSlot = none)
       ∧ (s.restart.ctu.trapSlot = s.ctu.trapSlot))

/-- R21: what a read of PHASE returns, in every state in which phase, running START and pass agree, after hardware RESET
and after RESTART. -/
def Obligations.PhaseWordReads : Prop :=
  (∀ (s : State) (data : Word) (lanes : Lanes), HostReady s → PhaseAgrees s →
    Runs (.hostAccessPass ⟨false, s.controlAddr 0, data, lanes⟩) s fun t =>
      ChangesOnly [.hostPort] s t ∧ ArbiterUntouched s t
        ∧ ∃ w, t.mps.hostResult = .done (some w) false
          ∧ bits w 1 0 = (match s.ctu.phase with | .setup => 0 | .walking => 1 | .running => 2)
          ∧ bits w 5 4 = (match s.bsc.pass with | .none => 0 | .clean => 1 | .keep => 2 | .turnover => 3)
          ∧ (s.bsc.pass = .none → bits w 31 8 = 0)
          ∧ (s.bsc.pass ≠ .none →
              bits w 8 8 = (match s.bsc.cursor.book with | .bookA => 0 | .bookB => 1)
                ∧ bits w 21 16 = s.bsc.cursor.room.val ∧ bits w 27 24 = s.bsc.cursor.slot.val)
          ∧ (s.ctu.phase = .walking → bits w 5 4 = 1 ∨ bits w 5 4 = 2)
          ∧ (s.ctu.phase = .running → bits w 5 4 = 3 ∨ bits w 5 4 = 0))
  ∧ State.reset.controlRead 0 = 0
  ∧ ∀ s : State, s.restart.controlRead 0 = 0

/-- Substituted reads of the other words of the Control Page: no memory-side access is made, and no state changes but
what the host-side port shows. Word 21 holds the lengths of the Panel Event Queue, the Catering Queue and the Recall
List, while the first has at most 24 entries and the others no duplicate, as every step keeps them. A read of CHANGE-
SUMMARY returns the marks of its word, and clears exactly the marks in the lanes it enables. -/
def Obligations.ControlPageReads : Prop :=
  (∀ (s : State) (n : Nat) (data : Word) (lanes : Lanes), HostReady s →
     n ∈ [1, 2, 3, 4, 5, 6, 7, 8, 9, 10, 16, 17, 20, 21, 22, 24, 25, 26, 27, 28] →
     Runs (.hostAccessPass ⟨false, s.controlAddr n, data, lanes⟩) s fun t =>
       ChangesOnly [.hostPort] s t ∧ ArbiterUntouched s t ∧ t.mps.held = s.mps.held
         ∧ ∃ w, t.mps.hostResult = .done (some w) false
           ∧ (n = 1 →
               w = s.ctu.command.code.setWidth 32
                 ||| BitVec.ofNat 32
                       (16 *
                         (match s.ctu.command.reason with
                           | .none => 0 | .busy => 1 | .phase => 2 | .unknown => 3 | .layout => 4 | .setting => 5
                           | .notHalted => 6))
                 ||| s.ctu.command.argument
                 ||| BitVec.ofNat 32
                       (2 ^ 30 * (match s.ctu.command.status with | .busy => 1 | .done => 2 | .refused => 3)))
           ∧ (n ∈ [4, 5, 6, 7, 8, 9, 16, 24, 25, 26, 27, 28] → w = s.ctu.shadow.value n)
           ∧ (n = 2 → ClockInRange s.clock →
               bits w 5 0 = s.clock.second ∧ bits w 16 6 = s.clock.minute ∧ bits w 31 17 = s.clock.day % 32768)
           ∧ (n = 3 → w = if s.clock.today = .bookA then 0 else 1)
           ∧ (n = 10 → w = s.ctu.flags)
           ∧ (n = 17 → w = s.ctu.pendingWord)
           ∧ (n = 20 → w = BitVec.ofNat 32 s.adu.freeList.length)
           ∧ (n = 21 → s.plu.events.length ≤ 24 → s.cqu.queue.Nodup → s.cqu.recalls.Nodup →
               w = BitVec.ofNat 32 (s.plu.events.length + s.cqu.queue.length * 2 ^ 8 + s.cqu.recalls.length * 2 ^ 16))
           ∧ (n = 22 →
               bits w 1 0 = (match s.klc.link with | .idle => 0 | .sending => 1 | .awaiting => 2 | .halted => 3)
                 ∧ (s.klc.link ≠ .halted → bits w 6 4 = 0 ∧ bits w 15 8 = 255)
                 ∧ (s.klc.link = .halted →
                     bits w 6 4 = s.klc.halt.code ∧ (∀ c, s.klc.context = some c → bits w 15 8 = c.order.val)
                       ∧ (s.klc.context = none → bits w 15 8 = 255))))
  ∧ (∀ (s : State) (high : Bool) (lanes : Lanes), HostReady s →
       Runs (.changeSummaryRead high lanes) s fun t =>
         ChangesOnly [.hostPort, .ctu] s t ∧ ArbiterUntouched s t
           ∧ t.ctu = { s.ctu with changes := t.ctu.changes }
           ∧ (∃ w, t.mps.hostResult = .done (some w) false
               ∧ ∀ i, i < 32 → w.getLsbD i = s.ctu.changes.getLsbD (if high then 32 + i else i))
           ∧ ∀ r : Room,
               t.ctu.changes.getLsbD r.val =
                 (s.ctu.changes.getLsbD r.val
                   && !(decide (32 ≤ r.val) == high && lanes.getLsbD (r.val % 32 / 8))))

/-- R35: INT is high exactly when the pending set and the enable set share a cause; what hardware RESET, RESTART and an
INT-ENABLE write make of it. -/
def Obligations.IntFollowsPendingAndEnabled : Prop :=
  ∀ (s : State) (straps : BitVec 3) (data : Word),
    (s.ctu.intLine = true ↔
      (s.ctu.trapSlot.isSome ∧ bit s.ctu.shadow.w16 0) ∨ (s.ctu.changes ≠ 0 ∧ bit s.ctu.shadow.w16 1)
        ∨ (s.ctu.kitchenCause = true ∧ bit s.ctu.shadow.w16 2) ∨ (s.ctu.scanCause = true ∧ bit s.ctu.shadow.w16 3))
    ∧ (HostReady s →
        Runs (.intEnableWrite data 15#4) s fun t =>
          t.ctu.intLine = true ↔ ∃ k, k < 4 ∧ bit s.ctu.pendingWord k = true ∧ bit data k = true)
    ∧ (Runs (.hardwareReset straps) s fun t => t.ctu.pendingWord = 0 ∧ t.ctu.shadow.w16 = 0 ∧ t.ctu.intLine = false)
    ∧ (s.restart.ctu.pendingWord = s.ctu.pendingWord ∧ s.restart.ctu.shadow.w16 = s.ctu.shadow.w16
        ∧ s.restart.ctu.intLine = s.ctu.intLine)

/-! ### Commands of the Control Page -/

/-- A START judged in SETUP is refused LAYOUT when a layout condition fails, else refused SETTING when a settings
condition fails, and is accepted otherwise; the default bases fail the layout. The argument of 0 in the command state of
a refused START is the model's (log entry 17). -/
def Obligations.StartChecksLayoutAndSettings : Prop :=
  (∀ (s : State) (code : BitVec 4) (rest : BitVec 28), HostReady s → s.ctu.phase = .setup → s.ctu.runningStart = none →
    (code = 1 ∨ code = 2) →
    let refused : CommandReason → State → Prop := fun reason t =>
      ChangesOnly [.hostPort, .ctu] s t
        ∧ t.ctu = { s.ctu with command := { code := code, argument := 0, status := .refused, reason := reason } }
    Runs (commandRow code rest) s fun t =>
      (¬ LayoutHolds s → refused .layout t)
        ∧ (LayoutHolds s → ¬ SettingsHold s → refused .setting t)
        ∧ (LayoutHolds s → SettingsHold s → t.ctu.command.status = .busy ∧ t.ctu.phase = .walking))
  ∧ ¬ LayoutHolds State.reset

/-- A refused COMMAND write sets the command state to its own code and argument, REFUSED and the reason of the first
check that applies, and has no other effect. The argument reads as 0 for a code that takes none (log entry 17). -/
def Obligations.RefusedCommandChangesTheCommandStateAlone : Prop :=
  ∀ (s : State) (code : BitVec 4) (rest : BitVec 28), HostReady s →
    let w : Word := rest ++ code
    let refused : CommandReason → Prop := fun reason =>
      Runs (commandRow code rest) s fun t =>
        ChangesOnly [.hostPort, .ctu] s t ∧ HostAccessStands (controlWriteAt s 1 w 15#4) t
          ∧ t.ctu =
              { s.ctu with
                command := { code := code, argument := commandArgument w, status := .refused, reason := reason } }
    (s.ctu.runningStart.isSome → code ≠ 3 → refused .busy)
    ∧ (s.ctu.runningStart = none → (code = 0 ∨ 7 ≤ code.toNat) → refused .unknown)
    ∧ (s.ctu.runningStart = none →
        ((code = 1 ∨ code = 2) ∧ s.ctu.phase ≠ .setup) ∨ ((code = 4 ∨ code = 5 ∨ code = 6) ∧ s.ctu.phase ≠ .running) →
        refused .phase)
    ∧ (code = 3 → s.ctu.phase = .setup → refused .phase)
    ∧ (s.ctu.runningStart = none → (code = 1 ∨ code = 2) → s.ctu.phase = .setup → LayoutHolds s →
        ¬ SettingsHold s → refused .setting)
    ∧ (s.ctu.runningStart = none → code = 4 → s.ctu.phase = .running → s.klc.link ≠ .halted → refused .notHalted)
    ∧ (s.ctu.runningStart = none → code = 6 → s.ctu.phase = .running →
        3 < bits w 10 8 ∨ 15 < bits w 20 16 ∨ 15 < bits w 28 24 → refused .setting)

/-- An accepted START records itself, makes the phase WALKING, takes the window bases, starts its pass at the first
slot, builds the scan positions, and marks every filter uninitialised. The argument of 0 in the command state is the
model's (log entry 17). -/
def Obligations.StartIsAccepted : Prop :=
  ∀ (s : State) (rest : BitVec 28) (k : StartKind), HostReady s → s.ctu.phase = .setup → s.ctu.runningStart = none →
    LayoutHolds s → SettingsHold s →
    Runs (match k with | .clean => .startClean rest | .keep => .startKeep rest) s fun t =>
      ChangesOnly [.hostPort, .regionMap, .ctu, .clock, .bsc, .plu, .ocf, .atu] s t
        ∧ HostAccessStands (controlWriteAt s 1 (rest ++ (match k with | .clean => 1#4 | .keep => 2#4)) 15#4) t
        ∧ t.ctu =
            { s.ctu with
              phase := .walking
              runningStart := some k
              command :=
                { code := (match k with | .clean => 1 | .keep => 2), argument := 0, status := .busy, reason := .none } }
        ∧ (t.mps.straps = s.mps.straps ∧ t.mps.controlOn = true ∧ t.mps.windows = some s.ctu.shadow.windows)
        ∧ t.clock = { s.clock with deferredMinute := false, deferredDayEnd := false }
        ∧ (t.bsc.pass = (match k with | .clean => .clean | .keep => .keep) ∧ t.bsc.cursor = ⟨.bookA, 0, 0⟩)
        ∧ (∀ l p, Table.get none (t.loop l).positions p =
            ((rooms.filter fun r => s.hasPanel r && s.panelLoop r == l.val)[p]?).map fun r => ⟨s.panelAddress r, r⟩)
        ∧ (∀ l, (t.loop l).mode = .fast ∧ (t.loop l).stay = s.stay ∧ (t.loop l).windowHeld = false)
        ∧ (∀ l, (t.loop l).silent = false →
            (t.loop l).inRound = true ∧ (t.loop l).polls = 0 ∧ (t.loop l).timer = .running s.fast
              ∧ (t.loop l).roundList = (t.loop l).listedPositions)
        ∧ (∀ r, s.hasPanel r = true →
            (t.panel r).online = false ∧ (t.panel r).dirty = true ∧ (t.panel r).lastTag = none
              ∧ (t.panel r).line1 = blankLine)
        ∧ (∀ r, (t.filter r).initDone = false)
        ∧ (∀ r, (t.roomState r).refusal = false ∧ (t.roomState r).note = none ∧ (t.roomState r).line = t.composeLine r)

/-- An accepted RESTART returns to SETUP and resets the blocks that section 2.3 names; the Control Unit's registers,
the clock's count and the selector are kept, and the kitchen link keeps only a frame on the wire or an answer awaited.
A granted access runs on; a write of an order record or of a Bank Scanner visit and a read of a KEEP visit are
remembered as such. The waiting accesses of the Admission Unit, the Bank Scanner and the Catering Queue Unit are
withdrawn; of the Kitchen Link Controller only words of the final write wait, one that waited already or the next,
presented now; and of the host class stands the RESTART write itself, granted when the port was free. The model's own
parts of this: that a waiting read of an assembly is withdrawn too (log entry 45), the argument of 0 in the command
state (log entry 17), the IDLE link where RESTART comes in the byte time before a resend (log entry 23), the stopped
round timers (log entry 38), the addresses of O6 and O7 in the record that the link keeps (log entry 42), that no
draft mark is pending (log entry 47), and that a frame which hardware RESET left on the wire keeps its answer
disregarded (log entry 29). -/
def Obligations.RestartReturnsToSetup : Prop :=
  ∀ (s : State) (rest : BitVec 28), HostReady s → s.ctu.phase ≠ .setup →
    Runs (.restart rest) s fun t =>
      ChangesOnly [.hostPort, .regionMap, .ctu, .clock, .adu, .bsc, .plu, .ocf, .atu, .catering] s t
        ∧ HostAccessStands (controlWriteAt s 1 (rest ++ 3#4) 15#4) t
        ∧ t.ctu =
            { s.ctu with
              phase := .setup, runningStart := none
              command := { code := 3, argument := 0, status := .done, reason := .none } }
        ∧ (t.mps.straps = s.mps.straps ∧ t.mps.controlOn = true ∧ t.mps.windows = none ∧ ∀ o, t.locked o = false)
        ∧ t.clock = { s.clock with deferredMinute := false, deferredDayEnd := false, heldDayEnd := false }
        ∧ (t.adu = State.reset.adu ∧ t.bsc = State.reset.bsc ∧ t.plu = State.reset.plu ∧ t.ocf = State.reset.ocf
          ∧ t.atu = State.reset.atu ∧ t.cqu = State.reset.cqu)
        ∧ (∀ x, s.mps.granted = some x →
            ∃ o, t.mps.granted = some { x with owner := o }
              ∧ (x.owner = .cqu → o = .orphanCqu) ∧ (x.owner = .bsc → o = .orphanBsc)
              ∧ (x.owner = .klcFinal → o = .klcFinal)
              ∧ (∀ r l rebuilt, x.owner = .aduClaim →
                  s.adu.claim ∈ [some (.cleanVisit r l), some (.turnoverVisit r l), some (.keepWriting r rebuilt l)] →
                  o = .orphanVisit)
              ∧ (∀ l, x.owner = .aduTail → s.adu.tail = some ⟨l, .scanner⟩ → o = .orphanVisit))
        ∧ (t.mps.waiting.adu = none ∧ t.mps.waiting.bsc = none ∧ t.mps.waiting.cqu = none)
        ∧ (∀ y, s.mps.waiting.klc = some y → y.owner = .klcFinal → t.mps.waiting.klc = some y)
        ∧ (∀ y, t.mps.waiting.klc = some y →
            (s.mps.waiting.klc = some y ∧ y.owner = .klcFinal)
              ∨ ∃ addr data more, s.klc.final = (addr, data) :: more ∧ y = ⟨.klcFinal, true, addr, data, 15#4⟩)
        ∧ (let a := controlWriteAt s 1 (rest ++ 3#4) 15#4
           let restart : Access := ⟨.host, true, a.addr, a.data, 15#4⟩
           t.mps.held = s.mps.held
             ∧ (s.mps.granted = none → t.mps.granted = some restart ∧ t.mps.waiting.host = none)
             ∧ (s.mps.granted ≠ none → t.mps.waiting.host = some restart))
        ∧ (s.klc.stage = .onWire ∨ (s.klc.stage = .quiet ∧ s.klc.link = .awaiting) →
            (s.klc.context = none → t.klc = s.klc)
              ∧ ∀ c e, s.klc.context = some c → s.orderEntry c.order = some e →
                  t.klc =
                    { s.klc with
                      context := none
                      residue :=
                        some
                          { order := c.order, kind := c.kind, ticketIndex := c.ticketIndex, accepted := e.accepted,
                            total := e.total, retries := e.retries, addr6 := s.orderAddr c.order 6,
                            addr7 := s.orderAddr c.order 7 } })
        ∧ (¬ (s.klc.stage = .onWire ∨ (s.klc.stage = .quiet ∧ s.klc.link = .awaiting)) →
            t.klc.link = .idle ∧ t.klc.context = none ∧ t.klc.stage = .quiet)

/-- KITCHEN-CLEAR of a HALTED link sends a recall again, resumes a ticket at the next index, and disposes of an order
whose context carries a disposition mark, by the mark and the tickets accepted; the retry count of the order is cleared.
The argument of 0 in the command state is the model's (log entry 17), and so is that both are decided before a word of
the order is presented (log entry 57). -/
def Obligations.KitchenClearResumesOrDisposes : Prop :=
  ∀ (s : State) (rest : BitVec 28) (c : Context) (e : OrderEntry), HostReady s → s.ctu.phase = .running →
    s.ctu.runningStart = none → s.klc.link = .halted → s.klc.context = some c → s.orderEntry c.order = some e →
    TablesCanonical s →
    Runs (.kitchenClear rest) s fun t =>
      ChangesOnly [.hostPort, .ctu, .catering] s t
        ∧ HostAccessStands (controlWriteAt s 1 (rest ++ 4#4) 15#4) t
        ∧ t.ctu.command = { code := 4, argument := 0, status := .done, reason := .none }
        ∧ (c.kind = .recall →
            t.klc.link = .sending ∧ t.klc.context = some { c with mismatches := 0 } ∧ t.klc.halt = .none
              ∧ t.orderEntry c.order = some { e with retries := 0 })
        ∧ (c.kind = .ticket → c.mark = .none →
            t.klc.link = .sending ∧ t.klc.context = some { c with ticketIndex := e.accepted + 1, mismatches := 0 }
              ∧ t.klc.halt = .none ∧ t.orderEntry c.order = some { e with retries := 0 })
        ∧ (c.kind = .ticket → c.mark = .move → e.accepted = 0 →
            ∃ st, t.orderEntry c.order = some { e with retries := 0, state := st }
              ∧ (e.at_.book = s.clock.today ∧ e.due ≤ s.clock.minute → st = .due ∨ st = .sending)
              ∧ (¬ (e.at_.book = s.clock.today ∧ e.due ≤ s.clock.minute) → st = .attached)
              ∧ (st ≠ .sending → c.order ∈ t.cqu.queue))
        ∧ (c.kind = .ticket → c.mark = .move → 0 < e.accepted →
            t.orderEntry c.order = some { e with retries := 0, state := .recalling, resend := true }
              ∧ (c.order ∈ t.cqu.recalls ∨ t.klc.context = some ⟨c.order, .recall, 0, .none, 0⟩))
        ∧ (c.kind = .ticket → c.mark = .release ∨ c.mark = .short → 0 < e.accepted →
            t.orderEntry c.order = some { e with retries := 0, state := .recalling, resend := false }
              ∧ (c.order ∈ t.cqu.recalls ∨ t.klc.context = some ⟨c.order, .recall, 0, .none, 0⟩))
        ∧ (c.kind = .ticket → c.mark = .release → e.accepted = 0 →
            t.orderEntry c.order = some { e with retries := 0, state := .cancelled })
        ∧ (c.kind = .ticket → c.mark = .short → e.accepted = 0 →
            t.orderEntry c.order = some { e with retries := 0, state := .detached })
        ∧ (c.kind = .ticket → c.mark = .ended → e.accepted ≠ 0 → e.accepted = e.total →
            t.orderEntry c.order = some { e with retries := 0, state := .accepted })
        ∧ (c.kind = .ticket → c.mark = .ended → e.accepted = 0 ∨ e.accepted ≠ e.total → e.state = .sending →
            t.orderEntry c.order = some { e with retries := 0, state := .failed, failure := .stale }
              ∧ t.ctu.kitchenCause = true)

/-- REBASE marks the named room's filter, or every room's, to re-initialise; a room without a panel keeps its filter.
SWAP exchanges two positions of a loop, empty ones included. -/
def Obligations.RebaseAndSwap : Prop :=
  ∀ (s : State) (rest : BitVec 28), HostReady s → s.ctu.phase = .running → s.ctu.runningStart = none →
    TablesCanonical s →
    (let w : Word := rest ++ 5#4;
      Runs (.rebase rest) s fun t =>
        ChangesOnly [.hostPort, .ctu, .ocf] s t ∧ HostAccessStands (controlWriteAt s 1 w 15#4) t
          ∧ t.ctu =
              { s.ctu with command := { code := 5, argument := w &&& 0xBF00, status := .done, reason := .none } }
          ∧ ∀ r, t.filter r =
              if s.hasPanel r = true ∧ (bit w 15 = true ∨ r.val = bits w 13 8)
              then { s.filter r with initDone := false } else s.filter r)
    ∧ (let w : Word := rest ++ 6#4;
      ∀ l : LoopNo, bits w 10 8 = l.val → bits w 20 16 ≤ 15 → bits w 28 24 ≤ 15 →
        Runs (.swap rest) s fun t =>
          ChangesOnly [.hostPort, .ctu, .plu] s t ∧ HostAccessStands (controlWriteAt s 1 w 15#4) t
            ∧ t.ctu =
                { s.ctu with command := { code := 6, argument := w &&& 0x1F1F0700, status := .done, reason := .none } }
            ∧ t.plu.panels = s.plu.panels ∧ t.plu.events = s.plu.events
            ∧ (∀ m, m ≠ l → t.loop m = s.loop m)
            ∧ t.loop l = { s.loop l with positions := (t.loop l).positions }
            ∧ (PanelsAgree s →
                ∀ p, Table.get none (t.loop l).positions p =
                  Table.get none (s.loop l).positions
                    (if p = bits w 20 16 then bits w 28 24 else if p = bits w 28 24 then bits w 20 16 else p)))

/-! ### Writes to slots, orders, pages and the directory -/

/-- A write to W0, W1 or W2 goes to memory and leaves a draft notice for its slot. A draft notice is applied between
claims: a FREE entry becomes DRAFT, the others stay; during a claim it waits. A DRAFT_NOTICE of a slot with no notice
held changes nothing (log entry 5). Every notice that came is applied before the next claim is taken: a claim is taken
as from the state in which the draft notices, return notices and PRESENT reports have been applied, or is not taken (log
entry 13). -/
def Obligations.ProposalWriteLeavesADraftNotice : Prop :=
  (∀ (s : State) (addr : Addr) (data : Word) (lanes : Lanes) (r : SlotRef) (n : Nat), HostFree s → TablesCanonical s →
     s.target addr = .slot r n → n < 3 →
     Runs (.hostProposalWrite addr data lanes) s fun t =>
       ChangesOnly [.hostPort, .adu] s t ∧ HostAccessStands ⟨true, addr, data, lanes⟩ t
         ∧ t.adu = { s.adu with drafts := t.adu.drafts }
         ∧ Table.get false t.adu.drafts r.key = true
         ∧ ∀ k, k ≠ r.key → Table.get false t.adu.drafts k = Table.get false s.adu.drafts k)
  ∧ (∀ (s : State) (bookB : Bool) (room : Room) (slot : SlotNo), TablesCanonical s →
       let r : SlotRef := ⟨if bookB then .bookB else .bookA, room, slot⟩
       (s.adu.claim = none → Table.get false s.adu.drafts r.key = true →
         Runs (.draftNotice bookB room slot) s fun t =>
           ChangesOnly [.adu] s t
             ∧ t.adu = { s.adu with slotMap := t.adu.slotMap, drafts := t.adu.drafts }
             ∧ t.slotState r = (if s.slotState r = .free then .draft else s.slotState r)
             ∧ (∀ q, q ≠ r → t.slotState q = s.slotState q)
             ∧ (∀ k, Table.get false t.adu.drafts k = (decide (k ≠ r.key) && Table.get false s.adu.drafts k)))
       ∧ (s.adu.claim.isSome ∨ Table.get false s.adu.drafts r.key = false →
           Runs (.draftNotice bookB room slot) s (ChangesOnly [] s)))
  ∧ (∀ s : State, s.adu.claim = none → TablesCanonical s →
       (∀ c ∈ [Instr.requestNew, .requestAmend, .requestCancel, .requestNone, .badRequest, .cleanVisit, .keepVisit,
           .turnoverOpening, .turnoverVisit, .autoCheckin, .timeEnd, .resolve, .vacancyEnd, .checkin, .endBooking, .extend,
           .booknow],
         exec c s = exec c s.applyNotices ∨ Runs c s (ChangesOnly [] s))
       ∧ (∀ r,
           s.applyNotices.slotState r =
             if Table.get false s.adu.drafts r.key = true ∧ s.slotState r = .free then .draft else s.slotState r)
       ∧ s.applyNotices.adu.drafts = []
       ∧ ∀ r : Room,
           Table.get [] s.applyNotices.atu.returns r.val = [] ∧ Table.get [] s.applyNotices.atu.reports r.val = [])

/-- A whole-word write to W3 is held, makes no memory-side access, and hands its request claim over; a partial one goes
to memory with PARTIAL set and hands nothing over. -/
def Obligations.RequestWriteIsHeld : Prop :=
  ∀ (s : State) (addr : Addr) (data : Word) (lanes : Lanes) (r : SlotRef), HostFree s → s.target addr = .slot r 3 →
    (Runs (.hostRequestWrite addr data) s fun t =>
      ChangesOnly [.hostPort, .adu] s t ∧ ArbiterUntouched s t
        ∧ t.mps.held = some ⟨true, addr, data, 15#4⟩ ∧ t.mps.hostResult = .stalled
        ∧ t.adu = { s.adu with request := some ⟨r, data⟩ })
    ∧ (lanes ≠ 15#4 →
        Runs (.partialRequestWrite addr data lanes) s fun t =>
          ChangesOnly [.hostPort, .ctu] s t ∧ HostAccessStands ⟨true, addr, data, lanes⟩ t ∧ t.mps.held = s.mps.held
            ∧ t.ctu = { s.ctu with flags := s.ctu.flags ||| 0x200 })

/-- A write to O0 to O3 of an order that is not locked passes. A directory write in CAPTURE replaces the enabled bytes
of that word of the directory copy, and goes to memory. -/
def Obligations.OrderAndDirectoryWrites : Prop :=
  (∀ (s : State) (addr : Addr) (data : Word) (lanes : Lanes) (o : OrderIx) (n : Nat), HostFree s →
     s.target addr = .order o n → n < 4 → s.locked o = false →
     Runs (.orderWordWrite addr data lanes) s fun t =>
       ChangesOnly [.hostPort] s t ∧ HostAccessStands ⟨true, addr, data, lanes⟩ t)
  ∧ (∀ (s : State) (addr : Addr) (data : Word) (lanes : Lanes) (r : Room) (n : Nat), HostFree s → TablesCanonical s →
       s.target addr = .capture r n → n < 2 →
       Runs (.directoryWrite addr data lanes) s fun t =>
         ChangesOnly [.hostPort, .ctu] s t ∧ HostAccessStands ⟨true, addr, data, lanes⟩ t
           ∧ t.ctu = { s.ctu with directory := t.ctu.directory }
           ∧ t.dirWord r n = mergeLanes (s.dirWord r n) data lanes
           ∧ ∀ q m, m < 2 → (q, m) ≠ (r, n) → t.dirWord q m = s.dirWord q m)

/-- A write to a line-1 word puts its enabled bytes into the cells of the panel's capture and sets page-dirty, and the
page renewal mark of the panel's exchange in progress where its poll carried the page; for a room without panel state
the bytes are discarded; either way it goes to memory. A read of a line-2 word is answered with two cells of the
room's status line, without a memory-side access. A composed status line has 16 cells: in cells 1 to 8 REFUSED, ENDING
or IN USE with REVERSE, BOOKED or FREE, as the first line of section 9.6's table that holds; in cells 10 to 14 the end
of the booking covering now, else the start of the next, else spaces; in cell 16 a C where the booking covering now
has an order; spaces else. That ENDING is shown only while the IN-USE booking covers now, so not at its end minute, is
as section 9.6's table has it and the model's choice against the words of section 9.3 (log entry 61). A recomposition
that changes a cell sets page-dirty and the page renewal mark in the same way, and one that changes none changes
nothing. -/
def Obligations.PageWritesAndLine2Reads : Prop :=
  (∀ (s : State) (addr : Addr) (data : Word) (lanes : Lanes) (r : Room) (n : Nat), HostFree s → TablesCanonical s →
     s.target addr = .page r n → n < 8 →
     Runs (.pageLine1Write addr data lanes) s fun t =>
       HostAccessStands ⟨true, addr, data, lanes⟩ t
         ∧ (s.hasPanel r = true →
             ChangesOnly [.hostPort, .plu] s t
               ∧ t.panel r = { s.panel r with line1 := (t.panel r).line1, dirty := true }
               ∧ (∀ q, q ≠ r → t.panel q = s.panel q)
               ∧ MarksRenewed s t r false ∧ t.plu.events = s.plu.events ∧ t.plu.expiryDue = s.plu.expiryDue
               ∧ ∀ i, i < (s.panel r).line1.length →
                   (t.panel r).line1.getD i {} =
                     if i = 2 * n then
                       ⟨if lanes.getLsbD 0 then data.setWidth 7 else ((s.panel r).line1.getD i {}).code,
                         if lanes.getLsbD 1 then data.getLsbD 8 else ((s.panel r).line1.getD i {}).reverse⟩
                     else if i = 2 * n + 1 then
                       ⟨if lanes.getLsbD 2 then (data >>> 16).setWidth 7 else ((s.panel r).line1.getD i {}).code,
                         if lanes.getLsbD 3 then data.getLsbD 24 else ((s.panel r).line1.getD i {}).reverse⟩
                     else (s.panel r).line1.getD i {})
         ∧ (s.hasPanel r = false → ChangesOnly [.hostPort] s t))
  ∧ (∀ (s : State) (addr : Addr) (data : Word) (lanes : Lanes) (r : Room) (i : Nat), HostFree s → i < 8 →
       s.target addr = .page r (8 + i) →
       Runs (.hostAccessPass ⟨false, addr, data, lanes⟩) s fun t =>
         ChangesOnly [.hostPort] s t ∧ ArbiterUntouched s t
           ∧ ∃ w, t.mps.hostResult = .done (some w) false
             ∧ bits w 6 0 = ((s.roomState r).line.getD (2 * i) {}).code.toNat
             ∧ bit w 8 = ((s.roomState r).line.getD (2 * i) {}).reverse
             ∧ bits w 22 16 = ((s.roomState r).line.getD (2 * i + 1) {}).code.toNat
             ∧ bit w 24 = ((s.roomState r).line.getD (2 * i + 1) {}).reverse)
  ∧ (∀ (s : State) (r : Room), TablesCanonical s →
       let now := s.clock.minute
       let today := s.bookingsToday r
       let cell : Nat → Cell := fun n => (s.composeLine r).getD (n - 1) {}
       let covers : PoolEntry → Prop := fun e =>
         (e.start ≤ now ∨ e.state = .inUse ∧ ∃ m, e.checkinMinute = some m ∧ m ≤ now) ∧ now < e.stop
       let word : List Nat → Bool → Prop := fun w rev =>
         ∀ n, 1 ≤ n → n ≤ 8 → cell n = ⟨BitVec.ofNat 7 (w.getD (n - 1) 0x20), rev⟩
       let time : Nat → Prop := fun m =>
         cell 10 = ⟨BitVec.ofNat 7 (0x30 + m / 600), false⟩ ∧ cell 11 = ⟨BitVec.ofNat 7 (0x30 + m / 60 % 10), false⟩
           ∧ cell 12 = ⟨0x3A, false⟩ ∧ cell 13 = ⟨BitVec.ofNat 7 (0x30 + m % 60 / 10), false⟩
           ∧ cell 14 = ⟨BitVec.ofNat 7 (0x30 + m % 10), false⟩
       let refused := (s.roomState r).refusal = true
       let ending : PoolEntry → Prop := fun e => 0 < s.warn ∧ e.stop - now ≤ s.warn
       let windowOpen := ∃ q ∈ today, q.2.state = .booked ∧ q.2.start - s.early ≤ now ∧ now < q.2.stop
       ((s.composeLine r).length = 16 ∧ cell 9 = ⟨0x20, false⟩ ∧ cell 15 = ⟨0x20, false⟩)
       ∧ (refused → word [0x52, 0x45, 0x46, 0x55, 0x53, 0x45, 0x44] false)
       ∧ (∀ before b after, today = before ++ b :: after → covers b.2 → (∀ q ∈ before, ¬ covers q.2) →
           time b.2.stop ∧ cell 16 = ⟨if b.2.order.isSome then 0x43 else 0x20, false⟩
             ∧ (¬ refused → b.2.state = .inUse → ending b.2 → word [0x45, 0x4E, 0x44, 0x49, 0x4E, 0x47] true)
             ∧ (¬ refused → b.2.state = .inUse → ¬ ending b.2 → word [0x49, 0x4E, 0x20, 0x55, 0x53, 0x45] true)
             ∧ (¬ refused → b.2.state = .booked → word [0x42, 0x4F, 0x4F, 0x4B, 0x45, 0x44] false))
       ∧ ((∀ q ∈ today, ¬ covers q.2) →
           cell 16 = ⟨0x20, false⟩
             ∧ (¬ refused → windowOpen → word [0x42, 0x4F, 0x4F, 0x4B, 0x45, 0x44] false)
             ∧ (¬ refused → ¬ windowOpen → word [0x46, 0x52, 0x45, 0x45] false)
             ∧ (∀ before b after, today = before ++ b :: after → now < b.2.start → (∀ q ∈ before, ¬ now < q.2.start) →
                 time b.2.start)
             ∧ ((∀ q ∈ today, ¬ now < q.2.start) → ∀ n, 10 ≤ n → n ≤ 14 → cell n = ⟨0x20, false⟩))
       ∧ (((s.recompose r).roomState r).line = s.composeLine r
           ∧ (s.hasPanel r = true → (s.roomState r).line ≠ s.composeLine r →
               ((s.recompose r).panel r).dirty = true ∧ MarksRenewed s (s.recompose r) r false)
           ∧ ((s.roomState r).line = s.composeLine r → s.recompose r = s)))

/-! ### The memory-side port -/

/-- A free port grants the first waiting requester in the order host class, ADU, CQU, KLC, BSC; a busy one grants none.
A completed write has put the byte lanes it enabled into memory, and every other byte reads as before; a completed read
changes no byte. After an error the lanes of a write hold free values (the model's choice, log entry 9). The word that a
read returns is made of the four bytes at its address, the lowest in the least significant lane. -/
def Obligations.ArbiterAndCompletedAccess : Prop :=
  (∀ m : Mps,
     (m.granted.isSome → m.arbitrate = m)
     ∧ (m.granted = none →
         (∀ a, m.waiting.host = some a → m.arbitrate.granted = some a)
         ∧ (∀ a, m.waiting.host = none → m.waiting.adu = some a → m.arbitrate.granted = some a)
         ∧ (∀ a, m.waiting.host = none → m.waiting.adu = none → m.waiting.cqu = some a → m.arbitrate.granted = some a)
         ∧ (∀ a, m.waiting.host = none → m.waiting.adu = none → m.waiting.cqu = none → m.waiting.klc = some a →
             m.arbitrate.granted = some a)
         ∧ (∀ a, m.waiting.host = none → m.waiting.adu = none → m.waiting.cqu = none → m.waiting.klc = none →
             m.waiting.bsc = some a → m.arbitrate.granted = some a)))
  ∧ (∀ (s : State) (x : Access) (error nextFirst : Bool), s.mps.granted = some x → Memory.wf s.mem = true →
       Runs (.memoryAccessComplete error nextFirst) s fun t =>
         t.pending = s.pending
           ∧ (x.write = false → SameMemory s t)
           ∧ (x.write = true →
               (∀ a, (∀ k, k < 4 → x.lanes.getLsbD k = true → a ≠ wordBase x.addr + k) →
                 readByte t.mem a = readByte s.mem a)
               ∧ ∀ k, k < 4 → x.lanes.getLsbD k = true →
                   readByte t.mem (wordBase x.addr + k) =
                     laneByte (if error then Config.freeWord s.freeCount else x.data) k))
  ∧ (∀ (m : List Host.Cell) (a : Addr) (k : Nat), k < 4 → laneByte (readWord m a) k = readByte m (wordBase a + k))

/-- Memory completes a host access: the host sees the data of a read and the error as memory gave it, and the part makes
no record of it; a released held write leaves the held access EMPTY. The data of a read that failed is a free value (log
entry 9). The completion frees the port: the waiting access whose turn it is is granted, or, where the host's next
access arrives first, the port stays free for it, and it takes part in the grant before every other requester; how the
model puts that choice of the world is its own (log entry 8). -/
def Obligations.HostAccessCompletes : Prop :=
  (∀ (s : State) (x : Access) (error nextFirst : Bool), s.mps.granted = some x →
     (x.owner = .host →
       Runs (.memoryAccessComplete error nextFirst) s fun t =>
         LeavesAlone [.hostPort, .catering, .freeValues] s t ∧ t.mps.held = s.mps.held
           ∧ ∃ d, t.mps.hostResult = .done d error
             ∧ (x.write = true → d = none) ∧ (x.write = false → error = false → d = some (readWord s.mem x.addr))
             ∧ (x.write = false → d.isSome))
     ∧ (x.owner = .hostRelease →
         Runs (.memoryAccessComplete error nextFirst) s fun t =>
           LeavesAlone [.hostPort, .catering, .freeValues] s t ∧ t.mps.held = none ∧ t.mps.hostResult = .done none error))
  ∧ (∀ (s : State) (x : Access) (error : Bool), s.mps.granted = some x → x.owner = .host →
       (∀ w, ({ s.mps with granted := none } : Mps).arbitrate.granted = some w →
         Runs (.memoryAccessComplete error false) s fun t => t.mps.granted = some w)
       ∧ (s.mps.waiting.host = none →
           Runs (.memoryAccessComplete error true) s fun t =>
             t.mps.granted = none ∧ (∀ r w, s.mps.waiting.of r = some w → t.mps.waiting.of r = some w)
               ∧ ∀ a : HostAccess, Passes t a →
                   Runs (.hostAccessPass a) t fun u =>
                     u.mps.granted = some ⟨.host, a.write, a.addr, a.data, a.lanes⟩
                       ∧ ∀ r w, s.mps.waiting.of r = some w → u.mps.waiting.of r = some w))

/-- A memory error on the part's own accesses sets MEMERR where section 1.8 says so (a write of an order record, the
final write after RESTART, a write of a CLEAN, TURNOVER or KEEP visit), halts the kitchen link on a read of its
assembly, and leaves the rest of the work to go on. A visit whose W6 has been written ends there, its W7 left to be
written (log entry 25). A memory error on a word before W7 of an admission makes it VOID alone with reason MEMORY,
decided again with the trap marks as they then stand (log entry 24): the words of the refusal that fits the slot are
written, those of an EXTEND too (log entry 55), errors on these are not examined, and a walk-up ends refused at its
panel without a further word. Of the words written back, bits of no field are zero (log entry 33). A memory error on an
access that was granted before a RESTART still sets MEMERR on the writes of order records and of visits and on the reads
of KEEP visits; nothing else follows (log entry 36). -/
def Obligations.MemoryErrorsOfThePart : Prop :=
  (∀ (s : State) (x : Access) (nextFirst : Bool), s.mps.granted = some x →
     (x.owner = .cqu →
       Runs (.memoryAccessComplete true nextFirst) s fun t =>
         LeavesAlone [.ctu, .catering, .freeValues] s t ∧ t.ctu = { s.ctu with flags := s.ctu.flags ||| 0x800 }
           ∧ t.cqu.entries = (settle s).cqu.entries)
     ∧ (x.owner = .klcFinal →
         Runs (.memoryAccessComplete true nextFirst) s fun t =>
           LeavesAlone [.ctu, .catering, .freeValues] s t ∧ t.ctu = { s.ctu with flags := s.ctu.flags ||| 0x800 })
     ∧ (∀ w rest, x.owner = .aduTail → s.adu.tail = some ⟨w :: rest, .scanner⟩ →
         Runs (.memoryAccessComplete true nextFirst) s fun t =>
           LeavesAlone [.ctu, .adu, .catering, .freeValues] s t ∧ t.ctu = { s.ctu with flags := s.ctu.flags ||| 0x800 }
             ∧ t.adu = { s.adu with tail := none })
     ∧ (∀ w rest, x.owner = .aduTail → s.adu.tail = some ⟨w :: rest, .ignored⟩ →
         Runs (.memoryAccessComplete true nextFirst) s fun t => LeavesAlone [.adu, .catering, .freeValues] s t)
     ∧ (∀ r w1 w2 w3 rest, x.owner = .aduClaim → s.adu.claim = some (.cleanVisit r (w1 :: w2 :: w3 :: rest)) →
         Runs (.memoryAccessComplete true nextFirst) s fun t =>
           LeavesAlone [.ctu, .adu, .catering, .freeValues] s t
             ∧ t.ctu = { s.ctu with flags := s.ctu.flags ||| 0x800 }
             ∧ t.adu = { s.adu with claim := some (.cleanVisit r (w2 :: w3 :: rest)) })
     ∧ (∀ r w1 w2 w3 rest, x.owner = .aduClaim → s.adu.claim = some (.turnoverVisit r (w1 :: w2 :: w3 :: rest)) →
         Runs (.memoryAccessComplete true nextFirst) s fun t =>
           LeavesAlone [.ctu, .adu, .catering, .freeValues] s t
             ∧ t.ctu = { s.ctu with flags := s.ctu.flags ||| 0x800 }
             ∧ t.adu = { s.adu with claim := some (.turnoverVisit r (w2 :: w3 :: rest)) })
     ∧ (∀ r rebuilt w1 w2 w3 rest, x.owner = .aduClaim →
         s.adu.claim = some (.keepWriting r rebuilt (w1 :: w2 :: w3 :: rest)) →
         Runs (.memoryAccessComplete true nextFirst) s fun t =>
           LeavesAlone [.ctu, .adu, .catering, .freeValues] s t
             ∧ t.ctu = { s.ctu with flags := s.ctu.flags ||| 0x800 }
             ∧ t.adu = { s.adu with claim := some (.keepWriting r rebuilt (w2 :: w3 :: rest)) })
     ∧ (∀ r rebuilt w6 w7, x.owner = .aduClaim →
         s.adu.claim = some (.cleanVisit r [w6, w7]) ∨ s.adu.claim = some (.turnoverVisit r [w6, w7])
           ∨ s.adu.claim = some (.keepWriting r rebuilt [w6, w7]) →
         Runs (.memoryAccessComplete true nextFirst) s fun t =>
           bit t.ctu.flags 11 = true ∧ t.adu.claim = none ∧ t.adu.tail = some ⟨[w7], .scanner⟩)
     ∧ (∀ got c, x.owner = .klcAssembly → s.klc.stage = .assembling got → s.klc.context = some c →
         Runs (.memoryAccessComplete true nextFirst) s fun t =>
           LeavesAlone [.ctu, .catering, .freeValues] s t ∧ t.ctu = { s.ctu with kitchenCause := true }
             ∧ t.klc.link = .halted ∧ t.klc.halt = .memory ∧ t.klc.context = some c))
  ∧ (∀ (s : State) (a : Admission) (slot : SlotNo) (x : Access) (j : Judged) (back : List Word) (u v : WordWrite)
       (rest : List WordWrite) (nextFirst : Bool),
       s.mps.granted = some x → x.owner = .aduClaim → a.slot = some slot →
       let at_ : SlotRef := ⟨a.book, a.room, slot⟩
       let stamp : Word := BitVec.ofNat 32 a.taken.now ||| BitVec.ofNat 32 (a.taken.day * 2 ^ 16)
       let writes : List WordWrite → Prop := fun words =>
         Runs (.memoryAccessComplete true nextFirst) s fun t =>
           LeavesAlone [.adu, .catering, .freeValues] s t
             ∧ t.adu =
                 { s.adu with
                   claim :=
                     some
                       (.admission a (.writing ⟨{ void := true }, s.trapEnables, .refused .memory⟩ back words true)) }
       (s.adu.claim = some (.admission a (.writing j back (u :: v :: rest) false)) →
         (∀ e, a.kind ≠ .booknow → s.liveEntry at_ = some e →
           writes (entryWrites s { e with marks := {}, reason := .memory } e.state.booking .none e.source a.taken))
         ∧ (a.kind = .new → s.liveEntry at_ = none →
             writes
               [(s.slotAddr at_ 4, 0), (s.slotAddr at_ 5, 0x00090006), (s.slotAddr at_ 6, 0x00FF0000),
                 (s.slotAddr at_ 7, stamp)])
         ∧ (∀ w4 w5 w6, a.kind = .amend ∨ a.kind = .cancel ∨ a.kind = .badRequest → s.liveEntry at_ = none →
             back = [w4, w5, w6] →
             writes
               [(s.slotAddr at_ 4, w4 &&& 0x07FF07FF), (s.slotAddr at_ 5, w5 &&& 0x1F7 ||| 0x90000),
                 (s.slotAddr at_ 6, w6 &&& 0x00FF00FF), (s.slotAddr at_ 7, stamp)])
         ∧ (a.kind = .amend ∨ a.kind = .cancel ∨ a.kind = .badRequest → s.liveEntry at_ = none → back = [] →
             NothingHeldBack s →
             Runs (.memoryAccessComplete true nextFirst) s fun t =>
               t.adu = { s.adu with claim := none } ∧ ∀ h, s.mps.held = some h → ReleaseStands h t)
         ∧ (a.kind = .booknow → NothingHeldBack s → TablesCanonical s → s.hasPanel a.room = true →
             Runs (.memoryAccessComplete true nextFirst) s fun t =>
               t.adu = { s.adu with claim := none }
                 ∧ (s.trapEnables.void = false → t.ctu = { s.ctu with flags := s.ctu.flags ||| 1 })
                 ∧ (s.trapEnables.void = true → s.ctu.trapSlot = none →
                     ∃ r, t.ctu = { s.ctu with trapSlot := some r } ∧ r.kind = .void ∧ r.completed = true
                       ∧ r.reason = .memory ∧ r.start = 0 ∧ r.stop = 0)
                 ∧ t.atu.panelEvent = none ∧ (t.panel a.room).chime = .refuse ∧ (t.roomState a.room).refusal = true))
       ∧ (∀ w more error, s.adu.claim = some (.admission a (.writing j back (u :: v :: w :: more) true)) →
           Runs (.memoryAccessComplete error nextFirst) s fun t =>
             LeavesAlone [.adu, .catering, .freeValues] s t
               ∧ t.adu = { s.adu with claim := some (.admission a (.writing j back (v :: w :: more) true)) }))
  ∧ (∀ (s : State) (x : Access) (error nextFirst : Bool), s.mps.granted = some x →
       (x.owner = .orphanVisit ∨ x.owner = .orphanCqu ∨ x.owner = .orphanBsc →
         Runs (.memoryAccessComplete error nextFirst) s fun t =>
           LeavesAlone [.ctu, .freeValues, .catering] s t
             ∧ t.ctu = { s.ctu with flags := if error then s.ctu.flags ||| 0x800 else s.ctu.flags })
       ∧ (x.owner = .orphanAdu ∨ x.owner = .orphanKlc →
           Runs (.memoryAccessComplete error nextFirst) s fun t => LeavesAlone [.freeValues, .catering] s t))

/-! ### Claims: requests and admissions -/

/-- A NEW or AMEND request is taken once the arbiter is free and the cursor has passed its room: the claim begins with
the read of W0. While the cursor has not passed the room the claim waits, and so it does, and a panel claim too, while
another claim is in progress or a walk's claim stands at the arbiter. When W4, W5 and W6 have been read before a
refusal is written back, the words written keep their interval, the state, cause, source and origin, and the attendees
and order they showed, with no marks, the reason and the stamp; that bits of no field in them are written as zero is
read from section 12.1 (log entry 33). After a memory error on one of the three reads nothing is written, the refusal
is reported and its write released, and that its room is not marked is the model's (log entry 58). That the scanner's
next visit comes to stand at the arbiter with the taking is the model's (log entry 12). The reads of the proposal, and
those that come before a refusal is written back, go on after a memory error on one of them; that the data of the
failed read is not kept is the model's (log entry 18). -/
def Obligations.RequestBeginsWithItsReads : Prop :=
  (∀ (s : State) (r : RequestClaim), ArbiterFree s → s.adu.request = some r →
     let begun : AdmissionKind → State → Prop := fun k t =>
       ChangesOnly [.adu, .bsc] s t ∧ RequestTaken s t
         ∧ t.adu = { s.adu with request := none, claim := some (.admission (admissionOf s k r) (.proposal [])) }
         ∧ (s.mps.outstanding .adu = false → s.adu.tail = none →
             AccessStands ⟨.aduClaim, false, s.slotAddr r.at_ 0, 0, 15#4⟩ t)
     (CursorHasPassed s r.at_.book r.at_.room →
       (bits r.word 3 0 = 1 → Runs .requestNew s (begun .new)) ∧ (bits r.word 3 0 = 2 → Runs .requestAmend s (begun .amend)))
     ∧ (¬ CursorHasPassed s r.at_.book r.at_.room →
         ∀ c ∈ [Instr.requestNew, .requestAmend, .requestCancel, .requestNone, .badRequest], Runs c s (ChangesOnly [] s)))
  ∧ (∀ s : State, s.adu.claim.isSome ∨ s.atu.minuteClaim.isSome →
       ∀ c ∈ [Instr.requestNew, .requestAmend, .requestCancel, .requestNone, .badRequest, .booknow, .extend, .checkin,
           .endBooking],
         Runs c s (ChangesOnly [] s))
  ∧ (∀ (s : State) (a : Admission) (slot : SlotNo) (x : Access) (got : List (Option Word)) (error nextFirst : Bool),
       s.mps.granted = some x → x.owner = .aduClaim → x.write = false → a.slot = some slot → got.length < 2 →
       let next := got ++ [if error then none else some (readWord s.mem x.addr)]
       let goesOn : AdmissionStage → Prop := fun stage =>
         Runs (.memoryAccessComplete error nextFirst) s fun t =>
           LeavesAlone [.adu, .catering, .freeValues] s t ∧ SameMemory s t
             ∧ t.adu = { s.adu with claim := some (.admission a stage) }
       (a.kind = .new ∨ a.kind = .amend → s.adu.claim = some (.admission a (.proposal got)) → goesOn (.proposal next))
       ∧ (∀ j, s.adu.claim = some (.admission a (.readBack j got)) → goesOn (.readBack j next)))
  ∧ (∀ (s : State) (a : Admission) (slot : SlotNo) (x : Access) (j : Judged) (reason : Reason) (error nextFirst : Bool),
       s.mps.granted = some x → x.owner = .aduClaim → x.write = false → a.slot = some slot →
       a.kind = .amend ∨ a.kind = .cancel ∨ a.kind = .badRequest → j.outcome = .refused reason →
       let at_ : SlotRef := ⟨a.book, a.room, slot⟩
       let stamp : Word := BitVec.ofNat 32 a.taken.now ||| BitVec.ofNat 32 (a.taken.day * 2 ^ 16)
       let w6 := readWord s.mem x.addr
       s.liveEntry at_ = none →
       (∀ w4 w5, s.adu.claim = some (.admission a (.readBack j [some w4, some w5])) →
         Runs (.memoryAccessComplete false nextFirst) s fun t =>
           LeavesAlone [.adu, .catering] s t ∧ SameMemory s t
             ∧ t.adu =
                 { s.adu with
                   claim :=
                     some
                       (.admission a
                         (.writing j [w4, w5, w6]
                           [(s.slotAddr at_ 4, w4 &&& 0x07FF07FF),
                             (s.slotAddr at_ 5, w5 &&& 0x1F7 ||| BitVec.ofNat 32 (reason.code * 2 ^ 16)),
                             (s.slotAddr at_ 6, w6 &&& 0x00FF00FF), (s.slotAddr at_ 7, stamp)]
                           false)) })
       ∧ (∀ v4 v5, s.adu.claim = some (.admission a (.readBack j [v4, v5])) → error = true ∨ v4 = none ∨ v5 = none →
           NothingHeldBack s →
           Runs (.memoryAccessComplete error nextFirst) s fun t =>
             SameMemory s t ∧ t.adu = { s.adu with claim := none } ∧ (∀ h, s.mps.held = some h → ReleaseStands h t)
               ∧ t.ctu.changes = s.ctu.changes
               ∧ (j.kinds = { void := true } → j.enabled.void = false → t.ctu = { s.ctu with flags := s.ctu.flags ||| 1 })))

/-- A NONE request makes a DRAFT entry FREE, leaves the others, and releases its write. A CANCEL of a LIVE booking in an
in-service room goes to its writing: CANCELLED, with the interval, attendees, order, origin, marks and reason of the
entry. A CANCEL of a slot that is not LIVE, or of a room out of service, is VOID, and so is a BAD-REQUEST: not trapped,
it is written over a LIVE booking with no marks and the reason, or reads W4 to W6 of a slot that is not LIVE first;
trapped, it is withheld: the held write is dropped, the record is presented, and nothing of the booking side changes.
That the scanner's next visit comes to stand at the arbiter with the taking of a request is the model's (log entry 12).
-/
def Obligations.NoneCancelAndBadRequest : Prop :=
  (∀ (s : State) (r : RequestClaim) (h : HostAccess), ArbiterFree s → s.adu.request = some r →
     CursorHasPassed s r.at_.book r.at_.room → NothingHeldBack s → TablesCanonical s → s.mps.held = some h →
     bits r.word 3 0 = 0 →
     Runs .requestNone s fun t =>
       ChangesOnly [.adu, .bsc, .atu] s t ∧ RequestTaken s t
         ∧ t.adu = { s.adu with request := none, slotMap := t.adu.slotMap }
         ∧ t.slotState r.at_ = (if s.slotState r.at_ = .draft then .free else s.slotState r.at_)
         ∧ (∀ q, q ≠ r.at_ → t.slotState q = s.slotState q)
         ∧ ReleaseStands h t)
  ∧ (∀ (s : State) (r : RequestClaim) (e : PoolEntry), ArbiterFree s → s.adu.request = some r →
       CursorHasPassed s r.at_.book r.at_.room → bits r.word 3 0 = 3 → s.inService r.at_.room = true →
       s.liveEntry r.at_ = some e →
       Runs .requestCancel s fun t =>
         ChangesOnly [.adu, .bsc] s t ∧ RequestTaken s t
           ∧ t.adu =
               { s.adu with
                 request := none
                 claim :=
                   some
                     (.admission (admissionOf s .cancel r)
                       (.writing ⟨{}, s.trapEnables, .cancelled (e.order.toList.map fun o => .death o .cancel)⟩ []
                         (entryWrites s e .cancelled .none .none (admissionOf s .cancel r).taken) false)) })
  ∧ (∀ (s : State) (r : RequestClaim) (h : HostAccess), ArbiterFree s → s.adu.request = some r →
       CursorHasPassed s r.at_.book r.at_.room → bits r.word 3 0 = 3 →
       s.inService r.at_.room = false ∨ s.liveEntry r.at_ = none →
       let a := admissionOf s .cancel r
       let reason : Reason := if s.inService r.at_.room = false then .badRoom else .notLive
       let j : Judged := ⟨{ void := true }, s.trapEnables, .refused reason⟩
       (bit s.ctu.shadow.w9 0 = false → s.liveEntry r.at_ = none →
         Runs .requestCancel s fun t =>
           ChangesOnly [.adu, .bsc] s t ∧ RequestTaken s t
             ∧ t.adu = { s.adu with request := none, claim := some (.admission a (.readBack j [])) })
       ∧ (∀ e, bit s.ctu.shadow.w9 0 = false → s.liveEntry r.at_ = some e →
           Runs .requestCancel s fun t =>
             ChangesOnly [.adu, .bsc] s t ∧ RequestTaken s t
               ∧ t.adu =
                   { s.adu with
                     request := none
                     claim :=
                       some
                         (.admission a
                           (.writing j []
                             (entryWrites s { e with marks := {}, reason := reason } e.state.booking .none e.source a.taken)
                             false)) })
       ∧ (bit s.ctu.shadow.w9 0 = true → NothingHeldBack s → s.mps.held = some h → s.ctu.trapSlot = none →
           Runs .requestCancel s fun t =>
             ChangesOnly [.hostPort, .ctu, .adu, .bsc, .atu] s t
               ∧ t.adu = { s.adu with request := none }
               ∧ t.mps.held = none ∧ t.mps.hostResult = .done none false
               ∧ t.ctu =
                   { s.ctu with
                     trapSlot :=
                       some
                         { kind := .void, completed := false, kinds := { void := true }, reason := reason,
                           origin := .request, request := .cancel, book := r.at_.book, role := a.taken.role,
                           room := r.at_.room, slot := some r.at_.slot, day := s.clock.day, minute := s.clock.minute,
                           start := 0, stop := 0 } }))
  ∧ (∀ (s : State) (r : RequestClaim) (h : HostAccess), ArbiterFree s → s.adu.request = some r →
       CursorHasPassed s r.at_.book r.at_.room → 4 ≤ bits r.word 3 0 →
       let a := admissionOf s .badRequest r
       let j : Judged := ⟨{ void := true }, s.trapEnables, .refused .badRequest⟩
       (bit s.ctu.shadow.w9 0 = false → s.liveEntry r.at_ = none →
         Runs .badRequest s fun t =>
           ChangesOnly [.adu, .bsc] s t
             ∧ t.adu = { s.adu with request := none, claim := some (.admission a (.readBack j [])) })
       ∧ (∀ e, bit s.ctu.shadow.w9 0 = false → s.liveEntry r.at_ = some e →
           Runs .badRequest s fun t =>
             ChangesOnly [.adu, .bsc] s t
               ∧ t.adu =
                   { s.adu with
                     request := none
                     claim :=
                       some
                         (.admission a
                           (.writing j []
                             (entryWrites s { e with marks := {}, reason := .badRequest } e.state.booking .none e.source a.taken)
                             false)) })
       ∧ (bit s.ctu.shadow.w9 0 = true → NothingHeldBack s → s.mps.held = some h →
           Runs .badRequest s fun t =>
             ChangesOnly [.hostPort, .ctu, .adu, .bsc, .atu] s t
               ∧ t.adu = { s.adu with request := none }
               ∧ t.mps.held = none ∧ t.mps.hostResult = .done none false
               ∧ (s.ctu.trapSlot.isSome → t.ctu = { s.ctu with flags := s.ctu.flags ||| 0x400 })
               ∧ (s.ctu.trapSlot = none →
                   t.ctu =
                     { s.ctu with
                       trapSlot :=
                         some
                           { kind := .void, completed := false, kinds := { void := true }, reason := .badRequest,
                             origin := .request, request := .badRequest, book := r.at_.book, role := a.taken.role,
                             room := r.at_.room, slot := some r.at_.slot, day := s.clock.day, minute := s.clock.minute,
                             start := 0, stop := 0 } })))

/-- The VOID and FULL checks of NEW and AMEND in their order: the first one met refuses with its reason. The order
checks: BAD-ORDER for a record outside its ranges or a state that is not attachable, then ORDER-IN-USE for an order that
a binding holds. A NEW that names an order, and an AMEND that names another order than its booking's, are refused VOID
with the reason of the order check; a NEW that passes it is refused FULL where the free list is empty, whatever it
names; what passes is judged on its interval. -/
def Obligations.ChecksOfARequestInOrder : Prop :=
  (∀ (s : State) (a : Admission) (slot : SlotNo) (p : Proposal), a.slot = some slot →
     let at_ : SlotRef := ⟨a.book, a.room, slot⟩
     let start := bits p.w0 15 0
     let len := bits p.w0 31 16
     let badTime := 1440 ≤ start ∨ len = 0 ∨ 1440 < start + len
     let past := a.taken.role = .today ∧ start < a.taken.now
     let void : Reason → Prop := fun r => s.judge a p = ({ void := true }, .refused r)
     (a.kind = .new ∨ a.kind = .amend → p.error = true → void .memory)
     ∧ (a.kind = .new ∨ a.kind = .amend → p.error = false → s.inService a.room = false → void .badRoom)
     ∧ (a.kind = .new → p.error = false → s.inService a.room = true → (s.liveEntry at_).isSome → void .slotTaken)
     ∧ (a.kind = .amend → p.error = false → s.inService a.room = true → s.liveEntry at_ = none → void .notLive)
     ∧ (a.kind = .new → p.error = false → s.inService a.room = true → s.liveEntry at_ = none → badTime → void .badTime)
     ∧ (∀ e, a.kind = .amend → p.error = false → s.inService a.room = true → s.liveEntry at_ = some e → badTime →
         void .badTime)
     ∧ (a.kind = .new → p.error = false → s.inService a.room = true → s.liveEntry at_ = none → ¬ badTime → past →
         void .past)
     ∧ (∀ e, a.kind = .amend → p.error = false → s.inService a.room = true → s.liveEntry at_ = some e → ¬ badTime →
         start ≠ e.start → e.state = .inUse ∨ past → void .past)
     ∧ (a.kind = .new → p.error = false → s.inService a.room = true → s.liveEntry at_ = none → ¬ badTime → ¬ past →
         127 < bits p.w2 7 0 → bits p.w2 7 0 ≠ 255 → void .badOrder)
     ∧ (a.kind = .new → p.error = false → s.inService a.room = true → s.liveEntry at_ = none → ¬ badTime → ¬ past →
         bits p.w2 7 0 = 255 → s.adu.freeList = [] → s.judge a p = ({ full := true }, .refused .full)))
  ∧ (∀ (s : State) (p : Proposal) (o : OrderIx), bits p.w2 7 0 = o.val →
       let ranges := 1 ≤ bits p.o0 3 0 ∧ bits p.o0 3 0 ≤ s.stationCount ∧ bits p.o0 15 8 ≤ 240 ∧ bits p.o0 23 16 ≠ 0
       let attachable := bits p.o4 3 0 = 0 ∨ bits p.o4 3 0 = 5 ∨ bits p.o4 3 0 = 6 ∨ bits p.o4 3 0 = 8 ∨ bits p.o4 3 0 = 9
       (¬ ranges ∨ ¬ attachable → s.orderCheck p = some .badOrder)
       ∧ (ranges → attachable → (s.binding o).isSome → s.orderCheck p = some .orderInUse)
       ∧ (ranges → attachable → s.binding o = none → s.orderCheck p = none))
  ∧ (∀ (s : State) (a : Admission) (slot : SlotNo) (p : Proposal), a.slot = some slot → p.error = false →
       s.inService a.room = true →
       let at_ : SlotRef := ⟨a.book, a.room, slot⟩
       let start := bits p.w0 15 0
       let len := bits p.w0 31 16
       let w2 := bits p.w2 7 0
       let past := a.taken.role = .today ∧ start < a.taken.now
       let void : Reason → Prop := fun r => s.judge a p = ({ void := true }, .refused r)
       start < 1440 → len ≠ 0 → start + len ≤ 1440 →
       (a.kind = .new → s.liveEntry at_ = none → ¬ past →
         (∀ o : OrderIx, w2 = o.val →
           (∀ r, s.orderCheck p = some r → void r)
             ∧ (s.orderCheck p = none → s.adu.freeList = [] → s.judge a p = ({ full := true }, .refused .full))
             ∧ (s.orderCheck p = none → s.adu.freeList ≠ [] → s.judge a p = s.judgeInterval a at_ p none))
         ∧ (w2 = 255 → s.adu.freeList ≠ [] → s.judge a p = s.judgeInterval a at_ p none))
       ∧ (∀ e, a.kind = .amend → s.liveEntry at_ = some e → start = e.start ∨ (e.state = .booked ∧ ¬ past) →
           (∀ o : OrderIx, w2 = o.val → e.order ≠ some o →
             (∀ r, s.orderCheck p = some r → void r)
               ∧ (s.orderCheck p = none → s.judge a p = s.judgeInterval a at_ p (some e)))
           ∧ (∀ o : OrderIx, w2 = o.val → e.order = some o → s.judge a p = s.judgeInterval a at_ p (some e))
           ∧ (w2 = 255 → s.judge a p = s.judgeInterval a at_ p (some e))
           ∧ (127 < w2 → w2 ≠ 255 → void .badOrder)))

/-- The CLASH check: refused when some booking holds the start, or when the trimmed length is below MINLEN; otherwise
the start is kept and the admitted end overlaps no booking of the list. -/
def Obligations.AdmittedIntervalOverlapsNothing : Prop :=
  ∀ (l : List PoolEntry) (start stop minlen : Nat), start < stop →
    (clashCheck l start stop minlen = none →
      (∃ e ∈ l, e.start ≤ start ∧ start < e.stop)
        ∨ (∃ e ∈ l, Overlaps start stop e.start e.stop ∧ e.start - start < minlen))
    ∧ (∀ stop' trimmed, clashCheck l start stop minlen = some (stop', trimmed) →
        start < stop' ∧ stop' ≤ stop
          ∧ (∀ e ∈ l, ¬ Overlaps start stop' e.start e.stop)
          ∧ (trimmed = false → stop' = stop)
          ∧ (trimmed = true → minlen ≤ stop' - start ∧ ∃ e ∈ l, Overlaps start stop e.start e.stop ∧ e.start = stop'))

/-- CROWD caps the attendees at the capacity and SHORT detaches the order; each takes its mark, and the set of kinds
gains CROWD, SHORT and TRIM as section 4.5 states. A proposal that the CLASH check refuses is refused CLASH. An AMEND
keeps the entry's state, source, check-in minute and origin, and with its start also the deadline and the presence-seen
mark; a new start gives a new deadline and the presence-seen test of a NEW. Its order is kept, moved, detached as short,
ended by a death of kind release, or replaced, with the notices of section 4.6's table. -/
def Obligations.CrowdAndShortDefaults : Prop :=
  (∀ (s : State) (a : Admission) (at_ : SlotRef) (p : Proposal) (present : Option PoolEntry) (stop : Nat) (trimmed : Bool),
     let start := bits p.w0 15 0
     clashCheck (s.others a.book a.room (s.liveIndex at_)) start (start + bits p.w0 31 16) s.minlen = some (stop, trimmed) →
     ∃ k e ns, s.judgeInterval a at_ p present = (k, .admitted e ns)
       ∧ k.clash = trimmed ∧ k.trim = (trimmed && !a.quietTrim) ∧ k.void = false ∧ k.full = false
       ∧ k.crowd = decide (s.capacity a.room < bits p.w1 7 0)
       ∧ (e.start = start ∧ e.stop = stop ∧ e.reason = .none)
       ∧ e.attendees = min (bits p.w1 7 0) (s.capacity a.room)
       ∧ (e.marks.trimmed = trimmed ∧ e.marks.capped = k.crowd)
       ∧ (present = none → ∀ o : OrderIx, bits p.w2 7 0 = o.val →
           let due := (start : Int) - bits p.o0 15 8
           let isShort := due < 0 ∨ (a.taken.role = .today ∧ due < a.taken.now)
           (isShort → e.order = none ∧ e.marks.noCatering = true ∧ k.short = !a.quietShort)
             ∧ (¬ isShort → e.order = some o ∧ e.marks.noCatering = false ∧ k.short = false
                 ∧ ns = [.attach o a.taken.role at_ start (start - bits p.o0 15 8)])))
  ∧ (∀ (s : State) (a : Admission) (at_ : SlotRef) (p : Proposal),
       let start := bits p.w0 15 0
       let lead := bits p.o0 15 8
       let w2 := bits p.w2 7 0
       let due := (start : Int) - lead
       let isShort := due < 0 ∨ (a.taken.role = .today ∧ due < a.taken.now)
       let clash := clashCheck (s.others a.book a.room (s.liveIndex at_)) start (start + bits p.w0 31 16) s.minlen
       let sampled :=
         a.taken.role = .today ∧ s.hasPanel a.room = true
           ∧ ∃ q, (s.filter a.room).lastPresent = some q ∧ q.source = .sample ∧ q.day = a.taken.day ∧ start - s.early ≤ q.minute
       (∀ present, clash = none → s.judgeInterval a at_ p present = ({ clash := true }, .refused .clash))
       ∧ (∀ stop trimmed, clash = some (stop, trimmed) →
           ∃ k e ns, s.judgeInterval a at_ p none = (k, .admitted e ns)
             ∧ (e.at_ = at_ ∧ e.origin = .request ∧ e.deadline = start + s.grace ∧ (e.presenceSeen = true ↔ sampled))
             ∧ (w2 = 255 → e.order = none ∧ ns = [] ∧ k.short = false ∧ e.marks.noCatering = false))
       ∧ (∀ old stop trimmed, clash = some (stop, trimmed) →
           ∃ k e ns, s.judgeInterval a at_ p (some old) = (k, .admitted e ns)
             ∧ (e.at_ = old.at_ ∧ e.state = old.state ∧ e.source = old.source ∧ e.checkinMinute = old.checkinMinute
               ∧ e.origin = old.origin)
             ∧ (old.start = start → e.deadline = old.deadline ∧ e.presenceSeen = old.presenceSeen)
             ∧ (old.start ≠ start → e.deadline = start + s.grace ∧ (e.presenceSeen = true ↔ sampled))
             ∧ (let deaths : List Notice := old.order.toList.map fun o => .death o .release
                let kept : Option OrderIx → List Notice → Prop := fun o l =>
                  e.order = o ∧ ns = l ∧ k.short = false ∧ e.marks.noCatering = false
                let detached : List Notice → Prop := fun l =>
                  e.order = none ∧ ns = l ∧ k.short = !a.quietShort ∧ e.marks.noCatering = true
                (∀ o : OrderIx, w2 = o.val → old.order = some o →
                  (old.start = start → kept (some o) [])
                    ∧ (old.start ≠ start → ¬ isShort → kept (some o) [.move o start (start - lead)])
                    ∧ (old.start ≠ start → isShort → detached [.shortDetach o]))
                ∧ (w2 = 255 → kept none deaths)
                ∧ (∀ o : OrderIx, w2 = o.val → old.order ≠ some o →
                    (¬ isShort → kept (some o) (deaths ++ [.attach o a.taken.role at_ start (start - lead)]))
                      ∧ (isShort → detached deaths)))))

/-- The trap decision: a trap-enabled withholding kind stops the admission, and the record names the first of them in
the order VOID, FULL, CLASH, CROWD; nothing of the booking side changes, and no flag is set when the record is stored.
The held write of a request is dropped; a BOOKNOW or an EXTEND is answered REFUSE at the panel, with the refusal mark.
A completed admission reports after its W6 (its W7 is left to be written, log entry 25): each kind that is not
trap-enabled sets its flag; a trap-enabled one has a record presented, which an EMPTY Trap Slot stores and a FULL one
loses with OVERRUN; a completing trap names TRIM before SHORT, with the interval written; a VOID of reason MEMORY
names the interval of the LIVE booking, whose row it writes. That an EXTEND which a memory error turned VOID writes
that row too is the model's choice, against the words of R150, that a VOID EXTEND writes nothing (log entry 55). -/
def Obligations.WithheldAdmissionChangesNothing : Prop :=
  (∀ (s : State) (a : Admission) (p : Proposal) (h : HostAccess), a.kind.origin = .request → NothingHeldBack s →
     s.mps.held = some h →
     let k := (s.judge a p).1
     let en := s.trapEnables
     (k.void && en.void || k.full && en.full || k.clash && en.clash || k.crowd && en.crowd) = true →
       let t := s.decideAdmission a p
       let named : Kind :=
         if (k.void && en.void) = true then .void else if (k.full && en.full) = true then .full
         else if (k.clash && en.clash) = true then .clash else .crowd
       t.mem = s.mem ∧ t.adu = { s.adu with claim := none } ∧ t.cqu = s.cqu ∧ t.klc = s.klc ∧ t.mps.locked = s.mps.locked
         ∧ t.mps.held = none ∧ t.mps.hostResult = .done none false
         ∧ (s.ctu.trapSlot.isSome → t.ctu = { s.ctu with flags := s.ctu.flags ||| 0x400 })
         ∧ (s.ctu.trapSlot = none →
             ∃ r, t.ctu = { s.ctu with trapSlot := some r } ∧ r.kind = named ∧ r.completed = false ∧ r.kinds = k
               ∧ r.start = 0 ∧ r.stop = 0))
  ∧ ((∀ (s : State) (a : Admission) (p : Proposal), a.kind.origin = .panel → NothingHeldBack s → TablesCanonical s →
       s.hasPanel a.room = true →
       let k := (s.judge a p).1
       let en := s.trapEnables
       (k.void && en.void || k.full && en.full || k.clash && en.clash || k.crowd && en.crowd) = true →
         let t := s.decideAdmission a p
         let named : Kind :=
           if (k.void && en.void) = true then .void else if (k.full && en.full) = true then .full
           else if (k.clash && en.clash) = true then .clash else .crowd
         t.mem = s.mem ∧ t.mps = s.mps ∧ t.adu = { s.adu with claim := none } ∧ t.cqu = s.cqu ∧ t.klc = s.klc ∧ t.ocf = s.ocf
           ∧ (s.ctu.trapSlot.isSome → t.ctu = { s.ctu with flags := s.ctu.flags ||| 0x400 })
           ∧ (s.ctu.trapSlot = none →
               ∃ r, t.ctu = { s.ctu with trapSlot := some r } ∧ r.kind = named ∧ r.completed = false ∧ r.kinds = k
                 ∧ r.origin = .panel ∧ r.room = a.room ∧ r.start = 0 ∧ r.stop = 0)
           ∧ t.atu.panelEvent = none ∧ (t.panel a.room).chime = .refuse ∧ (t.panel a.room).dirty = true
           ∧ (t.roomState a.room).refusal = true)
     ∧ ∀ (s : State) (ev : PanelEvent), PanelMayBeTaken s ev → NothingHeldBack s → TablesCanonical s →
         s.hasPanel ev.room = true → bit s.ctu.shadow.w9 0 = true → s.ctu.trapSlot = none →
         let now := s.clock.minute
         let inUse : PoolEntry → Prop := fun e =>
           e.state = .inUse ∧ now < e.stop ∧ (e.start ≤ now ∨ ∃ m, e.checkinMinute = some m ∧ m ≤ now)
         let withheld : AdmissionKind → Reason → State → Prop := fun k reason t =>
           ChangesOnly [.ctu, .bsc, .plu, .atu] s t
             ∧ t.ctu =
                 { s.ctu with
                   trapSlot :=
                     some
                       { kind := .void, completed := false, kinds := { void := true }, reason := reason, origin := .panel,
                         request := k, book := s.clock.today, role := .today, room := ev.room, slot := none,
                         day := s.clock.day, minute := now, start := 0, stop := 0 } }
             ∧ t.atu.panelEvent = none ∧ (t.panel ev.room).chime = .refuse ∧ (t.roomState ev.room).refusal = true
         (ev.button = .booknow → s.walkUp ev.room = false → Runs .booknow s (withheld .booknow .notAllowed))
         ∧ (ev.button = .extend → (∀ b ∈ s.bookingsToday ev.room, ¬ inUse b.2) → Runs .extend s (withheld .extend .notLive)))
  ∧ (∀ (s : State) (a : Admission) (slot : SlotNo) (x : Access) (k en : KindSet) (o : Judgement) (back : List Word)
       (w6 w7 : WordWrite) (nextFirst second : Bool),
       s.mps.granted = some x → x.owner = .aduClaim → a.slot = some slot → NothingHeldBack s → TablesCanonical s →
       s.adu.claim = some (.admission a (.writing ⟨k, en, o⟩ back [w6, w7] second)) →
       let at_ : SlotRef := ⟨a.book, a.room, slot⟩
       let withholding := (k.void && en.void || k.full && en.full || k.clash && en.clash || k.crowd && en.crowd) = true
       let completing := (k.trim && en.trim || k.short && en.short) = true
       let names : TrapRecord → Prop := fun r =>
         r.completed = true ∧ r.kinds = k ∧ r.request = a.kind ∧ r.book = a.book ∧ r.role = a.taken.role ∧ r.room = a.room
           ∧ r.slot = some slot ∧ r.day = a.taken.day ∧ r.minute = a.taken.now
       Runs (.memoryAccessComplete false nextFirst) s fun t =>
         (bit t.ctu.flags 0 = (bit s.ctu.flags 0 || k.void && !en.void)
           ∧ bit t.ctu.flags 1 = (bit s.ctu.flags 1 || k.full && !en.full)
           ∧ bit t.ctu.flags 2 = (bit s.ctu.flags 2 || k.clash && !en.clash)
           ∧ bit t.ctu.flags 3 = (bit s.ctu.flags 3 || k.crowd && !en.crowd)
           ∧ bit t.ctu.flags 4 = (bit s.ctu.flags 4 || k.short && !en.short)
           ∧ bit t.ctu.flags 5 = (bit s.ctu.flags 5 || k.trim && !en.trim))
           ∧ (¬ withholding → ¬ completing →
               t.ctu.trapSlot = s.ctu.trapSlot ∧ bit t.ctu.flags 10 = bit s.ctu.flags 10)
           ∧ (withholding ∨ completing → s.ctu.trapSlot.isSome →
               t.ctu.trapSlot = s.ctu.trapSlot ∧ bit t.ctu.flags 10 = true)
           ∧ (∀ e ns, ¬ withholding → completing → s.ctu.trapSlot = none → o = .admitted e ns →
               ∃ r, t.ctu.trapSlot = some r ∧ names r
                 ∧ r.kind = (if (k.trim && en.trim) = true then .trim else .short)
                 ∧ r.reason = .none ∧ r.start = e.start ∧ r.stop = e.stop)
           ∧ (k = { void := true } → en.void = true → s.ctu.trapSlot = none → o = .refused .memory → a.kind ≠ .booknow →
               ∃ r, t.ctu.trapSlot = some r ∧ names r ∧ r.kind = .void ∧ r.reason = .memory
                 ∧ (∀ e, s.liveEntry at_ = some e → r.start = e.start ∧ r.stop = e.stop)
                 ∧ (s.liveEntry at_ = none → a.kind = .new → back = [] → r.start = 0 ∧ r.stop = 0)))

/-- The last read of a NEW without an order, in a room and a slot that can take it as it stands, leads to the writing of
BOOKED, or of IN-USE where a room without a panel is booked from now in the TODAY bank. -/
def Obligations.NewIsAdmitted : Prop :=
  ∀ (s : State) (a : Admission) (slot : SlotNo) (x : Access) (w0 w1 : Word) (nextFirst : Bool),
    s.mps.granted = some x → x.owner = .aduClaim → x.write = false →
    s.adu.claim = some (.admission a (.proposal [some w0, some w1])) → a.kind = .new → a.slot = some slot →
    let at_ : SlotRef := ⟨a.book, a.room, slot⟩
    let start := bits w0 15 0
    let stop := start + bits w0 31 16
    bits (readWord s.mem x.addr) 7 0 = 255 → s.inService a.room = true → s.liveEntry at_ = none →
    start < stop → stop ≤ 1440 → (a.taken.role = .today → a.taken.now ≤ start) → s.adu.freeList ≠ [] →
    (∀ b ∈ s.bookings a.book a.room, ¬ Overlaps start stop b.2.start b.2.stop) →
    bits w1 7 0 ≤ s.capacity a.room →
    let atOnce := a.taken.role = .today ∧ s.panelAddress a.room = 0 ∧ start = a.taken.now
    Runs (.memoryAccessComplete false nextFirst) s fun t =>
      LeavesAlone [.adu, .catering] s t ∧ SameMemory s t
        ∧ ∃ e : PoolEntry,
          t.adu =
              { s.adu with
                claim :=
                  some
                    (.admission a
                      (.writing ⟨{}, s.trapEnables, .admitted e []⟩ []
                        (entryWrites s e (if atOnce then .inUse else .booked) .none e.source a.taken) false)) }
            ∧ (e.at_ = at_ ∧ e.start = start ∧ e.stop = stop ∧ e.attendees = bits w1 7 0 ∧ e.order = none)
            ∧ (e.origin = .request ∧ e.marks = {} ∧ e.reason = .none ∧ e.deadline = start + s.grace)
            ∧ (atOnce → e.state = .inUse ∧ e.source = .auto ∧ e.checkinMinute = some a.taken.now)
            ∧ (¬ atOnce → e.state = .booked ∧ e.source = .none ∧ e.checkinMinute = none)

/-- The admitted half that shows an entry: four words at W4 to W7 with the fields of section 12.3. The words a CLEAN or
TURNOVER visit writes: W3 with kind NONE, then the EMPTY contents with the stamp of the visit. The four words of a trap
record, with the fields of section 12.2. The words O4 to O7 of an order's entry, with the fields of section 12.4. In all
of these the bits of no field are zero. -/
def Obligations.AdmittedHalfWords : Prop :=
  (∀ (s : State) (e : PoolEntry) (st : BookingState) (cause : EndCause) (src : Source) (k : Taken),
     e.start ≤ 1440 → e.stop ≤ 1440 → e.attendees ≤ 255 → k.now ≤ 1439 → k.day ≤ 65535 →
     ∃ w4 w5 w6 w7,
       entryWrites s e st cause src k =
           [(s.slotAddr e.at_ 4, w4), (s.slotAddr e.at_ 5, w5), (s.slotAddr e.at_ 6, w6), (s.slotAddr e.at_ 7, w7)]
         ∧ (bits w4 10 0 = e.start ∧ bits w4 26 16 = e.stop)
         ∧ (bits w5 2 0 = st.code ∧ bits w5 5 4 = cause.code ∧ bits w5 7 6 = src.code ∧ bits w5 8 8 = e.origin.code)
         ∧ (bit w5 12 = e.marks.trimmed ∧ bit w5 13 = e.marks.capped ∧ bit w5 14 = e.marks.noCatering
           ∧ bits w5 19 16 = e.reason.code)
         ∧ (bits w6 7 0 = e.attendees ∧ bits w6 23 16 = (match e.order with | some o => o.val | none => 255))
         ∧ (bits w7 10 0 = k.now ∧ bits w7 31 16 = k.day)
         ∧ (w4 &&& 0x07FF07FF = w4 ∧ w5 &&& 0x000F71F7 = w5 ∧ w6 &&& 0x00FF00FF = w6 ∧ w7 &&& 0xFFFF07FF = w7))
  ∧ (∀ (s : State) (r : SlotRef) (k : Taken),
       emptyWrites s r k =
         [(s.slotAddr r 3, 0), (s.slotAddr r 4, 0), (s.slotAddr r 5, 0), (s.slotAddr r 6, 0x00FF0000),
           (s.slotAddr r 7, BitVec.ofNat 32 k.now ||| BitVec.ofNat 32 (k.day * 2 ^ 16))])
  ∧ (∀ r : TrapRecord, r.minute ≤ 1439 → r.day ≤ 65535 → r.start ≤ 1440 → r.stop ≤ 1440 →
       (bits r.word12 2 0 =
           (match r.kind with | .void => 1 | .full => 2 | .clash => 3 | .crowd => 4 | .short => 5 | .trim => 6)
         ∧ bit r.word12 3 = r.completed)
       ∧ (bit r.word12 4 = r.kinds.void ∧ bit r.word12 5 = r.kinds.full ∧ bit r.word12 6 = r.kinds.clash
         ∧ bit r.word12 7 = r.kinds.crowd ∧ bit r.word12 8 = r.kinds.short ∧ bit r.word12 9 = r.kinds.trim)
       ∧ (bits r.word12 13 10 =
           (match r.reason with
             | .none => 0 | .badRequest => 1 | .badTime => 2 | .past => 3 | .badRoom => 4 | .slotTaken => 5
             | .notLive => 6 | .badOrder => 7 | .orderInUse => 8 | .memory => 9 | .full => 10 | .clash => 11
             | .crowd => 12 | .noSlot => 13 | .notAllowed => 14 | .notOpen => 15)
         ∧ bits r.word12 14 14 = (match r.origin with | .request => 0 | .panel => 1)
         ∧ bits r.word12 17 15 =
             (match r.request with
               | .new => 1 | .amend => 2 | .cancel => 3 | .badRequest => 4 | .booknow => 5 | .extend => 6))
       ∧ (bits r.word12 18 18 = (match r.book with | .bookA => 0 | .bookB => 1)
         ∧ bits r.word12 19 19 = (match r.role with | .today => 0 | .next => 1)
         ∧ bits r.word12 25 20 = r.room.val
         ∧ bits r.word12 30 26 = (match r.slot with | some n => n.val | none => 31) ∧ bit r.word12 31 = false)
       ∧ (bits r.word13 10 0 = r.minute ∧ bits r.word13 31 16 = r.day ∧ bits r.word13 15 11 = 0)
       ∧ (r.word14.toNat = r.start ∧ r.word15.toNat = r.stop))
  ∧ (∀ e : OrderEntry, e.due ≤ 1439 → e.accepted ≤ 8 → e.total ≤ 8 → e.retries ≤ 7 →
       (bits (orderWord e 0) 3 0 =
           (match e.state with
             | .unused => 0 | .attached => 1 | .due => 2 | .sending => 3 | .accepted => 4 | .detached => 5
             | .cancelled => 6 | .recalling => 7 | .recalled => 8 | .failed => 9)
         ∧ bit (orderWord e 0) 8 = e.resend ∧ orderWord e 0 &&& 0x10F = orderWord e 0)
       ∧ (bits (orderWord e 1) 10 0 = e.due ∧ bits (orderWord e 1) 12 12 = (match e.role with | .today => 0 | .next => 1)
         ∧ bits (orderWord e 1) 21 16 = e.at_.room.val ∧ bits (orderWord e 1) 27 24 = e.at_.slot.val
         ∧ orderWord e 1 &&& 0x0F3F17FF = orderWord e 1)
       ∧ (bits (orderWord e 2) 3 0 = e.accepted ∧ bits (orderWord e 2) 11 8 = e.total
         ∧ orderWord e 2 &&& 0xF0F = orderWord e 2)
       ∧ (bits (orderWord e 3) 1 0 = (match e.verdict with | .none => 0 | .accept => 1 | .checkfail => 2)
         ∧ bits (orderWord e 3) 10 8 = e.retries
         ∧ bits (orderWord e 3) 17 16 = (match e.failure with | .none => 0 | .soft => 1 | .stale => 2)
         ∧ orderWord e 3 &&& 0x30703 = orderWord e 3))

/-- When W6 of an admission has been written without an error, the outcome is committed, with W7 left to be written
(log entry 25). A NEW or a BOOKNOW takes the head of the free list; its slot becomes LIVE, its entry stands in the
Room Schedule in the place its start gives, and its order is bound. An AMEND or an EXTEND changes its entry in place:
a start that changed moves it within its Room Schedule, and the bindings follow the order. A CANCEL ends its booking:
the entry leaves the Room Schedule and is appended to the free list, the slot is FREE, and the binding has ended; so
does every death. A refusal changes the last marks and the last reason of a LIVE slot's entry alone; that this holds
of an EXTEND which a memory error turned VOID too, and that its room is marked, is the model's choice, against the
words of R150 and R152 (log entry 55). The notices are taken by the Catering Queue Unit as the attach, move,
short-detach and death notices are; the room is marked in the Change Summary; a held write is released, and a panel is
answered. -/
def Obligations.NewCommitsAfterW6 : Prop :=
  (∀ (s : State) (a : Admission) (slot : SlotNo) (x : Access) (k : KindSet) (en : KindSet) (e : PoolEntry) (ns : List Notice)
     (back : List Word) (w6 w7 : WordWrite) (i : Nat) (rest : List Nat) (nextFirst second : Bool),
     s.mps.granted = some x → x.owner = .aduClaim → a.kind = .new ∨ a.kind = .booknow → a.slot = some slot →
     e.at_ = ⟨a.book, a.room, slot⟩ → s.liveIndex e.at_ = none → s.adu.freeList = i :: rest →
     NothingHeldBack s → TablesCanonical s →
     s.adu.claim = some (.admission a (.writing ⟨k, en, .admitted e ns⟩ back [w6, w7] second)) →
     Runs (.memoryAccessComplete false nextFirst) s fun t =>
       LeavesAlone [.ctu, .adu, .plu, .atu, .catering] s t
         ∧ t.adu.claim = none ∧ t.adu.tail = some ⟨[w7], .ignored⟩
         ∧ t.slotState e.at_ = .live i ∧ (∀ q, q ≠ e.at_ → t.slotState q = s.slotState q)
         ∧ t.entry i = some e ∧ (∀ j, j ≠ i → t.entry j = s.entry j) ∧ t.adu.freeList = rest
         ∧ PlacedByStart t.startOf i (t.schedule a.book a.room) (s.schedule a.book a.room)
         ∧ (∀ o, e.order = some o → t.binding o = some i) ∧ (∀ o, e.order ≠ some o → t.binding o = s.binding o)
         ∧ (∀ n, ns = [n] → NoticeTaken s t n)
         ∧ t.ctu.changes.getLsbD a.room.val = true
         ∧ (∀ h, a.kind = .new → s.mps.held = some h → ReleaseStands h t)
         ∧ (a.kind = .booknow → s.hasPanel a.room = true →
             t.atu.panelEvent = none ∧ (t.panel a.room).chime = .confirm ∧ (t.panel a.room).dirty = true))
  ∧ (∀ (s : State) (a : Admission) (slot : SlotNo) (x : Access) (k en : KindSet) (e old : PoolEntry) (ns : List Notice)
       (back : List Word) (w6 w7 : WordWrite) (i : Nat) (nextFirst second : Bool),
       s.mps.granted = some x → x.owner = .aduClaim → a.slot = some slot → e.at_ = ⟨a.book, a.room, slot⟩ →
       s.liveIndex e.at_ = some i → s.entry i = some old → NothingHeldBack s → TablesCanonical s →
       s.adu.claim = some (.admission a (.writing ⟨k, en, .admitted e ns⟩ back [w6, w7] second)) →
       a.kind = .amend ∨ a.kind = .extend →
       Runs (.memoryAccessComplete false nextFirst) s fun t =>
         LeavesAlone [.ctu, .adu, .plu, .atu, .catering] s t
           ∧ (t.adu.claim = none ∧ t.adu.tail = some ⟨[w7], .ignored⟩ ∧ t.adu.freeList = s.adu.freeList
             ∧ t.adu.slotMap = s.adu.slotMap)
           ∧ t.entry i = some e ∧ (∀ j, j ≠ i → t.entry j = s.entry j)
           ∧ (old.start = e.start → t.adu.schedules = s.adu.schedules)
           ∧ (old.start ≠ e.start →
               PlacedByStart t.startOf i (t.schedule a.book a.room) ((s.schedule a.book a.room).filter (· != i)))
           ∧ (∀ o, e.order = some o → t.binding o = some i)
           ∧ (∀ o, e.order ≠ some o → t.binding o = if old.order = some o then none else s.binding o)
           ∧ (∀ n, ns = [n] → NoticeTaken s t n)
           ∧ (∀ o kind q role start due, ns = [.death o kind, .attach q role e.at_ start due] → o ≠ q →
               NoticeTaken s t (.death o kind) ∧ NoticeTaken s t (.attach q role e.at_ start due))
           ∧ t.ctu.changes.getLsbD a.room.val = true
           ∧ (∀ h, a.kind = .amend → s.mps.held = some h → ReleaseStands h t)
           ∧ (a.kind = .extend → s.hasPanel a.room = true →
               t.atu.panelEvent = none ∧ (t.panel a.room).chime = .confirm ∧ (t.panel a.room).dirty = true))
  ∧ (∀ (s : State) (a : Admission) (slot : SlotNo) (x : Access) (k en : KindSet) (e : PoolEntry) (ns : List Notice)
       (back : List Word) (w6 w7 : WordWrite) (i : Nat) (h : HostAccess) (nextFirst second : Bool),
       s.mps.granted = some x → x.owner = .aduClaim → a.kind = .cancel → a.slot = some slot →
       e.at_ = ⟨a.book, a.room, slot⟩ → s.liveIndex e.at_ = some i → s.entry i = some e → NothingHeldBack s →
       TablesCanonical s → s.mps.held = some h →
       s.adu.claim = some (.admission a (.writing ⟨k, en, .cancelled ns⟩ back [w6, w7] second)) →
       Runs (.memoryAccessComplete false nextFirst) s fun t =>
         LeavesAlone [.ctu, .adu, .plu, .atu, .catering] s t
           ∧ t.adu.claim = none ∧ t.adu.tail = some ⟨[w7], .ignored⟩
           ∧ t.slotState e.at_ = .free ∧ (∀ q, q ≠ e.at_ → t.slotState q = s.slotState q)
           ∧ t.entry i = none ∧ (∀ j, j ≠ i → t.entry j = s.entry j) ∧ t.adu.freeList = s.adu.freeList ++ [i]
           ∧ t.schedule a.book a.room = (s.schedule a.book a.room).filter (· != i)
           ∧ (∀ o, t.binding o = if e.order = some o then none else s.binding o)
           ∧ (∀ n, ns = [n] → NoticeTaken s t n)
           ∧ t.ctu.changes.getLsbD a.room.val = true ∧ ReleaseStands h t)
  ∧ (∀ (s : State) (a : Admission) (slot : SlotNo) (x : Access) (k en : KindSet) (r : Reason) (back : List Word)
       (w6 w7 : WordWrite) (nextFirst second : Bool),
       s.mps.granted = some x → x.owner = .aduClaim → a.kind ≠ .booknow → a.slot = some slot → NothingHeldBack s →
       TablesCanonical s → s.adu.claim = some (.admission a (.writing ⟨k, en, .refused r⟩ back [w6, w7] second)) →
       let at_ : SlotRef := ⟨a.book, a.room, slot⟩
       Runs (.memoryAccessComplete false nextFirst) s fun t =>
         LeavesAlone [.ctu, .adu, .plu, .atu, .catering] s t
           ∧ t.adu = { s.adu with claim := none, tail := some ⟨[w7], .ignored⟩, pool := t.adu.pool }
           ∧ (∀ i e, s.liveIndex at_ = some i → s.entry i = some e →
               t.entry i = some { e with marks := {}, reason := r } ∧ ∀ j, j ≠ i → t.entry j = s.entry j)
           ∧ (s.liveEntry at_ = none → t.adu.pool = s.adu.pool)
           ∧ t.cqu.entries = (settle s).cqu.entries
           ∧ t.ctu.changes.getLsbD a.room.val = true
           ∧ (∀ h, a.kind ≠ .extend → s.mps.held = some h → ReleaseStands h t)
           ∧ (a.kind = .extend → s.hasPanel a.room = true →
               t.atu.panelEvent = none ∧ (t.panel a.room).chime = .refuse ∧ (t.roomState a.room).refusal = true))
  ∧ (∀ (s : State) (i : Nat) (e : PoolEntry), s.entry i = some e → TablesCanonical s →
       let t := s.freeEntry i
       t.adu.freeList = s.adu.freeList ++ [i] ∧ t.entry i = none ∧ (∀ j, j ≠ i → t.entry j = s.entry j)
         ∧ t.slotState e.at_ = .free ∧ (∀ q, q ≠ e.at_ → t.slotState q = s.slotState q)
         ∧ t.schedule e.at_.book e.at_.room = (s.schedule e.at_.book e.at_.room).filter (· != i)
         ∧ (∀ o, e.order = some o → t.binding o = none)
         ∧ (∀ o, e.order ≠ some o → t.binding o = s.binding o))

/-! ### Claims: the Bank Scanner -/

/-- A CLEAN visit sets its slot FREE unless it is DRAFT and begins to write the EMPTY contents; a KEEP visit begins with
the read of W5. That the Slot Map changes at the taking of a CLEAN visit is the model's (log entry 19). -/
def Obligations.CleanAndKeepVisitsBegin : Prop :=
  ∀ s : State, s.adu.claim = none → NoNoticeWaits s → s.bsc.opening = false → TablesCanonical s →
    let r := s.bsc.cursor
    (s.bsc.pass = .clean →
      Runs .cleanVisit s fun t =>
        ChangesOnly [.adu, .bsc] s t ∧ t.bsc = { s.bsc with presented := false }
          ∧ t.adu =
              { s.adu with
                slotMap := t.adu.slotMap
                claim := some (.cleanVisit r (emptyWrites s r (s.takenFor r.book))) }
          ∧ t.slotState r = (if s.slotState r = .draft then .draft else .free)
          ∧ (∀ q, q ≠ r → t.slotState q = s.slotState q)
          ∧ (s.mps.outstanding .adu = false → s.adu.tail = none → AccessStands ⟨.aduClaim, true, s.slotAddr r 3, 0, 15#4⟩ t))
    ∧ (s.bsc.pass = .keep →
        Runs .keepVisit s fun t =>
          ChangesOnly [.adu, .bsc] s t ∧ t.bsc = { s.bsc with presented := false }
            ∧ t.adu = { s.adu with claim := some (.keepReading r (s.takenFor r.book) []) }
            ∧ (s.mps.outstanding .bsc = false → AccessStands ⟨.bsc, false, s.slotAddr r 5, 0, 15#4⟩ t))

/-- The opening claim of a TURNOVER pass makes every DRAFT entry of the swept book FREE and writes nothing; a visit
frees the booking of a LIVE slot, gives its order a death notice of kind end, marks its room, and begins to write the
EMPTY contents. That it does so at its taking (log entries 19 and 32), and that the next visit does not yet stand at the
arbiter (log entry 12), are the model's. -/
def Obligations.TurnoverClaims : Prop :=
  ∀ s : State, s.adu.claim = none → NoNoticeWaits s → s.bsc.pass = .turnover → TablesCanonical s →
    let r := s.bsc.cursor
    (s.bsc.opening = true → NothingHeldBack s →
      Runs .turnoverOpening s fun t =>
        ChangesOnly [.adu, .bsc, .atu] s t ∧ t.bsc = { s.bsc with presented := false, opening := false }
          ∧ t.adu = { s.adu with slotMap := t.adu.slotMap }
          ∧ ∀ q, t.slotState q = if q.book = r.book ∧ s.slotState q = .draft then .free else s.slotState q)
    ∧ (s.bsc.opening = false → s.liveIndex r = none →
        Runs .turnoverVisit s fun t =>
          ChangesOnly [.adu, .bsc] s t ∧ t.bsc = { s.bsc with presented := false }
            ∧ t.adu = { s.adu with claim := some (.turnoverVisit r (emptyWrites s r (s.takenFor r.book))) })
    ∧ (∀ i e, s.bsc.opening = false → s.liveIndex r = some i → s.entry i = some e → e.at_ = r →
        Runs .turnoverVisit s fun t =>
          ChangesOnly [.ctu, .adu, .bsc, .catering] s t ∧ t.bsc = { s.bsc with presented := false }
            ∧ t.adu.claim = some (.turnoverVisit r (emptyWrites s r (s.takenFor r.book)))
            ∧ t.slotState r = .free ∧ t.entry i = none ∧ t.adu.freeList = s.adu.freeList ++ [i]
            ∧ (∀ o, e.order = some o → t.binding o = none ∧ NoticeTaken s t (.death o (.ended .time)))
            ∧ t.ctu.changes.getLsbD r.room.val = true)

/-- When W6 of a CLEAN visit has been written the visit ends: the cursor goes to the next slot in ascending slot, room
and book; after the last slot of Book B the pass ends, the phase becomes RUNNING, the START's code is DONE, and SCAN is
pending. A CLEAN or KEEP pass that ends with deferred marks takes the deferred day end and then the deferred minute,
which finds no walk under way and no minute-driven claim at the arbiter, as every step keeps it outside RUNNING; a
TURNOVER pass that ends with the held day end takes it. A visit ends with W7 left to be written (log entry 25), and the
next visit does not yet stand at the arbiter (log entry 12). The argument of 0 in the command state (log entry 17), the
link's first work after the marks (log entry 40), and that nothing else waits to come before the end of the pass (log
entry 50), are the model's. -/
def Obligations.CleanVisitEnds : Prop :=
  (∀ (s : State) (r : SlotRef) (x : Access) (w6 w7 : WordWrite) (nextFirst : Bool),
     s.mps.granted = some x → x.owner = .aduClaim → s.adu.claim = some (.cleanVisit r [w6, w7]) → s.bsc.pass = .clean →
     s.bsc.cursor = r → NothingHeldBack s →
     (∀ slot : SlotNo, slot.val = r.slot.val + 1 →
       Runs (.memoryAccessComplete false nextFirst) s fun t =>
         LeavesAlone [.adu, .bsc, .atu, .catering] s t ∧ t.adu = { s.adu with claim := none, tail := some ⟨[w7], .scanner⟩ }
           ∧ t.bsc = { s.bsc with cursor := { r with slot := slot } })
     ∧ (∀ room : Room, r.slot.val = 15 → room.val = r.room.val + 1 →
         Runs (.memoryAccessComplete false nextFirst) s fun t =>
           t.bsc = { s.bsc with cursor := ⟨r.book, room, 0⟩ } ∧ t.ctu = s.ctu)
     ∧ (r = ⟨.bookA, 63, 15⟩ →
         Runs (.memoryAccessComplete false nextFirst) s fun t =>
           t.bsc = { s.bsc with cursor := ⟨.bookB, 0, 0⟩ } ∧ t.ctu = s.ctu)
     ∧ (∀ k, r = ⟨.bookB, 63, 15⟩ → s.clock.deferredMinute = false → s.clock.deferredDayEnd = false →
         s.ctu.runningStart = some k →
         Runs (.memoryAccessComplete false nextFirst) s fun t =>
           LeavesAlone [.ctu, .adu, .bsc, .atu, .catering] s t
             ∧ t.bsc = State.reset.bsc
             ∧ t.ctu =
                 { s.ctu with
                   phase := .running, runningStart := none, scanCause := true
                   command :=
                     { code := (match k with | .clean => 1 | .keep => 2), argument := 0, status := .done, reason := .none } }))
  ∧ (∀ (s : State) (x : Access) (w6 w7 : WordWrite) (nextFirst : Bool), s.mps.granted = some x → x.owner = .aduClaim →
       NothingHeldBack s → TablesCanonical s →
       let r := s.bsc.cursor
       let turnover : Bsc := { pass := .turnover, cursor := ⟨s.clock.today, 0, 0⟩, opening := true, presented := true }
       let dayCloses : State → Prop := fun t =>
         ∀ o e, s.orderEntry o = some e → e.at_.book = s.clock.today →
           (o ∈ s.cqu.queue → t.orderEntry o = some { e with state := .cancelled } ∧ o ∉ t.cqu.queue)
             ∧ (o ∉ s.cqu.queue → e.state = .accepted → t.orderEntry o = some { e with state := .detached })
       (∀ k rebuilt, s.adu.claim = some (.keepWriting r rebuilt [w6, w7]) ∧ s.bsc.pass = .keep
           ∨ s.adu.claim = some (.cleanVisit r [w6, w7]) ∧ s.bsc.pass = .clean →
         r = ⟨.bookB, 63, 15⟩ → s.ctu.runningStart = some k →
         Runs (.memoryAccessComplete false nextFirst) s fun t =>
           (t.ctu.phase = .running ∧ t.ctu.runningStart = none ∧ t.ctu.scanCause = true
             ∧ t.ctu.command =
                 { code := (match k with | .clean => 1 | .keep => 2), argument := 0, status := .done, reason := .none })
             ∧ t.clock =
                 { s.clock with
                   deferredMinute := false, deferredDayEnd := false
                   today := if s.clock.deferredDayEnd then s.clock.today.other else s.clock.today }
             ∧ t.bsc = (if s.clock.deferredDayEnd then turnover else State.reset.bsc)
             ∧ (s.clock.deferredDayEnd = true → dayCloses t)
             ∧ (s.clock.deferredMinute = true → s.atu.walk = none → s.atu.minuteClaim = none →
                 ∀ q, (t.roomState q).refusal = false))
       ∧ (∀ (rebuilt : Bool) (slot : SlotNo), s.adu.claim = some (.keepWriting r rebuilt [w6, w7]) → s.bsc.pass = .keep →
           slot.val = r.slot.val + 1 →
           Runs (.memoryAccessComplete false nextFirst) s fun t =>
             LeavesAlone [.adu, .bsc, .plu, .atu, .catering] s t
               ∧ t.adu = { s.adu with claim := none, tail := some ⟨[w7], .scanner⟩ }
               ∧ t.bsc = { s.bsc with cursor := { r with slot := slot } })
       ∧ (∀ slot : SlotNo, s.adu.claim = some (.turnoverVisit r [w6, w7]) → s.bsc.pass = .turnover →
           slot.val = r.slot.val + 1 →
           Runs (.memoryAccessComplete false nextFirst) s fun t =>
             LeavesAlone [.adu, .bsc, .atu, .catering] s t
               ∧ t.adu = { s.adu with claim := none, tail := some ⟨[w7], .scanner⟩ }
               ∧ t.bsc = { s.bsc with cursor := { r with slot := slot } })
       ∧ (s.adu.claim = some (.turnoverVisit r [w6, w7]) → s.bsc.pass = .turnover → r.room = 63 → r.slot = 15 →
           Runs (.memoryAccessComplete false nextFirst) s fun t =>
             t.ctu = { s.ctu with scanCause := true }
               ∧ t.clock =
                   { s.clock with
                     heldDayEnd := false
                     today := if s.clock.heldDayEnd then s.clock.today.other else s.clock.today }
               ∧ t.bsc = (if s.clock.heldDayEnd then turnover else State.reset.bsc)
               ∧ (s.clock.heldDayEnd = true → dayCloses t)))

/-- A memory error on W5, W4 or W6 of a KEEP visit sets MEMERR and has the slot written REFUSED, reason MEMORY, with
its room marked, and no further read is made; that the room is marked before the writes is the model's (log entry 32).
The reads of the order go on after an error on one of them (log entry 18), which sets MEMERR too. The checks of a KEEP
visit on a live slot, in their order. A dead slot is left alone; a live slot without an order is rebuilt, refused or
ended as its checks decide, and one whose order number names no order is rebuilt detached. The order that a rebuilt
booking names is handed over with the fate of its judgement, and so is that of an ended or a refused slot, as the
table of R103 and R166 have it (against the closing words of R103, log entry 49); the state it takes is the table's,
its mark in the locked-order set follows that state whatever the fate (against the words of R11, log entry 60), its
words go onto the write list, and one that becomes FAILED makes KITCHEN pending. No other order changes, and one that
is not handed over stays as it was, its mark too. The order that a rebuilt booking keeps is locked. A rebuilt booking
keeps its order where O4 shows ATTACHED, DUE, SENDING, ACCEPTED or RECALLING, and stands without it where the
hand-over is not made or is refused as held (log entry 37); one read SENDING that is not full becomes DUE whatever its
book, which for the NEXT book is the model's choice against section 10.3 (log entry 62); and its resend mark goes with
RECALLING alone (log entry 56). An ended and a refused slot is written whatever becomes of its order. The model's own:
the Slot Map, the pool, the schedules, the Change Summary and the flag of a refusal change before the words are
written (log entries 19, 32 and 48); the deadline of a rebuilt IN-USE booking (log entry 20); the zero in bits of no
field of words written back (log entry 33); the next visit does not yet stand at the arbiter when one has ended (log
entry 12). -/
def Obligations.KeepChecksAndReadErrors : Prop :=
  (∀ (s : State) (r : SlotRef) (k : Taken) (got : List (Option Word)) (x : Access) (nextFirst : Bool),
     s.mps.granted = some x → x.owner = .bsc → s.adu.claim = some (.keepReading r k got) → got.length < 3 →
     Runs (.memoryAccessComplete true nextFirst) s fun t =>
       LeavesAlone [.ctu, .adu, .catering, .freeValues] s t
         ∧ bit t.ctu.flags 11 = true ∧ t.ctu.changes.getLsbD r.room.val = true
         ∧ t.adu =
             { s.adu with
               claim :=
                 some
                   (.keepWriting r false
                     [(s.slotAddr r 4, 0), (s.slotAddr r 5, 0x00090006), (s.slotAddr r 6, 0x00FF0000),
                       (s.slotAddr r 7, BitVec.ofNat 32 k.now ||| BitVec.ofNat 32 (k.day * 2 ^ 16))]) })
  ∧ (∀ (s : State) (r : SlotRef) (k : Taken) (w5 w4 w6 : Word) (got : List (Option Word)) (x : Access) (error nextFirst : Bool),
       s.mps.granted = some x → x.owner = .bsc → x.write = false →
       s.adu.claim = some (.keepReading r k (some w5 :: some w4 :: some w6 :: got)) → got.length < 2 →
       bits w5 2 0 = 1 ∨ bits w5 2 0 = 2 → bits w6 23 16 < 128 →
       Runs (.memoryAccessComplete error nextFirst) s fun t =>
         LeavesAlone [.ctu, .adu, .catering, .freeValues] s t ∧ SameMemory s t
           ∧ t.ctu = { s.ctu with flags := if error then s.ctu.flags ||| 0x800 else s.ctu.flags }
           ∧ t.adu =
               { s.adu with
                 claim :=
                   some
                     (.keepReading r k
                       (some w5 :: some w4 :: some w6 :: got ++ [if error then none else some (readWord s.mem x.addr)])) })
  ∧ (∀ (s : State) (r : SlotRef) (k : Taken) (g : KeepReads),
       let start := bits g.w4 10 0
       let stop := bits g.w4 26 16
       let past := k.role = .today ∧ stop ≤ k.now
       let clash := ∃ b ∈ s.bookings r.book r.room, Overlaps start stop b.2.start b.2.stop
       (s.inService r.room = false → s.keepCheck r k g = .refused .badRoom .void)
       ∧ (s.inService r.room = true →
           (stop ≤ start ∨ 1440 < stop → s.keepCheck r k g = .refused .badTime .void)
           ∧ (start < stop → stop ≤ 1440 →
               (past → s.keepCheck r k g = .ended)
               ∧ (¬ past → s.adu.freeList = [] → s.keepCheck r k g = .refused .full .full)
               ∧ (¬ past → s.adu.freeList ≠ [] → clash → s.keepCheck r k g = .refused .clash .clash)
               ∧ (¬ past → s.adu.freeList ≠ [] → ¬ clash → s.keepCheck r k g = .rebuilt))))
  ∧ (∀ (s : State) (r : SlotRef) (k : Taken) (w5 w4 : Word) (x : Access) (nextFirst : Bool),
       s.mps.granted = some x → x.owner = .bsc → x.write = false →
       s.adu.claim = some (.keepReading r k [some w5, some w4]) → s.bsc.pass = .keep → s.bsc.cursor = r →
       NothingHeldBack s → TablesCanonical s →
       let w6 := readWord s.mem x.addr
       let live := bits w5 2 0 = 1 ∨ bits w5 2 0 = 2
       let check := s.keepCheck r k ⟨w5, w4, w6, 0, 0, 0, false⟩
       let stamp : Word := BitVec.ofNat 32 k.now ||| BitVec.ofNat 32 (k.day * 2 ^ 16)
       let start := bits w4 10 0
       let e : PoolEntry :=
         { at_ := r, start := start, stop := bits w4 26 16, attendees := bits w6 7 0
           state := if bits w5 2 0 = 2 then .inUse else .booked, source := sourceOf w5
           checkinMinute := if bits w5 2 0 = 2 then some k.now else none
           origin := if bit w5 8 then .panel else .request, order := none
           marks := ⟨bit w5 12, bit w5 13, bit w5 14⟩, reason := reasonOf w5, presenceSeen := false
           deadline := (if k.role = .today then max start k.now else start) + s.grace }
       let rebuilt : PoolEntry → Nat → List Nat → State → Prop := fun e i rest t =>
         t.entry i = some e ∧ (∀ j, j ≠ i → t.entry j = s.entry j) ∧ t.adu.freeList = rest ∧ t.slotState r = .live i
           ∧ (∀ q, q ≠ r → t.slotState q = s.slotState q)
           ∧ PlacedByStart t.startOf i (t.schedule r.book r.room) (s.schedule r.book r.room)
           ∧ t.adu.bindings = s.adu.bindings
       let written : List WordWrite → State → Prop := fun words t =>
         LeavesAlone [.ctu, .adu, .catering] s t ∧ t.ctu.changes.getLsbD r.room.val = true
           ∧ t.adu = { s.adu with claim := some (.keepWriting r false words) }
       (∀ slot : SlotNo, ¬ live → slot.val = r.slot.val + 1 →
         Runs (.memoryAccessComplete false nextFirst) s fun t =>
           LeavesAlone [.adu, .bsc, .atu, .catering] s t ∧ t.adu = { s.adu with claim := none }
             ∧ t.bsc = { s.bsc with cursor := { r with slot := slot } })
       ∧ (∀ i rest (slot : SlotNo), live → check = .rebuilt → bits w6 23 16 = 255 → s.adu.freeList = i :: rest →
           slot.val = r.slot.val + 1 →
           Runs (.memoryAccessComplete false nextFirst) s fun t =>
             LeavesAlone [.adu, .bsc, .plu, .atu, .catering] s t ∧ t.adu.claim = none ∧ rebuilt e i rest t
               ∧ t.bsc = { s.bsc with cursor := { r with slot := slot } })
       ∧ (∀ i rest, live → check = .rebuilt → 128 ≤ bits w6 23 16 → bits w6 23 16 ≠ 255 → s.adu.freeList = i :: rest →
           let e' : PoolEntry := { e with marks := { e.marks with noCatering := true } }
           Runs (.memoryAccessComplete false nextFirst) s fun t =>
             LeavesAlone [.ctu, .adu, .catering] s t ∧ t.ctu.changes.getLsbD r.room.val = true ∧ rebuilt e' i rest t
               ∧ t.adu.claim = some (.keepWriting r true (entryWrites s e' e'.state.booking .none e'.source k)))
       ∧ (live → check = .ended → 128 ≤ bits w6 23 16 →
           Runs (.memoryAccessComplete false nextFirst) s
             (written
               [(s.slotAddr r 4, w4 &&& 0x07FF07FF),
                 (s.slotAddr r 5, w5 &&& 0x000F7100 ||| (if bits w5 2 0 = 2 then w5 &&& 0xC0 else 0) ||| 0x13),
                 (s.slotAddr r 6, w6 &&& 0x00FF00FF), (s.slotAddr r 7, stamp)]))
       ∧ (∀ reason flag, live → check = .refused reason flag → 128 ≤ bits w6 23 16 →
           Runs (.memoryAccessComplete false nextFirst) s fun t =>
             t.ctu.flags = s.ctu.flags ||| (KindSet.single flag).word 0
               ∧ written
                   [(s.slotAddr r 4, 0), (s.slotAddr r 5, w5 &&& 0x100 ||| BitVec.ofNat 32 (reason.code * 2 ^ 16) ||| 6),
                     (s.slotAddr r 6, 0x00FF0000), (s.slotAddr r 7, stamp)]
                   t))
  ∧ (∀ (s : State) (r : SlotRef) (k : Taken) (w5 w4 w6 o0 o4 : Word) (o : OrderIx) (x : Access) (error nextFirst : Bool),
       s.mps.granted = some x → x.owner = .bsc → x.write = false →
       s.adu.claim = some (.keepReading r k [some w5, some w4, some w6, some o0, some o4]) → s.bsc.pass = .keep →
       s.bsc.cursor = r → r ≠ ⟨.bookB, 63, 15⟩ → NothingHeldBack s → TablesCanonical s →
       bits w5 2 0 = 1 ∨ bits w5 2 0 = 2 → bits w6 23 16 = o.val →
       let o6 := readWord s.mem x.addr
       let check := s.keepCheck r k ⟨w5, w4, w6, o0, o4, o6, false⟩
       let start := bits w4 10 0
       let lead := bits o0 15 8
       let named :=
         error = false ∧ 1 ≤ bits o0 3 0 ∧ bits o0 3 0 ≤ s.stationCount ∧ lead ≤ 240 ∧ lead ≤ start ∧ bits o0 23 16 ≠ 0
       let keeps := bits o4 3 0 = 1 ∨ bits o4 3 0 = 2 ∨ bits o4 3 0 = 3 ∨ bits o4 3 0 = 4 ∨ bits o4 3 0 = 7
       let d : OrderEntry :=
         { state := .attached, resend := false, at_ := r, role := k.role, start := start, lead := lead, due := start - lead
           accepted := bits o6 3 0, total := bits o6 11 8, verdict := .none, retries := 0, failure := .none }
       let fate : Fate := match check with | .rebuilt => .rebuilt | .ended => .ended | .refused _ _ => .release
       let stamp : Word := BitVec.ofNat 32 k.now ||| BitVec.ofNat 32 (k.day * 2 ^ 16)
       let written : State → List WordWrite → Prop := fun t words =>
         LeavesAlone [.ctu, .adu, .catering, .freeValues] s t ∧ t.ctu.changes.getLsbD r.room.val = true
           ∧ t.adu = { s.adu with claim := some (.keepWriting r false words) }
       Runs (.memoryAccessComplete error nextFirst) s fun t =>
         (named → s.orderEntry o = none →
             HandedOver s t o fate (OrderState.ofCode (bits o4 3 0)) (bit o4 8) d
               ∧ (keeps → o ∈ t.cqu.writeList ∨ t.cqu.writing = some (o, 0))
               ∧ (bits o4 3 0 = 3 → check = .ended → d.total = 0 ∨ d.accepted ≠ d.total → t.ctu.kitchenCause = true))
           ∧ (s.orderEntry o = none → s.ctu.phase ≠ .running → LockNoticeGiven s t o)
           ∧ (∀ i rest, named → keeps → s.orderEntry o = none → check = .rebuilt → s.adu.freeList = i :: rest →
               t.locked o = true ∧ t.binding o = some i ∧ t.slotState r = .live i ∧ t.adu.claim = none
                 ∧ ∃ e, t.entry i = some e ∧ e.at_ = r ∧ e.start = start ∧ e.order = some o)
           ∧ (∀ i rest, ¬ named ∨ ¬ keeps ∨ s.orderEntry o ≠ none → check = .rebuilt → s.adu.freeList = i :: rest →
               t.binding o = s.binding o ∧ t.slotState r = .live i ∧ t.ctu.changes.getLsbD r.room.val = true
                 ∧ ∃ e, t.entry i = some e ∧ e.at_ = r ∧ e.start = start ∧ e.order = none ∧ e.marks.noCatering = true
                     ∧ t.adu.claim = some (.keepWriting r true (entryWrites s e e.state.booking .none e.source k)))
           ∧ (¬ named ∨ s.orderEntry o ≠ none ∨ ¬ keeps →
               t.cqu.entries = (settle s).cqu.entries ∧ t.mps.locked = (settle s).mps.locked)
           ∧ (check = .ended →
               written t
                   [(s.slotAddr r 4, w4 &&& 0x07FF07FF),
                     (s.slotAddr r 5, w5 &&& 0x000F7100 ||| (if bits w5 2 0 = 2 then w5 &&& 0xC0 else 0) ||| 0x13),
                     (s.slotAddr r 6, w6 &&& 0x00FF00FF), (s.slotAddr r 7, stamp)]
                 ∧ t.ctu.flags = if error then s.ctu.flags ||| 0x800 else s.ctu.flags)
           ∧ (∀ reason flag, check = .refused reason flag →
               written t
                   [(s.slotAddr r 4, 0), (s.slotAddr r 5, w5 &&& 0x100 ||| BitVec.ofNat 32 (reason.code * 2 ^ 16) ||| 6),
                     (s.slotAddr r 6, 0x00FF0000), (s.slotAddr r 7, stamp)]
                 ∧ t.ctu.flags = (if error then s.ctu.flags ||| 0x800 else s.ctu.flags) ||| (KindSet.single flag).word 0)
           ∧ (error = true → bit t.ctu.flags 11 = true))

/-! ### Claims: attendance -/

/-- A minute-driven claim whose row still applies at its taking goes to its writing with the state, cause and source of
section 9.3; one whose row no longer applies changes nothing. The vacancy conditions: VACANCY-END, VACANT above 0, panel
ONLINE, presence ABSENT, and VACANT minutes since the later of the check-in and the last-present record of the day. -/
def Obligations.MinuteClaimsAreJudgedAtTheirTaking : Prop :=
  (∀ (s : State) (m : MinuteClaim) (e : PoolEntry), s.adu.claim = none → NoNoticeWaits s → s.bsc.presented = false →
     s.atu.minuteClaim = some m → s.entry m.entry = some e →
     let now := s.clock.minute
     let k : Taken := ⟨.today, now, s.clock.day⟩
     let stands := s.slotState m.at_ = .live m.entry ∧ m.at_.book = s.clock.today
     let writes : Instr → LifeChange → BookingState → EndCause → Source → Prop := fun c change st cause src =>
       Runs c s fun t =>
         ChangesOnly [.adu, .bsc, .atu] s t
           ∧ t.adu =
               { s.adu with
                 claim :=
                   some
                     (.lifecycle ⟨change, m.at_, m.entry, k, false⟩ (entryWrites s e st cause src k)
                       (entryWrites s e st cause src k) false false) }
     (stands →
       (m.row = .autoCheckin → e.state = .booked → s.hasPanel m.at_.room = false → e.start ≤ now →
         writes .autoCheckin (.checkin .auto) .inUse .none .auto)
       ∧ (m.row = .timeEndBooked → e.state = .booked → s.panelOnline m.at_.room = true → e.stop ≤ now →
           (e.presenceSeen = true → writes .timeEnd (.ended .time) .ended .time .none)
             ∧ (e.presenceSeen = false → writes .timeEnd .release .released .none .none))
       ∧ (m.row = .resolve → e.state = .booked → s.panelOnline m.at_.room = true → e.deadline ≤ now →
           (e.presenceSeen = true → writes .resolve (.checkin .presence) .inUse .none .presence)
             ∧ (e.presenceSeen = false → writes .resolve .release .released .none .none))
       ∧ (m.row = .timeEndInUse → e.state = .inUse → e.stop ≤ now → writes .timeEnd (.ended .time) .ended .time e.source)
       ∧ (m.row = .vacancyEnd → e.state = .inUse → s.vacancyDue m.at_.room e s.clock.day now = true →
           writes .vacancyEnd (.ended .vacant) .ended .vacant e.source))
     ∧ (NothingHeldBack s →
         ¬ stands ∨ s.rowApplies m.row m.at_.room e s.clock.day now = false →
         Runs
           (match m.row with
             | .autoCheckin => .autoCheckin
             | .timeEndBooked | .timeEndInUse => .timeEnd
             | .resolve => .resolve
             | .vacancyEnd => .vacancyEnd)
           s (ChangesOnly [.bsc, .atu] s)))
  ∧ (∀ (s : State) (r : Room) (e : PoolEntry) (m day now : Nat), e.checkinMinute = some m →
       (s.vacancyDue r e day now = true ↔
         s.vacancyEnd r = true ∧ 0 < s.vacant ∧ s.panelOnline r = true ∧ (s.filter r).present = false ∧ m + s.vacant ≤ now
           ∧ ∀ p, (s.filter r).lastPresent = some p → p.day = day → p.minute + s.vacant ≤ now))

/-- When W6 of a lifecycle claim has been written without an error the change is committed: a check-in leaves the
entry LIVE and IN-USE; a release or an end frees it and gives the order its death notice, of kind release or end, in
whatever state the order is; the room is marked in the Change Summary. The claim ends with W7 left to be written (log
entry 25). A memory error on its words does not undo the change: it is committed, with the same death notice, once W6
of the first writing has been written; that writing goes on to W7, and the four words are written once more, the
errors of which are not examined. -/
def Obligations.LifecycleCommitsAfterW6 : Prop :=
  (∀ (s : State) (w : LifeWork) (e : PoolEntry) (words : List WordWrite) (x : Access) (w6 w7 : WordWrite) (nextFirst : Bool),
     s.mps.granted = some x → x.owner = .aduClaim → s.adu.claim = some (.lifecycle w words [w6, w7] false false) →
     s.entry w.entry = some e → e.at_ = w.at_ → s.slotState w.at_ = .live w.entry → NothingHeldBack s → TablesCanonical s →
     Runs (.memoryAccessComplete false nextFirst) s fun t =>
       LeavesAlone [.ctu, .adu, .plu, .atu, .catering] s t
         ∧ t.adu.claim = none ∧ t.adu.tail = some ⟨[w7], .lifecycle words⟩
         ∧ t.ctu.changes.getLsbD w.at_.room.val = true
         ∧ (∀ src, w.change = .checkin src →
             t.entry w.entry = some { e with state := .inUse, source := src, checkinMinute := some w.taken.now }
               ∧ t.adu.slotMap = s.adu.slotMap ∧ t.adu.freeList = s.adu.freeList ∧ t.adu.schedules = s.adu.schedules)
         ∧ ((∀ src, w.change ≠ .checkin src) →
             t.entry w.entry = none ∧ t.slotState w.at_ = .free ∧ t.adu.freeList = s.adu.freeList ++ [w.entry]
               ∧ (∀ o, e.order = some o → t.binding o = none)
               ∧ (∀ o, e.order = some o → w.change = .release → NoticeTaken s t (.death o .release))
               ∧ ∀ o cause, e.order = some o → w.change = .ended cause → NoticeTaken s t (.death o (.ended cause))))
  ∧ (∀ (s : State) (w : LifeWork) (words : List WordWrite) (x : Access) (nextFirst : Bool), s.mps.granted = some x →
       let goesOn : Bool → Claim → Prop := fun error c =>
         Runs (.memoryAccessComplete error nextFirst) s fun t =>
           LeavesAlone [.adu, .catering, .freeValues] s t ∧ t.adu = { s.adu with claim := some c }
       (∀ u v v' more failed second error, x.owner = .aduClaim →
         s.adu.claim = some (.lifecycle w words (u :: v :: v' :: more) failed second) →
         goesOn error (.lifecycle w words (v :: v' :: more) (failed || error) second))
       ∧ (∀ e w6 w7 failed error, x.owner = .aduClaim → s.adu.claim = some (.lifecycle w words [w6, w7] failed false) →
           (failed || error) = true → s.entry w.entry = some e → e.at_ = w.at_ → TablesCanonical s →
           Runs (.memoryAccessComplete error nextFirst) s fun t =>
             LeavesAlone [.adu, .catering, .freeValues] s t
               ∧ t.adu.claim = some (.lifecycle w words [w7] true false) ∧ t.adu.tail = s.adu.tail
               ∧ (∀ src, w.change = .checkin src →
                   t.entry w.entry = some { e with state := .inUse, source := src, checkinMinute := some w.taken.now })
               ∧ ((∀ src, w.change ≠ .checkin src) →
                   t.entry w.entry = none ∧ t.slotState w.at_ = .free ∧ t.adu.freeList = s.adu.freeList ++ [w.entry]
                     ∧ (∀ o, e.order = some o → t.binding o = none)
                     ∧ (∀ o, e.order = some o → w.change = .release → NoticeTaken s t (.death o .release))
                     ∧ ∀ o cause, e.order = some o → w.change = .ended cause → NoticeTaken s t (.death o (.ended cause))))
       ∧ (∀ w7 error, x.owner = .aduClaim → s.adu.claim = some (.lifecycle w words [w7] true false) →
           goesOn error (.lifecycle w words words false true))
       ∧ (∀ w6 w7 failed error, x.owner = .aduClaim → s.adu.claim = some (.lifecycle w words [w6, w7] failed true) →
           NothingHeldBack s →
           Runs (.memoryAccessComplete error nextFirst) s fun t =>
             t.adu = { s.adu with claim := none, tail := some ⟨[w7], .ignored⟩ }
               ∧ t.ctu.changes.getLsbD w.at_.room.val = true)
       ∧ (∀ w7 more, x.owner = .aduTail → s.adu.tail = some ⟨w7 :: more, .lifecycle words⟩ →
           Runs (.memoryAccessComplete true nextFirst) s fun t =>
             LeavesAlone [.adu, .catering, .freeValues] s t ∧ t.adu = { s.adu with tail := some ⟨words, .ignored⟩ }))

/-- The Attendance Unit takes the head of the Panel Event Queue when it holds no panel claim, and in a CLEAN or KEEP
pass only once the cursor has left the head's room in the TODAY book. A CHECKIN checks in the first BOOKED booking
whose window is open; an END ends the IN-USE booking that covers now (the first IN-USE one, log entry 31); each goes
to its writing as a panel lifecycle claim. With no such booking no booking changes; the panel shows CONFIRM for a
CHECKIN on a booking already in use and REFUSE with the refusal mark otherwise, and the chime request sets the renewal
marks of the panel's exchange in progress. -/
def Obligations.PanelEventsCheckInAndEnd : Prop :=
  (∀ (s : State) (ev : PanelEvent) (rest : List PanelEvent), s.plu.events = ev :: rest → s.atu.panelEvent = none →
     (s.bsc.pass = .turnover ∨ CursorHasPassed s s.clock.today ev.room →
       Runs .panelEventTaken s fun t =>
         ChangesOnly [.plu, .atu] s t ∧ t.plu = { s.plu with events := rest }
           ∧ t.atu = { s.atu with panelEvent := some ev, panelTaken := false })
     ∧ (s.bsc.pass ≠ .turnover → ¬ CursorHasPassed s s.clock.today ev.room →
         Runs .panelEventTaken s (ChangesOnly [] s)))
  ∧ (∀ (s : State) (ev : PanelEvent) (b : Nat × PoolEntry), PanelMayBeTaken s ev → s.entry b.1 = some b.2 →
       let now := s.clock.minute
       let k : Taken := ⟨.today, now, s.clock.day⟩
       let isOpen : PoolEntry → Prop := fun e => e.state = .booked ∧ e.start - s.early ≤ now ∧ now < e.stop
       let inUse : PoolEntry → Prop := fun e =>
         e.state = .inUse ∧ now < e.stop ∧ (e.start ≤ now ∨ ∃ m, e.checkinMinute = some m ∧ m ≤ now)
       (∀ before after, ev.button = .checkin → s.bookingsToday ev.room = before ++ b :: after → isOpen b.2 →
         (∀ b' ∈ before, ¬ isOpen b'.2) →
         Runs .checkin s fun t =>
           ChangesOnly [.adu, .bsc, .atu] s t
             ∧ t.adu =
                 { s.adu with
                   claim :=
                     some
                       (.lifecycle ⟨.checkin .panel, b.2.at_, b.1, k, true⟩ (entryWrites s b.2 .inUse .none .panel k)
                         (entryWrites s b.2 .inUse .none .panel k) false false) })
       ∧ (∀ before after, ev.button = .end_ → s.bookingsToday ev.room = before ++ b :: after → inUse b.2 →
           (∀ b' ∈ before, ¬ inUse b'.2) →
           Runs .endBooking s fun t =>
             ChangesOnly [.adu, .bsc, .atu] s t
               ∧ t.adu =
                   { s.adu with
                     claim :=
                       some
                         (.lifecycle ⟨.ended .panel, b.2.at_, b.1, k, true⟩ (entryWrites s b.2 .ended .panel b.2.source k)
                           (entryWrites s b.2 .ended .panel b.2.source k) false false) }))
  ∧ (∀ (s : State) (ev : PanelEvent), PanelMayBeTaken s ev → NothingHeldBack s → TablesCanonical s →
       s.hasPanel ev.room = true →
       let now := s.clock.minute
       let inUse : PoolEntry → Prop := fun e =>
         e.state = .inUse ∧ now < e.stop ∧ (e.start ≤ now ∨ ∃ m, e.checkinMinute = some m ∧ m ≤ now)
       let noneOpen := ∀ b ∈ s.bookingsToday ev.room, ¬ (b.2.state = .booked ∧ b.2.start - s.early ≤ now ∧ now < b.2.stop)
       let covered := ∃ b ∈ s.bookingsToday ev.room, inUse b.2
       let answered : Chime → Bool → State → Prop := fun chime mark t =>
         ChangesOnly [.bsc, .plu, .atu] s t ∧ t.atu.panelEvent = none
           ∧ (t.panel ev.room).chime = chime ∧ (t.panel ev.room).dirty = true ∧ MarksRenewed s t ev.room true
           ∧ (t.roomState ev.room).refusal = (mark || (s.roomState ev.room).refusal)
           ∧ (t.roomState ev.room).line = t.composeLine ev.room
       (ev.button = .checkin → noneOpen → covered → Runs .checkin s (answered .confirm false))
       ∧ (ev.button = .checkin → noneOpen → ¬ covered → Runs .checkin s (answered .refuse true))
       ∧ (ev.button = .end_ → ¬ covered → Runs .endBooking s (answered .refuse true)))

/-- A BOOKNOW in a room with WALK-UP takes the lowest-numbered FREE slot of the TODAY book for [now, now + 15 ×
argument) and goes to the writing of the whole slot; without WALK-UP it is VOID, shown as REFUSE, and writes nothing. An
EXTEND moves the end of the IN-USE booking covering now (log entry 31) by EXTSTEP where nothing overlaps the added
minutes, and goes to its writing; with no such booking it is VOID, shown as REFUSE, and writes nothing. A walk-up is
refused NO-SLOT, FULL, CLASH for an occupied start and CLASH for a cut below MINLEN, and is cut at the first overlap
with CLASH and at the day end, either with TRIM; an EXTEND is cut in the same way, and refused CLASH where it gains no
minute. What is not withheld is carried out: a refused walk-up writes nothing, sets its flag and is shown as REFUSE, an
EXTEND refused CLASH writes the refusal over its slot, and what is admitted goes to its writing. -/
def Obligations.BooknowAndExtend : Prop :=
  (∀ (s : State) (ev : PanelEvent), PanelMayBeTaken s ev → ev.button = .booknow →
     let now := s.clock.minute
     let stop := now + 15 * ev.argument
     let k : Taken := ⟨.today, now, s.clock.day⟩
     (∀ slot : SlotNo, s.walkUp ev.room = true → s.slotState ⟨s.clock.today, ev.room, slot⟩ = .free →
       (∀ n : SlotNo, n < slot → s.slotState ⟨s.clock.today, ev.room, n⟩ ≠ .free) → s.adu.freeList ≠ [] →
       now < stop → stop ≤ 1440 → (∀ b ∈ s.bookingsToday ev.room, ¬ Overlaps now stop b.2.start b.2.stop) →
       let e : PoolEntry :=
         { at_ := ⟨s.clock.today, ev.room, slot⟩, start := now, stop := stop, attendees := 0, state := .inUse,
           source := .panel, checkinMinute := some now, origin := .panel, order := none, marks := {}, reason := .none,
           presenceSeen := false, deadline := now + s.grace }
       Runs .booknow s fun t =>
         ChangesOnly [.adu, .bsc, .atu] s t
           ∧ ∃ a : Admission,
             t.adu =
                 { s.adu with
                   claim :=
                     some
                       (.admission a
                         (.writing ⟨{}, s.trapEnables, .admitted e []⟩ []
                           ([(s.slotAddr e.at_ 0, place now 0 ||| place (15 * ev.argument) 16), (s.slotAddr e.at_ 1, 0),
                               (s.slotAddr e.at_ 2, 255), (s.slotAddr e.at_ 3, 0)]
                             ++ entryWrites s e .inUse .none .panel k)
                           false)) }
               ∧ a.kind = .booknow ∧ a.slot = some slot ∧ a.taken = k)
     ∧ (s.walkUp ev.room = false → bit s.ctu.shadow.w9 0 = false → NothingHeldBack s → TablesCanonical s →
         s.hasPanel ev.room = true →
         Runs .booknow s fun t =>
           ChangesOnly [.ctu, .bsc, .plu, .atu] s t ∧ t.ctu = { s.ctu with flags := s.ctu.flags ||| 1 }
             ∧ t.atu.panelEvent = none ∧ (t.panel ev.room).chime = .refuse ∧ (t.roomState ev.room).refusal = true))
  ∧ (∀ (s : State) (ev : PanelEvent), PanelMayBeTaken s ev → ev.button = .extend →
       let now := s.clock.minute
       let k : Taken := ⟨.today, now, s.clock.day⟩
       let inUse : PoolEntry → Prop := fun e =>
         e.state = .inUse ∧ now < e.stop ∧ (e.start ≤ now ∨ ∃ m, e.checkinMinute = some m ∧ m ≤ now)
       (∀ b before after, s.bookingsToday ev.room = before ++ b :: after → inUse b.2 → (∀ b' ∈ before, ¬ inUse b'.2) →
         s.liveEntry ⟨s.clock.today, ev.room, b.2.at_.slot⟩ = some b.2 →
         s.liveIndex ⟨s.clock.today, ev.room, b.2.at_.slot⟩ = some b.1 → 0 < s.extstep → b.2.stop + s.extstep ≤ 1440 →
         (∀ q ∈ s.bookingsToday ev.room, q.1 ≠ b.1 → ¬ Overlaps b.2.stop (b.2.stop + s.extstep) q.2.start q.2.stop) →
         let e : PoolEntry := { b.2 with stop := b.2.stop + s.extstep, marks := {}, reason := .none }
         Runs .extend s fun t =>
           ChangesOnly [.adu, .bsc, .atu] s t
             ∧ ∃ a : Admission,
               t.adu =
                   { s.adu with
                     claim :=
                       some
                         (.admission a
                           (.writing ⟨{}, s.trapEnables, .admitted e []⟩ [] (entryWrites s e .inUse .none b.2.source k)
                             false)) }
                 ∧ a.kind = .extend ∧ a.slot = some b.2.at_.slot ∧ a.taken = k)
       ∧ ((∀ b ∈ s.bookingsToday ev.room, ¬ inUse b.2) → bit s.ctu.shadow.w9 0 = false → NothingHeldBack s →
           TablesCanonical s → s.hasPanel ev.room = true →
           Runs .extend s fun t =>
             ChangesOnly [.ctu, .bsc, .plu, .atu] s t ∧ t.ctu = { s.ctu with flags := s.ctu.flags ||| 1 }
               ∧ t.atu.panelEvent = none ∧ (t.panel ev.room).chime = .refuse ∧ (t.roomState ev.room).refusal = true))
  ∧ (∀ (s : State) (a : Admission) (p : Proposal),
       let refused : KindSet → Reason → Prop := fun k r => s.judge a p = (k, .refused r)
       let firstOverlapIs : List PoolEntry → Nat → Nat → Nat → Prop := fun l c d m =>
         (∃ e ∈ l, Overlaps c d e.start e.stop ∧ e.start = m) ∧ ∀ e ∈ l, Overlaps c d e.start e.stop → m ≤ e.start
       (a.kind = .booknow →
         let now := a.taken.now
         let wished := now + a.minutes
         let l := s.others a.book a.room none
         let occupied := ∃ e ∈ l, e.start ≤ now ∧ now < e.stop
         (s.walkUp a.room = false → refused { void := true } .notAllowed)
         ∧ (s.walkUp a.room = true → a.slot = none → refused { void := true } .noSlot)
         ∧ (∀ slot, s.walkUp a.room = true → a.slot = some slot → s.adu.freeList = [] → refused { full := true } .full)
         ∧ (∀ slot, s.walkUp a.room = true → a.slot = some slot → s.adu.freeList ≠ [] →
             (occupied → refused { clash := true } .clash)
               ∧ ∀ stop (overlap : Bool), ¬ occupied →
                   (overlap = true ∧ firstOverlapIs l now (min wished 1440) stop)
                     ∨ (overlap = false ∧ (∀ e ∈ l, ¬ Overlaps now (min wished 1440) e.start e.stop) ∧ stop = min wished 1440) →
                   (stop < wished → stop - now < s.minlen → refused { clash := true } .clash)
                     ∧ (¬ (stop < wished ∧ stop - now < s.minlen) →
                         s.judge a p =
                           ({ clash := overlap, trim := decide (stop < wished) },
                             .admitted
                               { at_ := ⟨a.book, a.room, slot⟩, start := now, stop := stop, attendees := 0, state := .inUse,
                                 source := .panel, checkinMinute := some now, origin := .panel, order := none,
                                 marks := { trimmed := decide (stop < wished) }, reason := .none, presenceSeen := false,
                                 deadline := now + s.grace }
                               []))))
       ∧ (a.kind = .extend →
           (a.slot = none → refused { void := true } .notLive)
           ∧ ∀ slot e cut (overlap : Bool), a.slot = some slot → s.liveEntry ⟨a.book, a.room, slot⟩ = some e →
               let l := s.others a.book a.room (s.liveIndex ⟨a.book, a.room, slot⟩)
               let wished := e.stop + s.extstep
               (overlap = true ∧ firstOverlapIs l e.stop wished cut)
                 ∨ (overlap = false ∧ (∀ q ∈ l, ¬ Overlaps e.stop wished q.start q.stop) ∧ cut = wished) →
               let stop := min cut 1440
               (stop ≤ e.stop → refused { clash := true } .clash)
                 ∧ (e.stop < stop →
                     s.judge a p =
                       ({ clash := overlap, trim := decide (stop < wished) },
                         .admitted { e with stop := stop, marks := { trimmed := decide (stop < wished) }, reason := .none } []))))
  ∧ (∀ (s : State) (ev : PanelEvent) (p : Proposal), PanelMayBeTaken s ev →
       let now := s.clock.minute
       let k : Taken := ⟨.today, now, s.clock.day⟩
       let slotIs : Option SlotNo → Prop := fun slot =>
         (∀ n, slot = some n → s.slotState ⟨s.clock.today, ev.room, n⟩ = .free)
           ∧ ∀ n : SlotNo, s.slotState ⟨s.clock.today, ev.room, n⟩ = .free → ∃ m, slot = some m ∧ m ≤ n
       let withholding : KindSet → Prop := fun x =>
         (x.void && s.trapEnables.void || x.full && s.trapEnables.full || x.clash && s.trapEnables.clash
           || x.crowd && s.trapEnables.crowd) = true
       (∀ slot, ev.button = .booknow → s.walkUp ev.room = true → slotIs slot →
         let a : Admission := ⟨.booknow, s.clock.today, ev.room, slot, k, false, false, 15 * ev.argument⟩
         (∀ x r, s.judge a p = (x, .refused r) → ¬ withholding x → NothingHeldBack s → TablesCanonical s →
           s.hasPanel ev.room = true →
           Runs .booknow s fun t =>
             ChangesOnly [.ctu, .bsc, .plu, .atu] s t
               ∧ t.ctu = { s.ctu with flags := s.ctu.flags ||| (if x.void then 1 else if x.full then 2 else 4) }
               ∧ t.atu.panelEvent = none ∧ (t.panel ev.room).chime = .refuse ∧ (t.roomState ev.room).refusal = true)
         ∧ (∀ x e, s.judge a p = (x, .admitted e []) → ¬ withholding x →
             Runs .booknow s fun t =>
               ChangesOnly [.adu, .bsc, .atu] s t
                 ∧ t.adu =
                     { s.adu with
                       claim :=
                         some
                           (.admission a
                             (.writing ⟨x, s.trapEnables, .admitted e []⟩ []
                               ([(s.slotAddr e.at_ 0, place e.start 0 ||| place (e.stop - e.start) 16),
                                   (s.slotAddr e.at_ 1, 0), (s.slotAddr e.at_ 2, 255), (s.slotAddr e.at_ 3, 0)]
                                 ++ entryWrites s e .inUse .none .panel k)
                               false)) }))
       ∧ (∀ b before after, ev.button = .extend → s.bookingsToday ev.room = before ++ b :: after →
           let inUse : PoolEntry → Prop := fun e =>
             e.state = .inUse ∧ now < e.stop ∧ (e.start ≤ now ∨ ∃ m, e.checkinMinute = some m ∧ m ≤ now)
           inUse b.2 → (∀ q ∈ before, ¬ inUse q.2) → s.liveEntry ⟨s.clock.today, ev.room, b.2.at_.slot⟩ = some b.2 →
           let a : Admission := ⟨.extend, s.clock.today, ev.room, some b.2.at_.slot, k, false, false, 0⟩
           let writes : KindSet → Judgement → PoolEntry → Prop := fun x j e =>
             Runs .extend s fun t =>
               ChangesOnly [.adu, .bsc, .atu] s t
                 ∧ t.adu =
                     { s.adu with
                       claim :=
                         some
                           (.admission a
                             (.writing ⟨x, s.trapEnables, j⟩ [] (entryWrites s e .inUse .none b.2.source k) false)) }
           (∀ x, s.judge a p = (x, .refused .clash) → ¬ withholding x →
             writes x (.refused .clash) { b.2 with marks := {}, reason := .clash })
           ∧ (∀ x e, s.judge a p = (x, .admitted e []) → ¬ withholding x → writes x (.admitted e []) e)))

/-- Between claims the PRESENT reports that wait for a room are applied in order, every one of them: the presence note
becomes the latest, and the presence-seen mark is set in the BOOKED bookings of the TODAY bank whose window holds a
report's minute. Between claims a return notice moves the deadline of each BOOKED booking of the room in the TODAY bank
to the return minute plus GRACE where that is later, and sets the room's last-present record unless a sample at or after
it stands; where several wait, each is applied in its turn. That those which came between claims wait for their row of
the table is the model's (log entries 13 and 39). -/
def Obligations.ReportsAndReturns : Prop :=
  (∀ (s : State) (r : Room) (earlier : List Stamp) (latest : Stamp), s.adu.claim = none →
     Table.get [] s.atu.reports r.val = earlier ++ [latest] → TablesCanonical s →
     let seen : PoolEntry → Prop := fun e =>
       ∃ p ∈ earlier ++ [latest], e.start - s.early ≤ p.minute ∧ p.minute < e.stop
     Runs (.presenceReport r) s fun t =>
       ChangesOnly [.adu, .atu] s t ∧ t.adu = { s.adu with pool := t.adu.pool }
         ∧ Table.get [] t.atu.reports r.val = []
         ∧ t.roomState r = { s.roomState r with note := some latest }
         ∧ (∀ i e, i ∈ s.schedule s.clock.today r → s.entry i = some e →
             (e.state = .booked → seen e → t.entry i = some { e with presenceSeen := true })
             ∧ (¬ (e.state = .booked ∧ seen e) → t.entry i = some e))
         ∧ ∀ i, i ∉ s.schedule s.clock.today r → t.entry i = s.entry i)
  ∧ (∀ (s : State) (r : Room) (p : Stamp) (later : List Stamp), s.adu.claim = none →
       Table.get [] s.atu.returns r.val = p :: later → TablesCanonical s →
       Runs (.returnNotice r) s fun t =>
         ChangesOnly [.adu, .ocf, .atu] s t ∧ t.adu = { s.adu with pool := t.adu.pool }
           ∧ Table.get [] t.atu.returns r.val = []
           ∧ (∀ i e, i ∈ s.schedule s.clock.today r → s.entry i = some e →
               ∃ d, t.entry i = some { e with deadline := d }
                 ∧ (e.state ≠ .booked → d = e.deadline)
                 ∧ (e.state = .booked →
                     (e.deadline ≤ d ∧ ∀ q ∈ p :: later, q.minute + s.grace ≤ d)
                       ∧ (d = e.deadline ∨ ∃ q ∈ p :: later, d = q.minute + s.grace)))
           ∧ (∀ i, i ∉ s.schedule s.clock.today r → t.entry i = s.entry i)
           ∧ (later = [] →
               (t.filter r).lastPresent =
                 (match (s.filter r).lastPresent with
                   | some q =>
                     if q.source = .sample ∧ q.day = p.day ∧ p.minute ≤ q.minute then some q
                     else some ⟨p.day, p.minute, .returned⟩
                   | none => some ⟨p.day, p.minute, .returned⟩))
           ∧ t.filter r = { s.filter r with lastPresent := (t.filter r).lastPresent }
           ∧ ∀ q, q ≠ r → t.filter q = s.filter q)

/-! ### Panel loops and occupancy -/

/-- The round timer of a loop running out starts its next round with the round list of the table as it stands, or, while
a round is under way, is remembered for its end; in SETUP and on a silent loop nothing happens. A round ends once the
last panel of its list has been polled and its exchange has ended: with the window held the counter is STAY and the mode
FAST; else a counter above 0 falls by one, and the mode becomes SLOW when it reaches 0. The next round waits for the
round timer. -/
def Obligations.RoundsStartAndEnd : Prop :=
  (∀ (s : State) (l : LoopNo), TablesCanonical s →
     let lp := s.loop l
     (s.ctu.phase ≠ .setup → lp.silent = false → lp.inRound = false →
       Runs (.roundStart l) s fun t =>
         ChangesOnly [.plu] s t ∧ t.plu.panels = s.plu.panels ∧ t.plu.events = s.plu.events
           ∧ (∀ m, m ≠ l → t.loop m = s.loop m)
           ∧ t.loop l =
               { lp with
                 timer := .running (match lp.mode with | .fast => s.fast | .slow => s.slow)
                 inRound := true, roundList := lp.listedPositions, polls := 0 })
     ∧ (s.ctu.phase ≠ .setup → lp.silent = false → lp.inRound = true →
         Runs (.roundStart l) s fun t =>
           ChangesOnly [.plu] s t ∧ (∀ m, m ≠ l → t.loop m = s.loop m) ∧ t.loop l = { lp with timer := .runOut })
     ∧ (s.ctu.phase = .setup ∨ lp.silent = true → Runs (.roundStart l) s (ChangesOnly [] s)))
  ∧ (∀ (s : State) (l : LoopNo), TablesCanonical s →
       let lp := s.loop l
       (lp.inRound = true → lp.exchange = none → lp.roundList.length ≤ lp.polls → lp.timer ≠ .runOut →
         Runs (.roundEndAfterGap l) s fun t =>
           ChangesOnly [.plu] s t ∧ (∀ m, m ≠ l → t.loop m = s.loop m)
             ∧ t.loop l =
                 { lp with
                   inRound := false, roundList := [], polls := 0
                   stay := if lp.windowHeld then s.stay else lp.stay - 1
                   mode := if lp.windowHeld then .fast else if lp.stay = 1 then .slow else lp.mode })
       ∧ (lp.inRound = true → lp.exchange = none → lp.roundList.length ≤ lp.polls → lp.timer = .runOut →
           lp.silent = false →
           Runs (.roundEndAfterGap l) s fun t =>
             (t.loop l).inRound = true ∧ (t.loop l).polls = 0 ∧ (t.loop l).roundList = lp.listedPositions
               ∧ (t.loop l).timer = .running (match (t.loop l).mode with | .fast => s.fast | .slow => s.slow)))

/-- A poll to the next panel of the round list is assembled from the panel's state as it stands: the page and the
chime while the page is dirty, and the last accepted tag. Byte by byte the frame is: start code, address, control byte
(page-follows, chime code, ack-valid), ack tag or 0, the page's 64 bytes while the page is dirty, and the CRC over all
of it but the start code, high byte first; that the bits of no field in a cell's attribute byte and in the byte of the
ack tag are zero is the model's choice (log entry 63). What comes during the exchange leaves the frame as assembled: a
captured line-1 write, a chime request and a changed status line of the panel being polled set the exchange's page
renewal mark where the poll carried the page, a chime request sets its chime renewal mark too, and neither another
panel's change nor a button event does anything to an exchange. The line carries the frame's bytes while the poll is
being sent, each as a start bit, eight data bits and a stop bit. -/
def Obligations.PollsAndTheirFrames : Prop :=
  (∀ (s : State) (l : LoopNo) (pos : Nat) (x : Listed), TablesCanonical s →
     let lp := s.loop l
     let p := s.panel x.room
     lp.inRound = true → lp.exchange = none → lp.roundList[lp.polls]? = some (pos, x) →
     Runs (.poll l) s fun t =>
       ChangesOnly [.plu] s t ∧ t.plu.panels = s.plu.panels ∧ (∀ m, m ≠ l → t.loop m = s.loop m)
         ∧ t.loop l =
             { lp with
               polls := lp.polls + 1
               exchange :=
                 some
                   { position := pos, listed := x, page := p.dirty, chime := if p.dirty then p.chime else .none
                     pageRenewal := false, chimeRenewal := false, stage := .sending
                     frame := pollFrame x.address p (s.roomState x.room).line } })
  ∧ (∀ (address : Nat) (p : Panel) (line2 : List Cell), p.line1.length = 16 → line2.length = 16 →
       ∃ body crc : List Byte,
         pollFrame address p line2 = 0xC6#8 :: body ++ crc
           ∧ crc = [((crc16 body) >>> 8).setWidth 8, (crc16 body).setWidth 8]
           ∧ body.length = (if p.dirty then 67 else 3)
           ∧ body.getD 0 0 = BitVec.ofNat 8 address
           ∧ ((body.getD 1 0).getLsbD 0 = p.dirty ∧ (body.getD 1 0).getLsbD 3 = p.lastTag.isSome
             ∧ (body.getD 1 0).toNat / 2 % 4 = (if p.dirty then p.chime.code else 0))
           ∧ (∀ tag, p.lastTag = some tag → body.getD 2 0 = tag.setWidth 8)
           ∧ (p.lastTag = none → body.getD 2 0 = 0)
           ∧ (p.dirty = true → ∀ i, i < 16 →
               body.getD (3 + 2 * i) 0 = (p.line1.getD i {}).code.setWidth 8
                 ∧ body.getD (4 + 2 * i) 0 = (if (p.line1.getD i {}).reverse then 1 else 0)
                 ∧ body.getD (35 + 2 * i) 0 = (line2.getD i {}).code.setWidth 8
                 ∧ body.getD (36 + 2 * i) 0 = (if (line2.getD i {}).reverse then 1 else 0)))
  ∧ (∀ (s : State) (r : Room), TablesCanonical s →
       let stands : State → Prop := fun t => ∀ l, (t.loop l).exchange = (s.loop l).exchange
       (s.hasPanel r = true →
         (∀ n data lanes, MarksRenewed s (s.captureLine r n data lanes) r false)
           ∧ (∀ c, MarksRenewed s (s.chimeRequest r c) r true)
           ∧ ((s.roomState r).line ≠ s.composeLine r → MarksRenewed s (s.recompose r) r false))
       ∧ (s.hasPanel r = false →
           (∀ n data lanes, stands (s.captureLine r n data lanes)) ∧ (∀ c, stands (s.chimeRequest r c))
             ∧ stands (s.recompose r))
       ∧ ((s.roomState r).line = s.composeLine r → stands (s.recompose r))
       ∧ (∀ p, stands (s.setPanel r p))
       ∧ ∀ m b arg tag, stands (s.buttonEvent m r b arg tag))
  ∧ (∀ lp : Loop,
       (∀ x, lp.exchange = some x → x.stage = .sending →
         ∃ sent, lp.line = some sent ∧ sent.length = 10 * x.frame.length
           ∧ ∀ i n, i < x.frame.length → n < 10 →
               sent[10 * i + n]? =
                 some (if n = 0 then .start else if n = 9 then .stop else .data ((x.frame.getD i 0).getLsbD (n - 1))))
       ∧ ((∀ x, lp.exchange = some x → x.stage ≠ .sending) → lp.line = none))

/-- The poll's last bit starts the reply wait, and the first start bit of a reply ends it; at any other stage neither
event changes anything (log entry 5). A reply is judged in the waiting stage too (log entry 26). A reply is good when it
is complete, has the start code 0x6C and the address polled, and its CRC is right. An exchange ends as a miss when the
reply wait runs out, when a begun reply stalls, and when the reply is not good: the miss count rises to 3 at most, and
the third miss makes the panel OFFLINE; nothing else of the panel changes. -/
def Obligations.ExchangesAndMisses : Prop :=
  (∀ (s : State) (l : LoopNo) (x : Exchange), TablesCanonical s → (s.loop l).exchange = some x →
     let moves : Instr → ExchangeStage → Prop := fun c st =>
       Runs c s fun t =>
         ChangesOnly [.plu] s t ∧ t.plu.panels = s.plu.panels ∧ (∀ m, m ≠ l → t.loop m = s.loop m)
           ∧ t.loop l = { s.loop l with exchange := some { x with stage := st } }
     (x.stage = .sending → moves (.pollSent l) .waiting ∧ Runs (.replyStartBit l) s (ChangesOnly [] s))
     ∧ (x.stage = .waiting → moves (.replyStartBit l) .receiving ∧ Runs (.pollSent l) s (ChangesOnly [] s))
     ∧ (x.stage = .receiving → Runs (.pollSent l) s (ChangesOnly [] s) ∧ Runs (.replyStartBit l) s (ChangesOnly [] s)))
  ∧ (∀ (address : Nat) (bytes : List Byte),
       replyGood address bytes = true ↔
         ∃ addr button tag high low : Byte,
           bytes = [0x6C#8, addr, button, tag, high, low] ++ crcBytes [addr, button, tag, high, low] ∧ addr.toNat = address)
  ∧ (∀ (s : State) (l : LoopNo) (x : Exchange) (bytes : List Byte), TablesCanonical s → (s.loop l).exchange = some x →
       let r := x.listed.room
       let missed : Instr → Prop := fun c =>
         Runs c s fun t =>
           ChangesOnly [.plu] s t ∧ t.plu.events = s.plu.events
             ∧ t.loop l = { s.loop l with exchange := none } ∧ (∀ m, m ≠ l → t.loop m = s.loop m)
             ∧ t.panel r =
                 { s.panel r with
                   misses := min 3 ((s.panel r).misses + 1)
                   online := (s.panel r).online && decide ((s.panel r).misses + 1 < 3) }
             ∧ ∀ q, q ≠ r → t.panel q = s.panel q
       (x.stage = .waiting → missed (.replyWaitExpiry l))
       ∧ (x.stage = .receiving → missed (.replyGapExpiry l))
       ∧ (x.stage ≠ .sending → replyGood x.listed.address bytes = false → missed (.reply l bytes)))

/-- A good reply without a button from an ONLINE panel: the miss count is cleared; the page and chime marks are
cleared where the poll carried them and nothing renewed them; the count goes to the room's filter unless it is
dropped. A good reply from an OFFLINE panel is a return: ONLINE, no accepted tag, the page to be sent again, the chime
mark cleared as for any good reply, the filter started afresh from the next count handed over, and a return notice
held for the Attendance Unit; the other panels, filters, reports and notices and the Panel Event Queue stay as they
were. A good reply with a button is dealt with in the same way, and its button is then judged on its tag. A sample
with presence PRESENT is reported to the Attendance Unit: of the reports of a room that arrive during one claim the
earliest and the latest are held, and those that arrive between claims wait for their row of the table (log entry 39).
A button event on its tag: a repeat of the last accepted tag is not entered; a tag that the queue holds for the room
is acknowledged; a new one is entered at the tail and acknowledged while the queue holds fewer than 24 entries, and
refused otherwise; both of the last two make the loop FAST. A whole reply is judged in the waiting stage too (log
entry 26). -/
def Obligations.GoodReplies : Prop :=
  (∀ (s : State) (l : LoopNo) (x : Exchange) (bytes : List Byte), TablesCanonical s → (s.loop l).exchange = some x →
     x.stage ≠ .sending → replyGood x.listed.address bytes = true → (replyButton bytes).isNone →
     let r := x.listed.room
     let p := s.panel r
     let dropped := s.dropOnRefresh && x.page
     let new := if dropped then s.filter r else (s.filter r).sample (s.sense r) (replyCount bytes) s.clock.day s.clock.minute
     p.online = true →
     Runs (.reply l bytes) s fun t =>
       ChangesOnly [.plu, .ocf, .atu] s t ∧ (t.loop l).exchange = none
         ∧ t.panel r =
             { p with
               misses := 0
               dirty := if x.page && !x.pageRenewal then false else p.dirty
               chime := if x.chime ≠ .none ∧ x.chimeRenewal = false then .none else p.chime }
         ∧ t.filter r = new ∧ (∀ q, q ≠ r → t.filter q = s.filter q ∧ t.panel q = s.panel q)
         ∧ t.plu.events = s.plu.events
         ∧ (new.present = false ∨ dropped = true → t.atu = s.atu)
         ∧ (new.present ≠ (s.filter r).present → (t.loop (s.loopOf r)).mode = .fast ∧ (t.loop (s.loopOf r)).stay = s.stay))
  ∧ (∀ (s : State) (l : LoopNo) (x : Exchange) (bytes : List Byte), TablesCanonical s → (s.loop l).exchange = some x →
       x.stage ≠ .sending → replyGood x.listed.address bytes = true → (replyButton bytes).isNone →
       let r := x.listed.room
       let count := replyCount bytes
       s.hasPanel r = true → s.loopOf r = l → (s.panel r).online = false →
       Runs (.reply l bytes) s fun t =>
         ChangesOnly [.plu, .ocf, .atu] s t ∧ (t.loop l).exchange = none
           ∧ t.panel r =
               { s.panel r with
                 online := true, misses := 0, lastTag := none, dirty := true
                 chime := if x.chime ≠ .none ∧ x.chimeRenewal = false then .none else (s.panel r).chime }
           ∧ (∀ q, q ≠ r → t.filter q = s.filter q ∧ t.panel q = s.panel q)
           ∧ (∀ m, m ≠ l → t.loop m = s.loop m)
           ∧ (t.plu.events = s.plu.events ∧ t.plu.expiryDue = s.plu.expiryDue)
           ∧ t.atu = { s.atu with returns := t.atu.returns }
           ∧ (∀ q, q ≠ r → Table.get [] t.atu.returns q.val = Table.get [] s.atu.returns q.val)
           ∧ Table.get [] t.atu.returns r.val =
               (if s.adu.claim = none then Table.get [] s.atu.returns r.val else []) ++ [⟨s.clock.day, s.clock.minute⟩]
           ∧ ((s.dropOnRefresh && x.page) = true → t.filter r = { s.filter r with initDone := false })
           ∧ ((s.dropOnRefresh && x.page) = false →
               t.filter r =
                 { initDone := true, history := [count], baseline := count, bucket := 0, low := 0, debounce := 0,
                   present := false, lastPresent := (s.filter r).lastPresent }))
  ∧ ((∀ (bytes : List Byte) (b : Button) (arg : Nat),
       let code := (bytes.getD 2 0).toNat % 8
       let argument := (bytes.getD 2 0).toNat / 16 % 8
       replyButton bytes = some (b, arg) ↔
         (code = 1 ∧ b = .checkin ∧ arg = 0) ∨ (code = 2 ∧ b = .extend ∧ arg = 0) ∨ (code = 3 ∧ b = .end_ ∧ arg = 0)
           ∨ (code = 4 ∧ b = .booknow ∧ arg = argument ∧ 1 ≤ argument ∧ argument ≤ 4))
     ∧ (∀ (s : State) (l : LoopNo) (x : Exchange) (bytes : List Byte) (b : Button) (arg : Nat), TablesCanonical s →
         (s.loop l).exchange = some x → x.stage ≠ .sending → replyGood x.listed.address bytes = true →
         replyButton bytes = some (b, arg) →
         let r := x.listed.room
         let tag : BitVec 3 := (bytes.getD 3 0).setWidth 3
         let lastTag := if (s.panel r).online then (s.panel r).lastTag else none
         let queued := ∃ e ∈ s.plu.events, e.room = r ∧ e.tag = tag
         let dropped := s.dropOnRefresh && x.page
         Runs (.reply l bytes) s fun t =>
           let fast := (t.loop l).mode = .fast ∧ (t.loop l).stay = s.stay
           ChangesOnly [.plu, .ocf, .atu] s t ∧ (t.loop l).exchange = none
             ∧ ((t.panel r).online = true ∧ (t.panel r).misses = 0 ∧ (t.panel r).line1 = (s.panel r).line1)
             ∧ (t.panel r).chime = (if x.chime ≠ .none ∧ x.chimeRenewal = false then .none else (s.panel r).chime)
             ∧ (∀ q, q ≠ r → t.filter q = s.filter q ∧ t.panel q = s.panel q)
             ∧ ((s.panel r).online = true →
                 (t.panel r).dirty = (if x.page && !x.pageRenewal then false else (s.panel r).dirty)
                   ∧ t.filter r =
                       if dropped then s.filter r
                       else (s.filter r).sample (s.sense r) (replyCount bytes) s.clock.day s.clock.minute)
             ∧ (lastTag = some tag → t.plu.events = s.plu.events ∧ (t.panel r).lastTag = some tag)
             ∧ (lastTag ≠ some tag → queued → t.plu.events = s.plu.events ∧ (t.panel r).lastTag = some tag)
             ∧ (lastTag ≠ some tag → ¬ queued → s.plu.events.length < 24 →
                 t.plu.events = s.plu.events ++ [⟨r, b, arg, tag⟩] ∧ (t.panel r).lastTag = some tag ∧ fast)
             ∧ (lastTag ≠ some tag → ¬ queued → 24 ≤ s.plu.events.length →
                 t.plu.events = s.plu.events ∧ (t.panel r).lastTag = lastTag ∧ fast)))
  ∧ (∀ (s : State) (l : LoopNo) (x : Exchange) (bytes : List Byte), TablesCanonical s → (s.loop l).exchange = some x →
       x.stage ≠ .sending → replyGood x.listed.address bytes = true → (s.panel x.listed.room).online = true →
       let r := x.listed.room
       let stamp : Stamp := ⟨s.clock.day, s.clock.minute⟩
       let held := Table.get [] s.atu.reports r.val
       let new := (s.filter r).sample (s.sense r) (replyCount bytes) s.clock.day s.clock.minute
       Runs (.reply l bytes) s fun t =>
         (new.present = false ∨ (s.dropOnRefresh && x.page) = true → t.atu = s.atu)
           ∧ (new.present = true → (s.dropOnRefresh && x.page) = false →
               t.atu = { s.atu with reports := t.atu.reports }
                 ∧ (∀ q, q ≠ r → Table.get [] t.atu.reports q.val = Table.get [] s.atu.reports q.val)
                 ∧ (s.adu.claim = none → Table.get [] t.atu.reports r.val = held ++ [stamp])
                 ∧ (s.adu.claim.isSome → held = [] → Table.get [] t.atu.reports r.val = [stamp])
                 ∧ (∀ first rest, s.adu.claim.isSome → held = first :: rest →
                     Table.get [] t.atu.reports r.val = [first, stamp])))
  ∧ (∀ (s : State) (l : LoopNo) (r : Room) (b : Button) (arg : Nat) (tag : BitVec 3), TablesCanonical s →
       let t := s.buttonEvent l r b arg tag
       let queued := ∃ e ∈ s.plu.events, e.room = r ∧ e.tag = tag
       ((s.panel r).lastTag = some tag → t = s)
       ∧ ((s.panel r).lastTag ≠ some tag → queued →
           t.plu.events = s.plu.events ∧ t.panel r = { s.panel r with lastTag := some tag } ∧ ∀ m, t.loop m = s.loop m)
       ∧ ((s.panel r).lastTag ≠ some tag → ¬ queued → s.plu.events.length < 24 →
           t.plu.events = s.plu.events ++ [⟨r, b, arg, tag⟩] ∧ t.panel r = { s.panel r with lastTag := some tag }
             ∧ (t.loop l).mode = .fast ∧ (t.loop l).stay = s.stay)
       ∧ ((s.panel r).lastTag ≠ some tag → ¬ queued → 24 ≤ s.plu.events.length →
           t.plu.events = s.plu.events ∧ t.panel r = s.panel r ∧ (t.loop l).mode = .fast ∧ (t.loop l).stay = s.stay))

/-- The initialising sample, and the presence step of any other, on the rise over the baseline as the earlier samples
left it. The baseline step of a sample, by its difference from the baseline. A sample enters the history at its tail,
which keeps the eight most recent counts; the average is the sum of the most recent AVERAGE counts, or of all of them
where fewer are held, divided by their number and rounded down. -/
def Obligations.FilterSamples : Prop :=
  (∀ (f : Filter) (k : Sense) (count day minute : Nat),
     let a := averageOf (enterHistory f.history count) k.average
     let rise := a - f.baseline
     let g := f.sample k count day minute
     let record : Option LastPresent := some ⟨day, minute, .sample⟩
     (f.initDone = false →
       g = { initDone := true, history := [count], baseline := count, bucket := 0, low := 0, debounce := 0,
             present := false, lastPresent := f.lastPresent })
     ∧ (f.initDone = true → f.present = false → k.threshold + k.hyst < rise → f.debounce + 1 < k.debounce →
         g.present = false ∧ g.debounce = f.debounce + 1 ∧ g.lastPresent = f.lastPresent)
     ∧ (f.initDone = true → f.present = false → k.threshold + k.hyst < rise → k.debounce ≤ f.debounce + 1 →
         g.present = true ∧ g.debounce = 0 ∧ g.lastPresent = record)
     ∧ (f.initDone = true → f.present = false → rise ≤ k.threshold + k.hyst →
         g.present = false ∧ g.debounce = 0 ∧ g.lastPresent = f.lastPresent)
     ∧ (f.initDone = true → f.present = true → rise + k.hyst < k.threshold →
         g.present = false ∧ g.lastPresent = f.lastPresent)
     ∧ (f.initDone = true → f.present = true → k.threshold ≤ rise + k.hyst →
         g.present = true ∧ g.lastPresent = record))
  ∧ (∀ (f : Filter) (k : Sense) (count day minute : Nat), f.initDone = true → 1 ≤ k.noise →
       let a := averageOf (enterHistory f.history count) k.average
       let b := f.baseline
       let g := f.sample k count day minute
       let gathers := b ≤ a ∧ (a - b < k.noise ∨ k.autoReset = true)
       (k.autoReset = false → b + k.noise ≤ a → g.baseline = b ∧ g.bucket = f.bucket ∧ g.low = 0)
       ∧ (gathers → 0 < k.bucket → f.bucket + (a - b) < k.bucket →
           g.baseline = b ∧ g.bucket = f.bucket + (a - b) ∧ g.low = 0)
       ∧ (gathers → 0 < k.bucket → k.bucket ≤ f.bucket + (a - b) → g.baseline = b + 1 ∧ g.bucket = 0 ∧ g.low = 0)
       ∧ (gathers → k.bucket = 0 → g.baseline = (if b < a then b + 1 else b) ∧ g.bucket = 0 ∧ g.low = 0)
       ∧ (a < b → b ≤ a + k.negnoise → g.baseline = a ∧ g.bucket = f.bucket ∧ g.low = 0)
       ∧ (a + k.negnoise < b → f.low + 1 < k.lowreset → g.baseline = b ∧ g.bucket = f.bucket ∧ g.low = f.low + 1)
       ∧ (a + k.negnoise < b → k.lowreset ≤ f.low + 1 → g.baseline = a ∧ g.bucket = 0 ∧ g.low = 0))
  ∧ (∀ (f : Filter) (k : Sense) (count day minute average : Nat) (h : List Nat),
       (f.initDone = true → f.history.length ≤ 8 →
         (f.sample k count day minute).history =
           (if f.history.length = 8 then f.history.drop 1 else f.history) ++ [count])
       ∧ (∀ recent earlier, h = earlier ++ recent → recent.length = min average h.length → recent ≠ [] →
           averageOf h average * recent.length ≤ recent.sum
             ∧ recent.sum < (averageOf h average + 1) * recent.length))

/-! ### The kitchen link -/

/-- The end of a frame starts the answer wait; the byte time before a resend, which is the one after the answer (log
entry 23), ends with the same frame on the wire; the byte time after an answer ends with the driver free for the next
frame. While a frame is on the wire the line carries its words, each as four bytes, most significant first, each byte as
a start bit, eight data bits and a stop bit. KWAIT running out with no valid answer halts the link with reason SILENT,
raises KITCHEN and keeps the context and the order; after RESTART the link becomes IDLE without a fault. The answers
that count as none: to a link that is not AWAITING, with a wrong sync word, verdict or checksum, and from the addressed
station with another order number or ticket index. A ticket frame is assembled from O0 to O3 and its item words, a
recall frame from O0, O2 and O3; the whole frame is eight zero words, the sync word, the header, the items filled with
zero words, the checksum and a zero word, and it begins to be sent unless the byte time after an answer still runs. The
tickets total is recorded with the read of O0 (log entry 22), the header takes room, start and total from the entry as
it stands at the last read (log entry 41), and a ticket beyond the item count has no items (log entry 51). After RESTART
the first valid answer of the addressed station makes the link IDLE and has O6 and O7 written, at the addresses that the
order had at the RESTART (log entry 42) and O7 after an error on O6 too (log entry 43), the final write before a read of
an assembly (log entry 46). -/
def Obligations.KitchenLinkEvents : Prop :=
  (∀ s : State,
     (s.klc.stage = .onWire → s.klc.finishing = false →
       Runs .frameSent s fun t => ChangesOnly [.catering] s t ∧ t.klc = { s.klc with link := .awaiting, stage := .quiet })
     ∧ (s.klc.stage = .onWire → s.klc.finishing = true → s.ctu.phase = .setup →
         Runs .frameSent s fun t =>
           ChangesOnly [.catering] s t ∧ t.klc = { s.klc with link := .idle, stage := .quiet, finishing := false })
     ∧ (s.klc.stage = .resendGap →
         Runs .frameResend s fun t =>
           ChangesOnly [.catering] s t ∧ t.klc = { s.klc with link := .sending, stage := .onWire, gap := false })
     ∧ (s.klc.link = .sending →
         Runs .nextFrameGapEnd s fun t =>
           ChangesOnly [.catering] s t
             ∧ t.klc =
                 { s.klc with gap := false, stage := if s.klc.stage = .assembled then .onWire else s.klc.stage }))
  ∧ (∀ k : Klc,
       (k.stage = .onWire →
         ∃ sent, k.line = some sent ∧ sent.length = 40 * k.buffer.length
           ∧ ∀ i b n, i < k.buffer.length → b < 4 → n < 10 →
               sent[40 * i + 10 * b + n]? =
                 some
                   (if n = 0 then .start else if n = 9 then .stop
                     else .data ((k.buffer.getD i 0).getLsbD (8 * (3 - b) + (n - 1)))))
       ∧ (k.stage ≠ .onWire → k.line = none))
  ∧ (∀ s : State, s.klc.link = .awaiting →
       (s.klc.residue = none →
         Runs .answerWaitExpiry s fun t =>
           ChangesOnly [.ctu, .catering] s t ∧ t.ctu = { s.ctu with kitchenCause := true }
             ∧ t.klc = { s.klc with link := .halted, stage := .quiet, halt := .silent }
             ∧ t.cqu.entries = s.cqu.entries)
       ∧ (s.klc.residue.isSome → s.ctu.phase = .setup →
           Runs .answerWaitExpiry s fun t =>
             ChangesOnly [.catering] s t ∧ t.klc.link = .idle ∧ t.klc.residue = none))
  ∧ (∀ (s : State) (sync station number ticket verdict checksum : Word),
       s.klc.link ≠ .awaiting ∨ sync ≠ 0x5A3CC3A5 ∨ (verdict ≠ 1 ∧ verdict ≠ 2)
           ∨ checksum ≠ station + number + ticket + verdict
           ∨ (station = s.klc.frameStation ∧ (number ≠ s.klc.frameOrderNumber ∨ ticket ≠ s.klc.frameTicket)) →
       Runs (.kitchenAnswer sync station number ticket verdict checksum) s (ChangesOnly [] s))
  ∧ (∀ (s : State) (x : Access) (c : Context) (e : OrderEntry) (got : List Word) (nextFirst : Bool),
       s.mps.granted = some x → x.owner = .klcAssembly → x.write = false → NoneWaits s .klc → s.klc.final = [] →
       s.klc.stage = .assembling got → s.klc.context = some c → s.orderEntry c.order = some e → TablesCanonical s →
       e.total ≤ 8 → c.ticketIndex ≤ 8 →
       let all := got ++ [readWord s.mem x.addr]
       let o0 := all.getD 0 0
       let items := min 32 (bits o0 23 16 - 32 * (c.ticketIndex - 1))
       let header := e.at_.room.val + e.total * 2 ^ 8 + bits o0 3 0 * 2 ^ 24
       let reads : Addr → Prop := fun addr =>
         Runs (.memoryAccessComplete false nextFirst) s fun t =>
           LeavesAlone [.catering] s t ∧ SameMemory s t ∧ t.klc = { s.klc with stage := .assembling all }
             ∧ AccessStands ⟨.klcAssembly, false, addr, 0, 15#4⟩ t
       let sends : List Word → Prop := fun body =>
         Runs (.memoryAccessComplete false nextFirst) s fun t =>
           LeavesAlone [.catering] s t ∧ SameMemory s t
             ∧ t.klc =
                 { s.klc with
                   stage := if s.klc.gap then .assembled else .onWire
                   buffer := List.replicate 8 0 ++ [0x5A3CC3A5] ++ body ++ [body.foldl (· + ·) 0, 0] }
       (c.kind = .ticket →
         (all.length < 4 → reads (s.orderAddr c.order all.length))
         ∧ (all.length = 1 →
             Runs (.memoryAccessComplete false nextFirst) s fun t =>
               t.orderEntry c.order = some { e with total := (bits o0 23 16 + 31) / 32 })
         ∧ (4 ≤ all.length → all.length - 4 < items →
             reads (addrAt (bits (all.getD 1 0) 23 2 * 4) (4 * (32 * (c.ticketIndex - 1) + (all.length - 4)))))
         ∧ (all.length = 4 + items →
             sends
               ([BitVec.ofNat 32 (header + c.ticketIndex * 2 ^ 16), all.getD 2 0, BitVec.ofNat 32 e.start, all.getD 3 0]
                 ++ all.drop 4 ++ List.replicate (32 - items) 0)))
       ∧ (c.kind = .recall →
           (all.length = 1 → reads (s.orderAddr c.order 2)) ∧ (all.length = 2 → reads (s.orderAddr c.order 3))
             ∧ (all.length = 3 →
                 sends [BitVec.ofNat 32 (header + 2 ^ 31), all.getD 1 0, BitVec.ofNat 32 e.start, all.getD 2 0])))
  ∧ (∀ (s : State) (r : Residue) (nextFirst : Bool), TablesCanonical s →
       r.ticketIndex ≤ 8 → r.accepted ≤ 8 → r.total ≤ 8 → r.retries ≤ 7 →
       let st := s.klc.frameStation
       let number := s.klc.frameOrderNumber
       let ticket := s.klc.frameTicket
       (s.klc.link = .awaiting → s.klc.residue = some r →
         (∀ verdict : Word, verdict = 1 ∨ verdict = 2 → s.ctu.phase = .setup →
           let o6 : Word :=
             BitVec.ofNat 32
               ((if verdict = 1 ∧ r.kind = .ticket then r.ticketIndex else r.accepted) + r.total * 2 ^ 8)
           let o7 : Word := verdict ||| BitVec.ofNat 32 ((if verdict = 1 then 0 else r.retries) * 2 ^ 8)
           Runs (.kitchenAnswer 0x5A3CC3A5 st number ticket verdict (st + number + ticket + verdict)) s fun t =>
             ChangesOnly [.catering] s t
               ∧ (t.klc.link = .idle ∧ t.klc.context = none ∧ t.klc.residue = none ∧ t.klc.gap = true)
               ∧ t.klc.final = s.klc.final ++ [(r.addr6, o6), (r.addr7, o7)]
               ∧ (s.klc.final = [] → s.mps.outstanding .klc = false →
                     AccessStands ⟨.klcFinal, true, r.addr6, o6, 15#4⟩ t))
         ∧ (∀ station verdict : Word, station ≠ st → verdict = 1 ∨ verdict = 2 →
             Runs (.kitchenAnswer 0x5A3CC3A5 station number ticket verdict (station + number + ticket + verdict)) s
               (ChangesOnly [] s)))
       ∧ (∀ (x : Access) (error : Bool), s.mps.granted = some x → x.owner = .klcFinal → NoneWaits s .klc →
           (∀ w w' rest, s.klc.final = w :: w' :: rest →
             Runs (.memoryAccessComplete error nextFirst) s fun t =>
               t.klc.final = w' :: rest ∧ AccessStands ⟨.klcFinal, true, w'.1, w'.2, 15#4⟩ t
                 ∧ t.ctu = { s.ctu with flags := if error then s.ctu.flags ||| 0x800 else s.ctu.flags })
           ∧ (∀ w, s.klc.final = [w] →
               Runs (.memoryAccessComplete error nextFirst) s fun t =>
                 t.klc.final = []
                   ∧ t.ctu = { s.ctu with flags := if error then s.ctu.flags ||| 0x800 else s.ctu.flags })))

/-- An ACCEPT of the ticket in flight: the tickets accepted rise by one; without a disposition mark an order whose last
ticket it was becomes ACCEPTED (one with more tickets accepted than its total too, log entry 52), and any other goes on
with its next ticket; with a mark, the order is settled by it. An ACCEPT of a recall makes the order RECALLED, or joins
it to the Catering Queue anew where its resend mark is set. A CHECKFAIL of the frame in flight (a soft fault) settles a
marked order by its mark; without a mark it halts the link under HALT-ON-SOFT, resends the frame while retries are left,
and makes the order FAILED else. That the retries used stand as they are where a mark takes effect is the model's (log
entry 59). A valid answer of another station (a mismatch) resends the frame and halts the link at the sixteenth. The
byte time before the next frame runs after each; during the byte time before a resend the link reads SENDING (log entry
23). The count and the effect of a mark are decided before a word of the order is presented (log entry 57). -/
def Obligations.AnswersOfTheKitchen : Prop :=
  (∀ (s : State) (c : Context) (e : OrderEntry), TablesCanonical s → s.klc.link = .awaiting → s.klc.residue = none →
     s.klc.context = some c → s.orderEntry c.order = some e →
     let st := s.klc.frameStation
     let number := s.klc.frameOrderNumber
     let ticket := s.klc.frameTicket
     let answer : Instr := .kitchenAnswer 0x5A3CC3A5 st number ticket 1 (st + number + ticket + 1)
     let took : OrderEntry := { e with accepted := e.accepted + 1, verdict := .accept, retries := 0 }
     (c.kind = .ticket → c.mark = .none → e.accepted + 1 < e.total →
       Runs answer s fun t =>
         ChangesOnly [.ctu, .catering] s t ∧ t.orderEntry c.order = some took ∧ t.klc.link = .sending
           ∧ t.klc.context = some { c with ticketIndex := e.accepted + 2, mismatches := 0 }
           ∧ t.klc.stage = .assembling [] ∧ t.klc.gap = true)
     ∧ (c.kind = .ticket → c.mark = .none → e.total ≤ e.accepted + 1 →
         Runs answer s fun t =>
           ChangesOnly [.ctu, .catering] s t ∧ t.orderEntry c.order = some { took with state := .accepted } ∧ t.klc.gap = true
             ∧ t.locked c.order = (if e.state = .accepted then s.locked c.order else true))
     ∧ (c.kind = .ticket → c.mark ≠ .none →
         Runs answer s fun t =>
           ChangesOnly [.ctu, .catering] s t ∧ Disposed s t c.order c.mark took ∧ t.klc.gap = true
             ∧ (s.ctu.phase ≠ .running → t.klc.link = .idle ∧ t.klc.context = none))
     ∧ (c.kind = .recall → e.resend = false →
         Runs answer s fun t =>
           ChangesOnly [.ctu, .catering] s t ∧ t.klc.gap = true
             ∧ t.orderEntry c.order = some { e with state := .recalled, verdict := .accept, retries := 0 })
     ∧ (c.kind = .recall → e.resend = true →
         Runs answer s fun t =>
           ChangesOnly [.ctu, .catering] s t ∧ t.klc.gap = true
             ∧ Requeued s t c.order { e with verdict := .accept, retries := 0, resend := false, accepted := 0 }))
  ∧ (∀ (s : State) (c : Context) (e : OrderEntry), TablesCanonical s → s.klc.link = .awaiting → s.klc.residue = none →
       s.klc.context = some c → s.orderEntry c.order = some e →
       let st := s.klc.frameStation
       let number := s.klc.frameOrderNumber
       let ticket := s.klc.frameTicket
       let checkfail : Instr := .kitchenAnswer 0x5A3CC3A5 st number ticket 2 (st + number + ticket + 2)
       (c.mark ≠ .none →
         Runs checkfail s fun t =>
           ChangesOnly [.ctu, .catering] s t ∧ Disposed s t c.order c.mark { e with verdict := .checkfail } ∧ t.klc.gap = true
             ∧ t.klc.link ≠ .halted)
       ∧ (c.mark = .none → s.haltOnSoft = true →
           Runs checkfail s fun t =>
             ChangesOnly [.ctu, .catering] s t ∧ t.ctu = { s.ctu with kitchenCause := true } ∧ t.klc.gap = true
               ∧ t.klc.link = .halted ∧ t.klc.halt = .soft ∧ t.klc.context = some { c with mismatches := 0 }
               ∧ t.orderEntry c.order = some { e with verdict := .checkfail })
       ∧ (c.mark = .none → s.haltOnSoft = false → e.retries < s.retries →
           Runs checkfail s fun t =>
             ChangesOnly [.catering] s t ∧ t.klc.link = .sending ∧ t.klc.stage = .resendGap ∧ t.klc.gap = true
               ∧ t.klc.buffer = s.klc.buffer ∧ t.klc.context = some { c with mismatches := 0 }
               ∧ t.orderEntry c.order = some { e with verdict := .checkfail, retries := e.retries + 1 })
       ∧ (c.mark = .none → s.haltOnSoft = false → s.retries ≤ e.retries → e.state ≠ .failed →
           Runs checkfail s fun t =>
             ChangesOnly [.ctu, .catering] s t ∧ t.ctu = { s.ctu with kitchenCause := true } ∧ t.klc.gap = true
               ∧ t.orderEntry c.order =
                   some { e with verdict := .checkfail, state := .failed, failure := .soft, resend := false })
       ∧ (∀ station verdict : Word, station ≠ st → verdict = 1 ∨ verdict = 2 →
           let other : Instr :=
             .kitchenAnswer 0x5A3CC3A5 station number ticket verdict (station + number + ticket + verdict)
           (c.mismatches + 1 < 16 →
             Runs other s fun t =>
               ChangesOnly [.catering] s t ∧ t.klc.link = .sending ∧ t.klc.stage = .resendGap ∧ t.klc.gap = true
                 ∧ t.klc.buffer = s.klc.buffer ∧ t.klc.context = some { c with mismatches := c.mismatches + 1 }
                 ∧ t.cqu.entries = s.cqu.entries)
           ∧ (16 ≤ c.mismatches + 1 →
               Runs other s fun t =>
                 ChangesOnly [.ctu, .catering] s t ∧ t.ctu = { s.ctu with kitchenCause := true } ∧ t.klc.gap = true
                   ∧ t.klc.link = .halted ∧ t.klc.halt = .station
                   ∧ t.klc.context = some { c with mismatches := c.mismatches + 1 } ∧ t.cqu.entries = s.cqu.entries)))

/-- An idle link in RUNNING takes the head of the Recall List first, and then the first DUE order of the Catering Queue
as its next ticket; the order's state becomes SENDING, and it leaves the queue. An order that is placed in the queue or
on the Recall List stands there once, and leaves the place it held, the in-flight context included (what the link then
does is log entry 44); in the queue it stands by ascending due minute, and among equal due minutes by ascending order
index, at the due minute it is queued with. A decided change of an entry puts the order at the tail of the write list
unless it stands there already; a new state sets or clears the order's mark in the locked-order set, and a change to
FAILED makes KITCHEN pending. With no access of its own outstanding, the Catering Queue Unit presents the next of the
words O4, O5, O6 and O7 of the order it writes, or O4 of the first order of the list, taken from the entry as it then
stands; with one outstanding it presents nothing. When O4, O5 or O6 has been written, with an error or without, the next
word is presented, and after O7 the next order of the list is begun. That an idle link takes an order before its O4 is
presented is the model's (log entry 54). -/
def Obligations.LinkTakesWork : Prop :=
  (∀ (s : State) (o : OrderIx), s.klc.link = .idle → s.klc.context = none → s.ctu.phase = .running → TablesCanonical s →
     (∀ rest, s.cqu.recalls = o :: rest →
       s.lookForWork.klc.context = some ⟨o, .recall, 0, .none, 0⟩ ∧ s.lookForWork.klc.link = .sending
         ∧ s.lookForWork.cqu.recalls = rest ∧ s.lookForWork.cqu.entries = s.cqu.entries)
     ∧ (∀ before after e, s.cqu.recalls = [] → s.cqu.queue = before ++ o :: after → s.orderEntry o = some e →
         e.state = .due → (∀ q ∈ before, (s.orderEntry q).map (·.state) ≠ some .due) →
         s.lookForWork.klc.context = some ⟨o, .ticket, e.accepted + 1, .none, 0⟩ ∧ s.lookForWork.klc.link = .sending
           ∧ s.lookForWork.orderEntry o = some { e with state := .sending } ∧ s.lookForWork.locked o = true
           ∧ o ∉ s.lookForWork.cqu.queue))
  ∧ (∀ (s : State) (o : OrderIx),
       ((s.enqueue o).cqu.queue.count o = 1 ∧ o ∉ (s.enqueue o).cqu.recalls
         ∧ (s.enqueue o).klc.context.map (·.order) ≠ some o
         ∧ ∀ q, q ≠ o →
             (s.enqueue o).cqu.queue.count q = s.cqu.queue.count q ∧ (s.enqueue o).cqu.recalls.count q = s.cqu.recalls.count q)
       ∧ ((s.recall o).cqu.recalls.count o = 1 ∧ o ∉ (s.recall o).cqu.queue ∧ (s.recall o).klc.context.map (·.order) ≠ some o
           ∧ (s.recall o).cqu.recalls.getLast? = some o
           ∧ ∀ q, q ≠ o →
               (s.recall o).cqu.queue.count q = s.cqu.queue.count q ∧ (s.recall o).cqu.recalls.count q = s.cqu.recalls.count q)
       ∧ (s.klc.context.map (·.order) ≠ some o → (s.enqueue o).klc = s.klc ∧ (s.recall o).klc = s.klc)
       ∧ PlacedByDue (dueMinute s) o (s.enqueue o).cqu.queue (s.cqu.queue.filter (· != o)))
  ∧ (∀ (s : State) (o : OrderIx) (e : OrderEntry), TablesCanonical s →
       let due := e.at_.book = s.clock.today ∧ e.due ≤ s.clock.minute
       let t := s.queueOrder o e
       t.orderEntry o = some { e with state := if due then .due else .attached }
         ∧ PlacedByDue (dueMinute t) o t.cqu.queue (s.cqu.queue.filter (· != o)))
  ∧ (∀ (s : State) (o : OrderIx) (e : OrderEntry), TablesCanonical s →
       let t := s.decideOrder o e
       let changes := (s.orderEntry o).map (·.state) ≠ some e.state
       (s.orderEntry o = some e → t = s)
       ∧ (s.orderEntry o ≠ some e →
           t.orderEntry o = some e ∧ (∀ q, q ≠ o → t.orderEntry q = s.orderEntry q)
             ∧ (o ∈ s.cqu.writeList → t.cqu.writeList = s.cqu.writeList)
             ∧ (o ∉ s.cqu.writeList → t.cqu.writeList = s.cqu.writeList ++ [o])
             ∧ (changes → t.locked o = decide (e.state ∈ [OrderState.attached, .due, .sending, .accepted, .recalling]))
             ∧ (¬ changes → t.locked o = s.locked o) ∧ (∀ q, q ≠ o → t.locked q = s.locked q)
             ∧ (changes → e.state = .failed → t.ctu = { s.ctu with kitchenCause := true })
             ∧ (¬ changes ∨ e.state ≠ .failed → t.ctu = s.ctu)
             ∧ t =
                 { s with
                   mps := { s.mps with locked := t.mps.locked }, ctu := t.ctu
                   cqu := { s.cqu with entries := t.cqu.entries, writeList := t.cqu.writeList } }))
  ∧ (∀ s : State, TablesCanonical s →
       (s.mps.outstanding .cqu = true → (settle s).cqu.writing = s.cqu.writing)
       ∧ (s.mps.outstanding .cqu = false →
           (∀ o n, s.cqu.writing = some (o, n) → s.orderEntry o ≠ none →
             (settle s).cqu.writing = some (o, n) ∧ s.cqu.writeList <+: (settle s).cqu.writeList
               ∧ OrderWordStands o n (settle s))
           ∧ (∀ o rest, s.cqu.writing = none → s.cqu.writeList = o :: rest → s.orderEntry o ≠ none →
               (settle s).cqu.writing = some (o, 0) ∧ rest <+: (settle s).cqu.writeList
                 ∧ OrderWordStands o 0 (settle s))
           ∧ (s.cqu.writing = none → s.cqu.writeList = [] → s.klc.link ≠ .idle → (settle s).cqu = s.cqu)))
  ∧ (∀ (s : State) (x : Access) (o : OrderIx) (n : Nat) (error nextFirst : Bool), TablesCanonical s →
       s.mps.granted = some x → x.owner = .cqu →
       NoneWaits s .cqu → s.cqu.writing = some (o, n) →
       (n < 3 → s.orderEntry o ≠ none →
         Runs (.memoryAccessComplete error nextFirst) s fun t =>
           t.cqu.writing = some (o, n + 1) ∧ s.cqu.writeList <+: t.cqu.writeList ∧ OrderWordStands o (n + 1) t)
       ∧ (∀ q rest, n = 3 → s.cqu.writeList = q :: rest → s.orderEntry q ≠ none →
           Runs (.memoryAccessComplete error nextFirst) s fun t =>
             t.cqu.writing = some (q, 0) ∧ rest <+: t.cqu.writeList ∧ OrderWordStands q 0 t)
       ∧ (n = 3 → s.cqu.writeList = [] → s.klc.link ≠ .idle →
           Runs (.memoryAccessComplete error nextFirst) s fun t => t.cqu = { s.cqu with writing := none }))

/-! ### What every step keeps -/

/-- The memory, the pool, the tables, the bookings, the queues, the walk, the modes and the clock agree in the state
after reset. -/
def Obligations.InvariantsHoldAtReset : Prop :=
  Memory.wf State.reset.mem = true ∧ PoolAgrees State.reset.adu ∧ TablesCanonical State.reset ∧ PanelsAgree State.reset
    ∧ PhaseAgrees State.reset ∧ ValidatedOutsideSetup State.reset ∧ ClockInRange State.reset.clock
    ∧ BookingSideAgrees State.reset ∧ QueuesAgree State.reset ∧ WalkRests State.reset

/-- Every step keeps the memory in its canonical form. Memory is changed by the completion of a memory access alone:
every other command leaves every byte as it was. That the memory is state of the model, which a completion alone
changes, is its reading of the spec (log entry 4). -/
def Obligations.StepKeepsTheMemory : Prop :=
  (∀ s t : State, Memory.wf s.mem = true → step s = .next t → Memory.wf t.mem = true)
  ∧ (∀ (c : Instr) (s t : State), (∀ error nextFirst, c ≠ .memoryAccessComplete error nextFirst) → exec c s = .next t →
       t.mem = s.mem)

/-- Every step keeps the law of the Interval Pool: each of the 1024 entries is on the free list once or owned, and never
both. Every step keeps the bookings in agreement: a slot is LIVE with an index exactly where that entry is the slot's, a
Room Schedule lists exactly the entries of its room and book, each once, by rising start, no two bookings of a room
share a minute, an order is bound to an entry exactly where that entry names it, and the claim in progress, the pass and
SETUP agree with them. -/
def Obligations.StepKeepsThePool : Prop :=
  (∀ s t : State, PoolAgrees s.adu → step s = .next t → PoolAgrees t.adu)
  ∧ (∀ s t : State, TablesCanonical s → PoolAgrees s.adu → PhaseAgrees s → ClockInRange s.clock → BookingSideAgrees s →
       step s = .next t → BookingSideAgrees t)

/-- Every step keeps every table of the state in its canonical form, the scan position tables too, and the lines of
every page at 16 cells. Every step keeps the Panel Event Queue at 24 entries at most, the Catering Queue and the Recall
List without duplicates, and no order in two of the queue, the list and the in-flight context. Every step keeps it that
outside RUNNING no walk is under way, no minute-driven claim stands at the arbiter, and no minute expiry waits to be
worked. -/
def Obligations.StepKeepsTheTablesCanonical : Prop :=
  (∀ s t : State, TablesCanonical s → step s = .next t → TablesCanonical t)
  ∧ (∀ s t : State, TablesCanonical s → PanelsAgree s → step s = .next t → PanelsAgree t)
  ∧ (∀ s t : State, QueuesAgree s → WalkRests s → step s = .next t → QueuesAgree t ∧ WalkRests t)

/-- Every step keeps phase, running START, pass and windows in agreement, and the Campus Clock in its ranges. Every step
keeps it that outside SETUP the layout and the settings are valid and the windows stand at their bases. -/
def Obligations.StepKeepsPhaseAndClock : Prop :=
  (∀ s t : State, PhaseAgrees s → ClockInRange s.clock → step s = .next t → PhaseAgrees t ∧ ClockInRange t.clock)
  ∧ (∀ s t : State, PhaseAgrees s → ValidatedOutsideSetup s → step s = .next t → ValidatedOutsideSetup t)
end

