-- ==== Sys2Proof/Laws/State.lean ====
section
/-! SUPPORT. What each block update changes and leaves: one lemma per field per update. -/

namespace Sys2Proof.Machine

section Mps
variable (s : State) (f : Mps → Mps)

@[simp] theorem State.onMps_mps : (s.onMps f).mps = f s.mps := rfl
@[simp] theorem State.onMps_ctu : (s.onMps f).ctu = s.ctu := rfl
@[simp] theorem State.onMps_clock : (s.onMps f).clock = s.clock := rfl
@[simp] theorem State.onMps_adu : (s.onMps f).adu = s.adu := rfl
@[simp] theorem State.onMps_bsc : (s.onMps f).bsc = s.bsc := rfl
@[simp] theorem State.onMps_plu : (s.onMps f).plu = s.plu := rfl
@[simp] theorem State.onMps_ocf : (s.onMps f).ocf = s.ocf := rfl
@[simp] theorem State.onMps_atu : (s.onMps f).atu = s.atu := rfl
@[simp] theorem State.onMps_cqu : (s.onMps f).cqu = s.cqu := rfl
@[simp] theorem State.onMps_klc : (s.onMps f).klc = s.klc := rfl
@[simp] theorem State.onMps_mem : (s.onMps f).mem = s.mem := rfl
@[simp] theorem State.onMps_resetAsserted : (s.onMps f).resetAsserted = s.resetAsserted := rfl
@[simp] theorem State.onMps_freeCount : (s.onMps f).freeCount = s.freeCount := rfl
@[simp] theorem State.onMps_pending : (s.onMps f).pending = s.pending := rfl

end Mps

section Ctu
variable (s : State) (f : Ctu → Ctu)

@[simp] theorem State.onCtu_mps : (s.onCtu f).mps = s.mps := rfl
@[simp] theorem State.onCtu_ctu : (s.onCtu f).ctu = f s.ctu := rfl
@[simp] theorem State.onCtu_clock : (s.onCtu f).clock = s.clock := rfl
@[simp] theorem State.onCtu_adu : (s.onCtu f).adu = s.adu := rfl
@[simp] theorem State.onCtu_bsc : (s.onCtu f).bsc = s.bsc := rfl
@[simp] theorem State.onCtu_plu : (s.onCtu f).plu = s.plu := rfl
@[simp] theorem State.onCtu_ocf : (s.onCtu f).ocf = s.ocf := rfl
@[simp] theorem State.onCtu_atu : (s.onCtu f).atu = s.atu := rfl
@[simp] theorem State.onCtu_cqu : (s.onCtu f).cqu = s.cqu := rfl
@[simp] theorem State.onCtu_klc : (s.onCtu f).klc = s.klc := rfl
@[simp] theorem State.onCtu_mem : (s.onCtu f).mem = s.mem := rfl
@[simp] theorem State.onCtu_resetAsserted : (s.onCtu f).resetAsserted = s.resetAsserted := rfl
@[simp] theorem State.onCtu_freeCount : (s.onCtu f).freeCount = s.freeCount := rfl
@[simp] theorem State.onCtu_pending : (s.onCtu f).pending = s.pending := rfl

end Ctu

section Clock
variable (s : State) (f : Clock → Clock)

@[simp] theorem State.onClock_mps : (s.onClock f).mps = s.mps := rfl
@[simp] theorem State.onClock_ctu : (s.onClock f).ctu = s.ctu := rfl
@[simp] theorem State.onClock_clock : (s.onClock f).clock = f s.clock := rfl
@[simp] theorem State.onClock_adu : (s.onClock f).adu = s.adu := rfl
@[simp] theorem State.onClock_bsc : (s.onClock f).bsc = s.bsc := rfl
@[simp] theorem State.onClock_plu : (s.onClock f).plu = s.plu := rfl
@[simp] theorem State.onClock_ocf : (s.onClock f).ocf = s.ocf := rfl
@[simp] theorem State.onClock_atu : (s.onClock f).atu = s.atu := rfl
@[simp] theorem State.onClock_cqu : (s.onClock f).cqu = s.cqu := rfl
@[simp] theorem State.onClock_klc : (s.onClock f).klc = s.klc := rfl
@[simp] theorem State.onClock_mem : (s.onClock f).mem = s.mem := rfl
@[simp] theorem State.onClock_resetAsserted : (s.onClock f).resetAsserted = s.resetAsserted := rfl
@[simp] theorem State.onClock_freeCount : (s.onClock f).freeCount = s.freeCount := rfl
@[simp] theorem State.onClock_pending : (s.onClock f).pending = s.pending := rfl

end Clock

section Adu
variable (s : State) (f : Adu → Adu)

@[simp] theorem State.onAdu_mps : (s.onAdu f).mps = s.mps := rfl
@[simp] theorem State.onAdu_ctu : (s.onAdu f).ctu = s.ctu := rfl
@[simp] theorem State.onAdu_clock : (s.onAdu f).clock = s.clock := rfl
@[simp] theorem State.onAdu_adu : (s.onAdu f).adu = f s.adu := rfl
@[simp] theorem State.onAdu_bsc : (s.onAdu f).bsc = s.bsc := rfl
@[simp] theorem State.onAdu_plu : (s.onAdu f).plu = s.plu := rfl
@[simp] theorem State.onAdu_ocf : (s.onAdu f).ocf = s.ocf := rfl
@[simp] theorem State.onAdu_atu : (s.onAdu f).atu = s.atu := rfl
@[simp] theorem State.onAdu_cqu : (s.onAdu f).cqu = s.cqu := rfl
@[simp] theorem State.onAdu_klc : (s.onAdu f).klc = s.klc := rfl
@[simp] theorem State.onAdu_mem : (s.onAdu f).mem = s.mem := rfl
@[simp] theorem State.onAdu_resetAsserted : (s.onAdu f).resetAsserted = s.resetAsserted := rfl
@[simp] theorem State.onAdu_freeCount : (s.onAdu f).freeCount = s.freeCount := rfl
@[simp] theorem State.onAdu_pending : (s.onAdu f).pending = s.pending := rfl

end Adu

section Bsc
variable (s : State) (f : Bsc → Bsc)

@[simp] theorem State.onBsc_mps : (s.onBsc f).mps = s.mps := rfl
@[simp] theorem State.onBsc_ctu : (s.onBsc f).ctu = s.ctu := rfl
@[simp] theorem State.onBsc_clock : (s.onBsc f).clock = s.clock := rfl
@[simp] theorem State.onBsc_adu : (s.onBsc f).adu = s.adu := rfl
@[simp] theorem State.onBsc_bsc : (s.onBsc f).bsc = f s.bsc := rfl
@[simp] theorem State.onBsc_plu : (s.onBsc f).plu = s.plu := rfl
@[simp] theorem State.onBsc_ocf : (s.onBsc f).ocf = s.ocf := rfl
@[simp] theorem State.onBsc_atu : (s.onBsc f).atu = s.atu := rfl
@[simp] theorem State.onBsc_cqu : (s.onBsc f).cqu = s.cqu := rfl
@[simp] theorem State.onBsc_klc : (s.onBsc f).klc = s.klc := rfl
@[simp] theorem State.onBsc_mem : (s.onBsc f).mem = s.mem := rfl
@[simp] theorem State.onBsc_resetAsserted : (s.onBsc f).resetAsserted = s.resetAsserted := rfl
@[simp] theorem State.onBsc_freeCount : (s.onBsc f).freeCount = s.freeCount := rfl
@[simp] theorem State.onBsc_pending : (s.onBsc f).pending = s.pending := rfl

end Bsc

section Plu
variable (s : State) (f : Plu → Plu)

@[simp] theorem State.onPlu_mps : (s.onPlu f).mps = s.mps := rfl
@[simp] theorem State.onPlu_ctu : (s.onPlu f).ctu = s.ctu := rfl
@[simp] theorem State.onPlu_clock : (s.onPlu f).clock = s.clock := rfl
@[simp] theorem State.onPlu_adu : (s.onPlu f).adu = s.adu := rfl
@[simp] theorem State.onPlu_bsc : (s.onPlu f).bsc = s.bsc := rfl
@[simp] theorem State.onPlu_plu : (s.onPlu f).plu = f s.plu := rfl
@[simp] theorem State.onPlu_ocf : (s.onPlu f).ocf = s.ocf := rfl
@[simp] theorem State.onPlu_atu : (s.onPlu f).atu = s.atu := rfl
@[simp] theorem State.onPlu_cqu : (s.onPlu f).cqu = s.cqu := rfl
@[simp] theorem State.onPlu_klc : (s.onPlu f).klc = s.klc := rfl
@[simp] theorem State.onPlu_mem : (s.onPlu f).mem = s.mem := rfl
@[simp] theorem State.onPlu_resetAsserted : (s.onPlu f).resetAsserted = s.resetAsserted := rfl
@[simp] theorem State.onPlu_freeCount : (s.onPlu f).freeCount = s.freeCount := rfl
@[simp] theorem State.onPlu_pending : (s.onPlu f).pending = s.pending := rfl

end Plu

section Ocf
variable (s : State) (f : Ocf → Ocf)

@[simp] theorem State.onOcf_mps : (s.onOcf f).mps = s.mps := rfl
@[simp] theorem State.onOcf_ctu : (s.onOcf f).ctu = s.ctu := rfl
@[simp] theorem State.onOcf_clock : (s.onOcf f).clock = s.clock := rfl
@[simp] theorem State.onOcf_adu : (s.onOcf f).adu = s.adu := rfl
@[simp] theorem State.onOcf_bsc : (s.onOcf f).bsc = s.bsc := rfl
@[simp] theorem State.onOcf_plu : (s.onOcf f).plu = s.plu := rfl
@[simp] theorem State.onOcf_ocf : (s.onOcf f).ocf = f s.ocf := rfl
@[simp] theorem State.onOcf_atu : (s.onOcf f).atu = s.atu := rfl
@[simp] theorem State.onOcf_cqu : (s.onOcf f).cqu = s.cqu := rfl
@[simp] theorem State.onOcf_klc : (s.onOcf f).klc = s.klc := rfl
@[simp] theorem State.onOcf_mem : (s.onOcf f).mem = s.mem := rfl
@[simp] theorem State.onOcf_resetAsserted : (s.onOcf f).resetAsserted = s.resetAsserted := rfl
@[simp] theorem State.onOcf_freeCount : (s.onOcf f).freeCount = s.freeCount := rfl
@[simp] theorem State.onOcf_pending : (s.onOcf f).pending = s.pending := rfl

end Ocf

section Atu
variable (s : State) (f : Atu → Atu)

@[simp] theorem State.onAtu_mps : (s.onAtu f).mps = s.mps := rfl
@[simp] theorem State.onAtu_ctu : (s.onAtu f).ctu = s.ctu := rfl
@[simp] theorem State.onAtu_clock : (s.onAtu f).clock = s.clock := rfl
@[simp] theorem State.onAtu_adu : (s.onAtu f).adu = s.adu := rfl
@[simp] theorem State.onAtu_bsc : (s.onAtu f).bsc = s.bsc := rfl
@[simp] theorem State.onAtu_plu : (s.onAtu f).plu = s.plu := rfl
@[simp] theorem State.onAtu_ocf : (s.onAtu f).ocf = s.ocf := rfl
@[simp] theorem State.onAtu_atu : (s.onAtu f).atu = f s.atu := rfl
@[simp] theorem State.onAtu_cqu : (s.onAtu f).cqu = s.cqu := rfl
@[simp] theorem State.onAtu_klc : (s.onAtu f).klc = s.klc := rfl
@[simp] theorem State.onAtu_mem : (s.onAtu f).mem = s.mem := rfl
@[simp] theorem State.onAtu_resetAsserted : (s.onAtu f).resetAsserted = s.resetAsserted := rfl
@[simp] theorem State.onAtu_freeCount : (s.onAtu f).freeCount = s.freeCount := rfl
@[simp] theorem State.onAtu_pending : (s.onAtu f).pending = s.pending := rfl

end Atu

section Cqu
variable (s : State) (f : Cqu → Cqu)

@[simp] theorem State.onCqu_mps : (s.onCqu f).mps = s.mps := rfl
@[simp] theorem State.onCqu_ctu : (s.onCqu f).ctu = s.ctu := rfl
@[simp] theorem State.onCqu_clock : (s.onCqu f).clock = s.clock := rfl
@[simp] theorem State.onCqu_adu : (s.onCqu f).adu = s.adu := rfl
@[simp] theorem State.onCqu_bsc : (s.onCqu f).bsc = s.bsc := rfl
@[simp] theorem State.onCqu_plu : (s.onCqu f).plu = s.plu := rfl
@[simp] theorem State.onCqu_ocf : (s.onCqu f).ocf = s.ocf := rfl
@[simp] theorem State.onCqu_atu : (s.onCqu f).atu = s.atu := rfl
@[simp] theorem State.onCqu_cqu : (s.onCqu f).cqu = f s.cqu := rfl
@[simp] theorem State.onCqu_klc : (s.onCqu f).klc = s.klc := rfl
@[simp] theorem State.onCqu_mem : (s.onCqu f).mem = s.mem := rfl
@[simp] theorem State.onCqu_resetAsserted : (s.onCqu f).resetAsserted = s.resetAsserted := rfl
@[simp] theorem State.onCqu_freeCount : (s.onCqu f).freeCount = s.freeCount := rfl
@[simp] theorem State.onCqu_pending : (s.onCqu f).pending = s.pending := rfl

end Cqu

section Klc
variable (s : State) (f : Klc → Klc)

@[simp] theorem State.onKlc_mps : (s.onKlc f).mps = s.mps := rfl
@[simp] theorem State.onKlc_ctu : (s.onKlc f).ctu = s.ctu := rfl
@[simp] theorem State.onKlc_clock : (s.onKlc f).clock = s.clock := rfl
@[simp] theorem State.onKlc_adu : (s.onKlc f).adu = s.adu := rfl
@[simp] theorem State.onKlc_bsc : (s.onKlc f).bsc = s.bsc := rfl
@[simp] theorem State.onKlc_plu : (s.onKlc f).plu = s.plu := rfl
@[simp] theorem State.onKlc_ocf : (s.onKlc f).ocf = s.ocf := rfl
@[simp] theorem State.onKlc_atu : (s.onKlc f).atu = s.atu := rfl
@[simp] theorem State.onKlc_cqu : (s.onKlc f).cqu = s.cqu := rfl
@[simp] theorem State.onKlc_klc : (s.onKlc f).klc = f s.klc := rfl
@[simp] theorem State.onKlc_mem : (s.onKlc f).mem = s.mem := rfl
@[simp] theorem State.onKlc_resetAsserted : (s.onKlc f).resetAsserted = s.resetAsserted := rfl
@[simp] theorem State.onKlc_freeCount : (s.onKlc f).freeCount = s.freeCount := rfl
@[simp] theorem State.onKlc_pending : (s.onKlc f).pending = s.pending := rfl

end Klc

end Sys2Proof.Machine
end

