-- ==== Sys2Proof/Laws/Tables.lean ====
section
/-! SUPPORT. Tables and memory: what a key reads after a write, and that every write keeps the canonical form. -/

namespace Sys2Proof.Machine

@[simp] theorem Table.get_nil {α : Type} (d : α) (i : Nat) : Table.get d [] i = d := rfl

variable {α : Type} [DecidableEq α]

/-- The canonical form of a table that lists something. -/
theorem Table.wfFrom_cons (d : α) (lo : Option Nat) (k : Nat) (v : α) (t : Table α) :
    Table.wfFrom d lo ((k, v) :: t) = true ↔
      (∀ l, lo = some l → l < k) ∧ v ≠ d ∧ Table.wfFrom d (some k) t = true := by
  cases lo <;> simp [Table.wfFrom, and_assoc]

/-- The lower bound of a canonical table may be lowered. -/
theorem Table.wfFrom_weaken (d : α) (lo lo' : Option Nat) (t : Table α)
    (h : Table.wfFrom d lo t = true) (hl : ∀ l', lo' = some l' → ∃ l, lo = some l ∧ l' ≤ l) :
    Table.wfFrom d lo' t = true := by
  cases t with
  | nil => simp [Table.wfFrom]
  | cons p t =>
    obtain ⟨k, v⟩ := p
    rw [Table.wfFrom_cons] at h ⊢
    refine ⟨?_, h.2⟩
    intro l' hl'
    obtain ⟨l, hlo, hle⟩ := hl l' hl'
    have := h.1 l hlo
    omega

/-- A key at or below the bound of a canonical table reads the default. -/
theorem Table.get_below (d : α) (t : Table α) (lo i : Nat) (h : Table.wfFrom d (some lo) t = true) (hi : i ≤ lo) :
    Table.get d t i = d := by
  induction t generalizing lo with
  | nil => rfl
  | cons p t ih =>
    obtain ⟨k, v⟩ := p
    rw [Table.wfFrom_cons] at h
    have := h.1 lo rfl
    simp only [Table.get]
    rw [if_neg (by omega)]
    exact ih k h.2.2 (by omega)

/-- A written key keeps the canonical form above a bound that lies below the key. -/
theorem Table.wfFrom_set (d : α) (t : Table α) (lo : Option Nat) (i : Nat) (v : α)
    (h : Table.wfFrom d lo t = true) (hi : ∀ l, lo = some l → l < i) :
    Table.wfFrom d lo (Table.set d t i v) = true := by
  induction t generalizing lo with
  | nil =>
    simp only [Table.set]
    split
    · simp [Table.wfFrom]
    · rename_i hv
      exact (Table.wfFrom_cons d lo i v []).2 ⟨hi, hv, by simp [Table.wfFrom]⟩
  | cons p t ih =>
    obtain ⟨k, w⟩ := p
    have h' := (Table.wfFrom_cons d lo k w t).1 h
    simp only [Table.set]
    split
    · rename_i hik
      split
      · exact h
      · rename_i hv
        refine (Table.wfFrom_cons d lo i v _).2 ⟨hi, hv, (Table.wfFrom_cons d (some i) k w t).2 ⟨?_, h'.2⟩⟩
        intro l hl
        simp only [Option.some.injEq] at hl
        omega
    · split
      · rename_i hik
        subst hik
        split
        · refine Table.wfFrom_weaken d (some i) lo t h'.2.2 ?_
          intro l' hl'
          exact ⟨i, rfl, Nat.le_of_lt (hi l' hl')⟩
        · rename_i hv
          exact (Table.wfFrom_cons d lo i v t).2 ⟨hi, hv, h'.2.2⟩
      · refine (Table.wfFrom_cons d lo k w _).2 ⟨h'.1, h'.2.1, ih (some k) h'.2.2 ?_⟩
        intro l hl
        simp only [Option.some.injEq] at hl
        omega

/-- A write keeps the canonical form. -/
theorem Table.wf_set (d : α) (t : Table α) (i : Nat) (v : α) (h : Table.wf d t = true) :
    Table.wf d (Table.set d t i v) = true :=
  Table.wfFrom_set d t none i v h (by intro l hl; cases hl)

/-- What a key reads after a write to a table canonical above a bound. -/
theorem Table.get_set_from (d : α) (t : Table α) (lo : Option Nat) (i j : Nat) (v : α)
    (h : Table.wfFrom d lo t = true) :
    Table.get d (Table.set d t i v) j = if j = i then v else Table.get d t j := by
  induction t generalizing lo with
  | nil =>
    simp only [Table.set]
    split
    · rename_i hv
      subst hv
      simp [Table.get]
    · simp [Table.get]
  | cons p t ih =>
    obtain ⟨k, w⟩ := p
    have h' := (Table.wfFrom_cons d lo k w t).1 h
    simp only [Table.set]
    split
    · rename_i hik
      split
      · rename_i hv
        by_cases hji : j = i
        · rw [if_pos hji]
          simp only [Table.get]
          rw [if_neg (by omega), Table.get_below d t k j h'.2.2 (by omega), hv]
        · rw [if_neg hji]
      · simp only [Table.get]
    · split
      · rename_i hik
        subst hik
        split
        · rename_i hv
          by_cases hji : j = i
          · rw [if_pos hji, Table.get_below d t i j h'.2.2 (by omega), hv]
          · simp [Table.get, hji]
        · simp only [Table.get]
          split <;> rfl
      · simp only [Table.get]
        split
        · rename_i hjk
          rw [if_neg (by omega)]
        · exact ih (some k) h'.2.2

/-- What a key reads after a write to a canonical table. -/
theorem Table.get_set (d : α) (t : Table α) (i j : Nat) (v : α) (h : Table.wf d t = true) :
    Table.get d (Table.set d t i v) j = if j = i then v else Table.get d t j :=
  Table.get_set_from d t none i j v h

/-! ### Memory -/

/-- Writing a byte keeps the canonical form. -/
theorem Memory.wf_writeByte (m : List Host.Cell) (a : Nat) (b : Byte) (h : Memory.wf m = true) :
    Memory.wf (writeByte m a b) = true := Table.wf_set _ m a b h

/-- What an address reads after a byte is written. -/
theorem readByte_writeByte (m : List Host.Cell) (a c : Nat) (b : Byte) (h : Memory.wf m = true) :
    readByte (writeByte m a b) c = if c = a then b else readByte m c := Table.get_set _ m a c b h

/-- Writing a lane keeps the canonical form. -/
theorem Memory.wf_writeLane (m : List Host.Cell) (a : Addr) (w : Word) (l : Lanes) (k : Nat) (h : Memory.wf m = true) :
    Memory.wf (writeLane m a w l k) = true := by
  unfold writeLane
  split
  · exact Memory.wf_writeByte m _ _ h
  · exact h

/-- Writing a word keeps the canonical form. -/
theorem Memory.wf_writeWord (m : List Host.Cell) (a : Addr) (w : Word) (l : Lanes) (h : Memory.wf m = true) :
    Memory.wf (writeWord m a w l) = true := by
  unfold writeWord
  exact Memory.wf_writeLane _ _ _ _ _ (Memory.wf_writeLane _ _ _ _ _ (Memory.wf_writeLane _ _ _ _ _
    (Memory.wf_writeLane _ _ _ _ _ h)))

/-- What an address reads after a lane is written. -/
theorem readByte_writeLane (m : List Host.Cell) (a : Addr) (w : Word) (l : Lanes) (k c : Nat) (h : Memory.wf m = true) :
    readByte (writeLane m a w l k) c =
      if l.getLsbD k = true ∧ c = wordBase a + k then laneByte w k else readByte m c := by
  unfold writeLane
  by_cases hl : l.getLsbD k = true
  · simp only [hl, if_true, true_and]
    exact readByte_writeByte m _ c _ h
  · simp [hl]

/-- What an address reads after a word is written: an enabled lane of the word reads the lane's byte, every other address
reads as before. -/
theorem readByte_writeWord (m : List Host.Cell) (a : Addr) (w : Word) (l : Lanes) (c : Nat) (h : Memory.wf m = true) :
    readByte (writeWord m a w l) c =
      if wordBase a ≤ c ∧ c < wordBase a + 4 ∧ l.getLsbD (c - wordBase a) = true then laneByte w (c - wordBase a)
      else readByte m c := by
  have h0 := Memory.wf_writeLane m a w l 0 h
  have h1 := Memory.wf_writeLane _ a w l 1 h0
  have h2 := Memory.wf_writeLane _ a w l 2 h1
  unfold writeWord
  rw [readByte_writeLane _ _ _ _ _ _ h2, readByte_writeLane _ _ _ _ _ _ h1, readByte_writeLane _ _ _ _ _ _ h0,
    readByte_writeLane _ _ _ _ _ _ h]
  by_cases hr : wordBase a ≤ c ∧ c < wordBase a + 4
  · obtain ⟨k, rfl⟩ : ∃ k, c = wordBase a + k := ⟨c - wordBase a, by omega⟩
    have hk : k = 0 ∨ k = 1 ∨ k = 2 ∨ k = 3 := by omega
    simp only [Nat.add_sub_cancel_left]
    rcases hk with rfl | rfl | rfl | rfl <;> simp
  · rw [if_neg (by omega), if_neg (by omega), if_neg (by omega), if_neg (by omega), if_neg (by
      intro hc; exact hr ⟨hc.1, hc.2.1⟩)]

/-- A word that is not touched keeps every byte. -/
theorem readByte_writeWord_outside (m : List Host.Cell) (a : Addr) (w : Word) (l : Lanes) (c : Nat)
    (h : Memory.wf m = true) (hc : c < wordBase a ∨ wordBase a + 4 ≤ c) :
    readByte (writeWord m a w l) c = readByte m c := by
  rw [readByte_writeWord m a w l c h, if_neg (by omega)]

end Sys2Proof.Machine
end

