-- ==== Sys2Proof/Laws/Pool.lean ====
section
/-! SUPPORT. Every operation keeps the agreement of the Interval Pool and the free list (`PoolAgrees`). One lemma per
operation. -/

namespace Sys2Proof.Machine

/-- The agreement rests on the pool and the free list alone. -/
theorem PoolAgrees.of_eq {a b : Adu} (hp : b.pool = a.pool) (hf : b.freeList = a.freeList) (h : PoolAgrees a) :
    PoolAgrees b := by
  unfold PoolAgrees at h ⊢
  rw [hp, hf]
  exact h

/-- The Admission Unit after reset agrees. -/
theorem PoolAgrees.reset : PoolAgrees {} := by
  unfold PoolAgrees
  simp only [List.mem_range, Table.get_nil, and_true, implies_true, Table.wf, Table.wfFrom, true_and]
  exact List.nodup_range

/-- An owned entry may be written over by another owned entry. -/
theorem PoolAgrees.overwrite {a b : Adu} (i : Nat) (e : PoolEntry) (hp : b.pool = Table.set none a.pool i (some e))
    (hf : b.freeList = a.freeList) (ho : Table.get none a.pool i ≠ none) (h : PoolAgrees a) : PoolAgrees b := by
  obtain ⟨hw, hn, hm, hl⟩ := h
  unfold PoolAgrees
  rw [hp, hf]
  refine ⟨Table.wf_set _ _ _ _ hw, hn, fun j => ?_, fun j hj => ?_⟩
  · rw [Table.get_set _ _ _ _ _ hw]
    by_cases hji : j = i
    · subst hji
      rw [if_pos rfl, hm]
      simp [ho]
    · rw [if_neg hji, hm]
  · rw [Table.get_set _ _ _ _ _ hw]
    by_cases hji : j = i
    · subst hji
      exact absurd (hl j hj) ho
    · rw [if_neg hji]
      exact hl j hj

/-- The head of the free list becomes owned. -/
theorem PoolAgrees.takeHead {a b : Adu} (i : Nat) (rest : List Nat) (e : PoolEntry) (hi : a.freeList = i :: rest)
    (hp : b.pool = Table.set none a.pool i (some e)) (hf : b.freeList = rest) (h : PoolAgrees a) : PoolAgrees b := by
  obtain ⟨hw, hn, hm, hl⟩ := h
  unfold PoolAgrees
  rw [hi] at hn hm
  have hc := List.nodup_cons.1 hn
  have hi' := (hm i).1 (List.mem_cons_self ..)
  rw [hp, hf]
  refine ⟨Table.wf_set _ _ _ _ hw, hc.2, fun j => ?_, fun j hj => ?_⟩
  · rw [Table.get_set _ _ _ _ _ hw]
    by_cases hji : j = i
    · subst hji
      simp [hc.1]
    · rw [if_neg hji, ← hm j]
      simp [hji]
  · rw [Table.get_set _ _ _ _ _ hw, if_neg (by omega)]
    exact hl j hj

/-- An owned entry is appended to the free list. -/
theorem PoolAgrees.free {a b : Adu} (i : Nat) (hp : b.pool = Table.set none a.pool i none)
    (hf : b.freeList = a.freeList ++ [i]) (ho : Table.get none a.pool i ≠ none) (h : PoolAgrees a) : PoolAgrees b := by
  obtain ⟨hw, hn, hm, hl⟩ := h
  unfold PoolAgrees
  have hni : i ∉ a.freeList := fun hc => ho ((hm i).1 hc).2
  have hlt : i < 1024 := by
    rcases Nat.lt_or_ge i 1024 with hlt | hge
    · exact hlt
    · exact absurd (hl i hge) ho
  rw [hp, hf]
  refine ⟨Table.wf_set _ _ _ _ hw, ?_, fun j => ?_, fun j hj => ?_⟩
  · refine List.nodup_append.2 ⟨hn, by simp, ?_⟩
    intro x hx y hy hxy
    simp only [List.mem_singleton] at hy
    subst hy
    subst hxy
    exact hni hx
  · rw [Table.get_set _ _ _ _ _ hw, List.mem_append, List.mem_singleton]
    by_cases hji : j = i
    · subst hji
      simp [hlt]
    · rw [if_neg hji, hm j]
      simp [hji]
  · rw [Table.get_set _ _ _ _ _ hw]
    split
    · rfl
    · exact hl j hj

/-- A fold of operations that keep the agreement keeps it. -/
theorem foldl_pool {β : Type} (f : State → β → State) (hf : ∀ s b, PoolAgrees s.adu → PoolAgrees (f s b).adu) (l : List β)
    (s : State) (h : PoolAgrees s.adu) : PoolAgrees (l.foldl f s).adu := by
  induction l generalizing s with
  | nil => exact h
  | cons b l ih => exact ih _ (hf s b h)

theorem State.onAdu_pool (s : State) (f : Adu → Adu) (hp : (f s.adu).pool = s.adu.pool)
    (hf : (f s.adu).freeList = s.adu.freeList) (h : PoolAgrees s.adu) : PoolAgrees (s.onAdu f).adu :=
  PoolAgrees.of_eq hp hf h
theorem State.onMps_pool (s : State) (f : Mps → Mps) (h : PoolAgrees s.adu) : PoolAgrees (s.onMps f).adu := h
theorem State.onCtu_pool (s : State) (f : Ctu → Ctu) (h : PoolAgrees s.adu) : PoolAgrees (s.onCtu f).adu := h
theorem State.onClock_pool (s : State) (f : Clock → Clock) (h : PoolAgrees s.adu) : PoolAgrees (s.onClock f).adu := h
theorem State.onBsc_pool (s : State) (f : Bsc → Bsc) (h : PoolAgrees s.adu) : PoolAgrees (s.onBsc f).adu := h
theorem State.onPlu_pool (s : State) (f : Plu → Plu) (h : PoolAgrees s.adu) : PoolAgrees (s.onPlu f).adu := h
theorem State.onOcf_pool (s : State) (f : Ocf → Ocf) (h : PoolAgrees s.adu) : PoolAgrees (s.onOcf f).adu := h
theorem State.onAtu_pool (s : State) (f : Atu → Atu) (h : PoolAgrees s.adu) : PoolAgrees (s.onAtu f).adu := h
theorem State.onCqu_pool (s : State) (f : Cqu → Cqu) (h : PoolAgrees s.adu) : PoolAgrees (s.onCqu f).adu := h
theorem State.onKlc_pool (s : State) (f : Klc → Klc) (h : PoolAgrees s.adu) : PoolAgrees (s.onKlc f).adu := h

theorem State.setSlot_pool (s : State) (r : SlotRef) (v : SlotState)
    (h : PoolAgrees s.adu) : PoolAgrees (State.setSlot s r v).adu := by
  simp only [State.setSlot]
  repeat (first
    | with_reducible exact h | with_reducible refine State.onAdu_pool _ _ rfl rfl ?_ | split)

/-- Writing an owned entry keeps the agreement. -/
theorem State.setEntry_pool (s : State) (i : Nat) (e : PoolEntry) (ho : s.entry i ≠ none) (h : PoolAgrees s.adu) :
    PoolAgrees (s.setEntry i (some e)).adu := PoolAgrees.overwrite i e rfl rfl ho h

theorem State.setSchedule_pool (s : State) (b : Book) (r : Room) (l : List Nat)
    (h : PoolAgrees s.adu) : PoolAgrees (State.setSchedule s b r l).adu := by
  simp only [State.setSchedule]
  repeat (first
    | with_reducible exact h | with_reducible refine State.onAdu_pool _ _ rfl rfl ?_ | split)

theorem State.setBinding_pool (s : State) (o : OrderIx) (v : Option Nat)
    (h : PoolAgrees s.adu) : PoolAgrees (State.setBinding s o v).adu := by
  simp only [State.setBinding]
  repeat (first
    | with_reducible exact h | with_reducible refine State.onAdu_pool _ _ rfl rfl ?_ | split)

theorem State.unbind_pool (s : State) (x : Option OrderIx)
    (h : PoolAgrees s.adu) : PoolAgrees (State.unbind s x).adu := by
  cases x <;> simp only [State.unbind] <;> exact h

theorem State.bind_pool (s : State) (i : Nat) (x : Option OrderIx)
    (h : PoolAgrees s.adu) : PoolAgrees (State.bind s i x).adu := by
  cases x <;> simp only [State.bind] <;> exact h

theorem State.takeEntry_pool (s : State) (e : PoolEntry)
    (h : PoolAgrees s.adu) : PoolAgrees (State.takeEntry s e).adu := by
  unfold State.takeEntry
  split
  · exact h
  · rename_i i rest hi
    refine State.bind_pool _ _ _ ?_
    refine State.setSlot_pool _ _ _ ?_
    refine State.setSchedule_pool _ _ _ _ ?_
    exact PoolAgrees.takeHead i rest e hi rfl rfl h

theorem State.freeEntry_pool (s : State) (i : Nat) (h : PoolAgrees s.adu) : PoolAgrees (State.freeEntry s i).adu := by
  unfold State.freeEntry
  split
  · exact h
  · rename_i e he
    refine State.unbind_pool _ _ ?_
    refine State.setSlot_pool _ _ _ ?_
    exact PoolAgrees.free i rfl rfl (fun hn => by
      have he' : Table.get none s.adu.pool i = some e := he
      have hn' : Table.get none s.adu.pool i = none := hn
      rw [hn'] at he'; cases he') h

theorem State.changeEntry_pool (s : State) (i : Nat) (e : PoolEntry)
    (h : PoolAgrees s.adu) : PoolAgrees (State.changeEntry s i e).adu := by
  unfold State.changeEntry
  split
  · exact h
  · rename_i old ho
    refine State.bind_pool _ _ _ ?_
    have h1 : PoolAgrees ((s.unbind old.order).setEntry i (some e)).adu := by
      refine State.setEntry_pool _ _ _ ?_ (State.unbind_pool _ _ h)
      cases old.order <;> simp_all [State.unbind, State.entry, State.setBinding]
    split
    · exact h1
    · exact State.setSchedule_pool _ _ _ _ h1

theorem State.setLoop_pool (s : State) (l : LoopNo) (v : Loop)
    (h : PoolAgrees s.adu) : PoolAgrees (State.setLoop s l v).adu := by
  simp only [State.setLoop]
  repeat (first
    | with_reducible exact h | with_reducible refine State.onPlu_pool _ _ ?_ | split)

theorem State.setPanel_pool (s : State) (r : Room) (v : Panel)
    (h : PoolAgrees s.adu) : PoolAgrees (State.setPanel s r v).adu := by
  simp only [State.setPanel]
  repeat (first
    | with_reducible exact h | with_reducible refine State.onPlu_pool _ _ ?_ | split)

theorem State.setFilter_pool (s : State) (r : Room) (v : Filter)
    (h : PoolAgrees s.adu) : PoolAgrees (State.setFilter s r v).adu := by
  simp only [State.setFilter]
  repeat (first
    | with_reducible exact h | with_reducible refine State.onOcf_pool _ _ ?_ | split)

theorem State.setRoomState_pool (s : State) (r : Room) (v : RoomState)
    (h : PoolAgrees s.adu) : PoolAgrees (State.setRoomState s r v).adu := by
  simp only [State.setRoomState]
  repeat (first
    | with_reducible exact h | with_reducible refine State.onAtu_pool _ _ ?_ | split)

theorem State.setOrderEntry_pool (s : State) (o : OrderIx) (v : Option OrderEntry)
    (h : PoolAgrees s.adu) : PoolAgrees (State.setOrderEntry s o v).adu := by
  simp only [State.setOrderEntry]
  repeat (first
    | with_reducible exact h | with_reducible refine State.onCqu_pool _ _ ?_ | split)

theorem State.present_pool (s : State) (a : Access) (h : PoolAgrees s.adu) : PoolAgrees (State.present s a).adu := by
  simp only [State.present]
  repeat (first
    | with_reducible exact h | with_reducible refine State.onMps_pool _ _ ?_ | split)

theorem State.setFlags_pool (s : State) (w : Word) (h : PoolAgrees s.adu) : PoolAgrees (State.setFlags s w).adu := by
  simp only [State.setFlags]
  repeat (first
    | with_reducible exact h | with_reducible refine State.onCtu_pool _ _ ?_ | split)

theorem State.clearFlags_pool (s : State) (w : Word)
    (h : PoolAgrees s.adu) : PoolAgrees (State.clearFlags s w).adu := by
  simp only [State.clearFlags]
  repeat (first
    | with_reducible exact h | with_reducible refine State.onCtu_pool _ _ ?_ | split)

theorem State.presentTrap_pool (s : State) (r : TrapRecord)
    (h : PoolAgrees s.adu) : PoolAgrees (State.presentTrap s r).adu := by
  simp only [State.presentTrap]
  repeat (first
    | with_reducible exact h | with_reducible refine State.onCtu_pool _ _ ?_
    | with_reducible refine State.setFlags_pool _ _ ?_ | split)

theorem State.markChanged_pool (s : State) (r : Room)
    (h : PoolAgrees s.adu) : PoolAgrees (State.markChanged s r).adu := by
  simp only [State.markChanged]
  repeat (first
    | with_reducible exact h | with_reducible refine State.onCtu_pool _ _ ?_ | split)

theorem State.raiseKitchen_pool (s : State) (h : PoolAgrees s.adu) : PoolAgrees (State.raiseKitchen s).adu := by
  simp only [State.raiseKitchen]
  repeat (first
    | with_reducible exact h | with_reducible refine State.onCtu_pool _ _ ?_ | split)

theorem State.raiseScan_pool (s : State) (h : PoolAgrees s.adu) : PoolAgrees (State.raiseScan s).adu := by
  simp only [State.raiseScan]
  repeat (first
    | with_reducible exact h | with_reducible refine State.onCtu_pool _ _ ?_ | split)

theorem State.lockNotice_pool (s : State) (o : OrderIx) (st : OrderState)
    (h : PoolAgrees s.adu) : PoolAgrees (State.lockNotice s o st).adu := by
  simp only [State.lockNotice]
  repeat (first
    | with_reducible exact h | with_reducible refine State.onMps_pool _ _ ?_ | split)

theorem State.listWrite_pool (s : State) (o : OrderIx)
    (h : PoolAgrees s.adu) : PoolAgrees (State.listWrite s o).adu := by
  simp only [State.listWrite]
  repeat (first
    | with_reducible exact h | with_reducible refine State.onCqu_pool _ _ ?_ | split)

theorem State.decideOrder_pool (s : State) (o : OrderIx) (e : OrderEntry)
    (h : PoolAgrees s.adu) : PoolAgrees (State.decideOrder s o e).adu := by
  simp only [State.decideOrder]
  repeat (first
    | with_reducible exact h | with_reducible refine State.setOrderEntry_pool _ _ _ ?_
    | with_reducible refine State.raiseKitchen_pool _ ?_ | with_reducible refine State.lockNotice_pool _ _ _ ?_
    | with_reducible refine State.listWrite_pool _ _ ?_ | split)

theorem State.unqueue_pool (s : State) (o : OrderIx) (h : PoolAgrees s.adu) : PoolAgrees (State.unqueue s o).adu := by
  simp only [State.unqueue]
  repeat (first
    | with_reducible exact h | with_reducible refine State.onCqu_pool _ _ ?_ | split)

theorem State.leaveContext_pool (s : State) (o : OrderIx)
    (h : PoolAgrees s.adu) : PoolAgrees (State.leaveContext s o).adu := by
  simp only [State.leaveContext]
  repeat (first
    | with_reducible exact h
    | with_reducible refine State.onMps_pool _ _ ?_
    | with_reducible refine State.onKlc_pool _ _ ?_ | split)

theorem State.unplace_pool (s : State) (o : OrderIx)
    (h : PoolAgrees s.adu) : PoolAgrees (State.unplace s o).adu := by
  simp only [State.unplace]
  repeat (first
    | with_reducible exact h
    | with_reducible refine State.leaveContext_pool _ _ ?_
    | with_reducible refine State.onCqu_pool _ _ ?_
    | with_reducible refine State.unqueue_pool _ _ ?_ | split)

theorem State.enqueue_pool (s : State) (o : OrderIx)
    (h : PoolAgrees s.adu) : PoolAgrees (State.enqueue s o).adu := by
  simp only [State.enqueue]
  repeat (first
    | with_reducible exact h
    | with_reducible refine State.onCqu_pool _ _ ?_
    | with_reducible refine State.unplace_pool _ _ ?_ | split)

theorem State.recall_pool (s : State) (o : OrderIx)
    (h : PoolAgrees s.adu) : PoolAgrees (State.recall s o).adu := by
  simp only [State.recall]
  repeat (first
    | with_reducible exact h
    | with_reducible refine State.onCqu_pool _ _ ?_
    | with_reducible refine State.unplace_pool _ _ ?_ | split)

theorem State.queueOrder_pool (s : State) (o : OrderIx) (e : OrderEntry)
    (h : PoolAgrees s.adu) : PoolAgrees (State.queueOrder s o e).adu := by
  simp only [State.queueOrder]
  repeat (first
    | with_reducible exact h | with_reducible refine State.decideOrder_pool _ _ _ ?_
    | with_reducible refine State.enqueue_pool _ _ ?_ | split)

theorem State.recallOrder_pool (s : State) (o : OrderIx) (e : OrderEntry) (resend : Bool)
    (h : PoolAgrees s.adu) : PoolAgrees (State.recallOrder s o e resend).adu := by
  simp only [State.recallOrder]
  repeat (first
    | with_reducible exact h | with_reducible refine State.decideOrder_pool _ _ _ ?_
    | with_reducible refine State.recall_pool _ _ ?_ | split)

theorem State.markContext_pool (s : State) (o : OrderIx) (m : Disposition)
    (h : PoolAgrees s.adu) : PoolAgrees (State.markContext s o m).adu := by
  simp only [State.markContext]
  repeat (first
    | with_reducible exact h | with_reducible refine State.onKlc_pool _ _ ?_ | split)

theorem State.noticeAttach_pool (s : State) (o : OrderIx) (role : Role) (at_ : SlotRef) (start due : Nat)
    (h : PoolAgrees s.adu) : PoolAgrees (State.noticeAttach s o role at_ start due).adu := by
  simp only [State.noticeAttach]
  repeat (first
    | with_reducible exact h | with_reducible refine State.queueOrder_pool _ _ _ ?_ | split)

theorem State.noticeMove_pool (s : State) (o : OrderIx) (start due : Nat)
    (h : PoolAgrees s.adu) : PoolAgrees (State.noticeMove s o start due).adu := by
  simp only [State.noticeMove]
  repeat (first
    | with_reducible exact h | with_reducible refine State.decideOrder_pool _ _ _ ?_
    | with_reducible refine State.queueOrder_pool _ _ _ ?_ | with_reducible refine State.recallOrder_pool _ _ _ _ ?_
    | with_reducible refine State.markContext_pool _ _ _ ?_ | split)

theorem State.noticeShortDetach_pool (s : State) (o : OrderIx)
    (h : PoolAgrees s.adu) : PoolAgrees (State.noticeShortDetach s o).adu := by
  simp only [State.noticeShortDetach]
  repeat (first
    | with_reducible exact h | with_reducible refine State.decideOrder_pool _ _ _ ?_
    | with_reducible refine State.unqueue_pool _ _ ?_ | with_reducible refine State.recallOrder_pool _ _ _ _ ?_
    | with_reducible refine State.markContext_pool _ _ _ ?_ | split)

theorem State.noticeDeath_pool (s : State) (o : OrderIx) (k : DeathKind)
    (h : PoolAgrees s.adu) : PoolAgrees (State.noticeDeath s o k).adu := by
  simp only [State.noticeDeath]
  repeat (first
    | with_reducible exact h | with_reducible refine State.decideOrder_pool _ _ _ ?_
    | with_reducible refine State.unqueue_pool _ _ ?_ | with_reducible refine State.recallOrder_pool _ _ _ _ ?_
    | with_reducible refine State.markContext_pool _ _ _ ?_ | split)

theorem State.notice_pool (s : State) (x : Notice) (h : PoolAgrees s.adu) : PoolAgrees (State.notice s x).adu := by
  cases x <;> simp only [State.notice] <;> first | exact h | exact State.noticeAttach_pool _ _ _ _ _ _ h | exact State.noticeMove_pool _ _ _ _ h | exact State.noticeShortDetach_pool _ _ h | exact State.noticeDeath_pool _ _ _ h

theorem State.notices_pool (s : State) (l : List Notice)
    (h : PoolAgrees s.adu) : PoolAgrees (State.notices s l).adu := by
  simp only [State.notices]
  repeat (first
    | with_reducible exact h | with_reducible refine State.notice_pool _ _ ?_
    | with_reducible refine foldl_pool _ (fun _ _ h => ?_) _ _ ?_ | split)

theorem State.dispose_pool (s : State) (o : OrderIx) (m : Disposition)
    (h : PoolAgrees s.adu) : PoolAgrees (State.dispose s o m).adu := by
  simp only [State.dispose]
  repeat (first
    | with_reducible exact h | with_reducible refine State.decideOrder_pool _ _ _ ?_
    | with_reducible refine State.queueOrder_pool _ _ _ ?_ | with_reducible refine State.recallOrder_pool _ _ _ _ ?_
    | split)

theorem State.makeDue_pool (s : State) (o : OrderIx) (h : PoolAgrees s.adu) : PoolAgrees (State.makeDue s o).adu := by
  simp only [State.makeDue]
  repeat (first
    | with_reducible exact h | with_reducible refine State.decideOrder_pool _ _ _ ?_ | split)

theorem State.cateringMinute_pool (s : State) (h : PoolAgrees s.adu) : PoolAgrees (State.cateringMinute s).adu := by
  simp only [State.cateringMinute]
  repeat (first
    | with_reducible exact h | with_reducible refine State.makeDue_pool _ _ ?_
    | with_reducible refine foldl_pool _ (fun _ _ h => ?_) _ _ ?_ | split)

theorem State.closeQueued_pool (b : Book) (s : State) (o : OrderIx)
    (h : PoolAgrees s.adu) : PoolAgrees (State.closeQueued b s o).adu := by
  simp only [State.closeQueued]
  repeat (first
    | with_reducible exact h | with_reducible refine State.decideOrder_pool _ _ _ ?_
    | with_reducible refine State.unqueue_pool _ _ ?_ | split)

theorem State.closeAccepted_pool (b : Book) (s : State) (o : OrderIx)
    (h : PoolAgrees s.adu) : PoolAgrees (State.closeAccepted b s o).adu := by
  simp only [State.closeAccepted]
  repeat (first
    | with_reducible exact h | with_reducible refine State.decideOrder_pool _ _ _ ?_ | split)

theorem State.dayClose_pool (s : State) (b : Book) (h : PoolAgrees s.adu) : PoolAgrees (State.dayClose s b).adu := by
  simp only [State.dayClose]
  repeat (first
    | with_reducible exact h | with_reducible refine State.closeQueued_pool _ _ _ ?_
    | with_reducible refine State.closeAccepted_pool _ _ _ ?_
    | with_reducible refine foldl_pool _ (fun _ _ h => ?_) _ _ ?_ | split)

theorem State.presentCqu_pool (s : State) (h : PoolAgrees s.adu) : PoolAgrees (State.presentCqu s).adu := by
  simp only [State.presentCqu]
  repeat (first
    | with_reducible exact h | with_reducible refine State.onCqu_pool _ _ ?_
    | with_reducible refine State.present_pool _ _ ?_ | split)

theorem State.cquDone_pool (s : State) (error : Bool)
    (h : PoolAgrees s.adu) : PoolAgrees (State.cquDone s error).adu := by
  simp only [State.cquDone]
  repeat (first
    | with_reducible exact h | with_reducible refine State.onCqu_pool _ _ ?_
    | with_reducible refine State.setFlags_pool _ _ ?_ | split)

theorem State.assemble_pool (s : State) (c : Context)
    (h : PoolAgrees s.adu) : PoolAgrees (State.assemble s c).adu := by
  simp only [State.assemble]
  repeat (first
    | with_reducible exact h | with_reducible refine State.onKlc_pool _ _ ?_ | split)

theorem State.linkIdle_pool (s : State) (h : PoolAgrees s.adu) : PoolAgrees (State.linkIdle s).adu := by
  simp only [State.linkIdle]
  repeat (first
    | with_reducible exact h | with_reducible refine State.onKlc_pool _ _ ?_ | split)

theorem State.haltLink_pool (s : State) (r : HaltReason)
    (h : PoolAgrees s.adu) : PoolAgrees (State.haltLink s r).adu := by
  simp only [State.haltLink]
  repeat (first
    | with_reducible exact h | with_reducible refine State.onKlc_pool _ _ ?_
    | with_reducible refine State.raiseKitchen_pool _ ?_ | split)

theorem State.recordTotal_pool (s : State) (o : OrderIx) (total : Nat)
    (h : PoolAgrees s.adu) : PoolAgrees (State.recordTotal s o total).adu := by
  simp only [State.recordTotal]
  repeat (first
    | with_reducible exact h | with_reducible refine State.decideOrder_pool _ _ _ ?_ | split)

theorem State.assemblyRead_pool (s : State) (data : Word) (error : Bool)
    (h : PoolAgrees s.adu) : PoolAgrees (State.assemblyRead s data error).adu := by
  simp only [State.assemblyRead]
  repeat (first
    | with_reducible exact h | with_reducible refine State.onKlc_pool _ _ ?_
    | with_reducible refine State.haltLink_pool _ _ ?_ | with_reducible refine State.recordTotal_pool _ _ _ ?_
    | split)

theorem State.lookForWork_pool (s : State) (h : PoolAgrees s.adu) : PoolAgrees (State.lookForWork s).adu := by
  simp only [State.lookForWork]
  repeat (first
    | with_reducible exact h | with_reducible refine State.onCqu_pool _ _ ?_
    | with_reducible refine State.decideOrder_pool _ _ _ ?_ | with_reducible refine State.unqueue_pool _ _ ?_
    | with_reducible refine State.recall_pool _ _ ?_ | with_reducible refine State.assemble_pool _ _ ?_ | split)

theorem State.ticketAccepted_pool (s : State) (c : Context) (e : OrderEntry)
    (h : PoolAgrees s.adu) : PoolAgrees (State.ticketAccepted s c e).adu := by
  simp only [State.ticketAccepted]
  repeat (first
    | with_reducible exact h | with_reducible refine State.decideOrder_pool _ _ _ ?_
    | with_reducible refine State.dispose_pool _ _ _ ?_ | with_reducible refine State.assemble_pool _ _ ?_
    | with_reducible refine State.linkIdle_pool _ ?_ | split)

theorem State.recallAccepted_pool (s : State) (c : Context) (e : OrderEntry)
    (h : PoolAgrees s.adu) : PoolAgrees (State.recallAccepted s c e).adu := by
  simp only [State.recallAccepted]
  repeat (first
    | with_reducible exact h | with_reducible refine State.decideOrder_pool _ _ _ ?_
    | with_reducible refine State.queueOrder_pool _ _ _ ?_ | with_reducible refine State.linkIdle_pool _ ?_ | split)

theorem State.resend_pool (s : State) (c : Context) (h : PoolAgrees s.adu) : PoolAgrees (State.resend s c).adu := by
  simp only [State.resend]
  repeat (first
    | with_reducible exact h | with_reducible refine State.onKlc_pool _ _ ?_ | split)

theorem State.softFault_pool (s : State) (c : Context) (e : OrderEntry)
    (h : PoolAgrees s.adu) : PoolAgrees (State.softFault s c e).adu := by
  simp only [State.softFault]
  repeat (first
    | with_reducible exact h | with_reducible refine State.onKlc_pool _ _ ?_
    | with_reducible refine State.decideOrder_pool _ _ _ ?_ | with_reducible refine State.dispose_pool _ _ _ ?_
    | with_reducible refine State.linkIdle_pool _ ?_ | with_reducible refine State.haltLink_pool _ _ ?_
    | with_reducible refine State.resend_pool _ _ ?_ | split)

theorem State.mismatch_pool (s : State) (c : Context)
    (h : PoolAgrees s.adu) : PoolAgrees (State.mismatch s c).adu := by
  simp only [State.mismatch]
  repeat (first
    | with_reducible exact h | with_reducible refine State.onKlc_pool _ _ ?_
    | with_reducible refine State.haltLink_pool _ _ ?_ | with_reducible refine State.resend_pool _ _ ?_ | split)

theorem State.validAnswer_pool (s : State) (station orderNumber ticketIndex : Word) (v : KitchenVerdict)
    (h : PoolAgrees s.adu) : PoolAgrees (State.validAnswer s station orderNumber ticketIndex v).adu := by
  simp only [State.validAnswer]
  repeat (first
    | with_reducible exact h | with_reducible refine State.onKlc_pool _ _ ?_
    | with_reducible refine State.recall_pool _ _ ?_ | with_reducible refine State.linkIdle_pool _ ?_
    | with_reducible refine State.ticketAccepted_pool _ _ _ ?_
    | with_reducible refine State.recallAccepted_pool _ _ _ ?_ | with_reducible refine State.softFault_pool _ _ _ ?_
    | with_reducible refine State.mismatch_pool _ _ ?_ | split)

theorem State.presentKlc_pool (s : State) (h : PoolAgrees s.adu) : PoolAgrees (State.presentKlc s).adu := by
  simp only [State.presentKlc]
  repeat (first
    | with_reducible exact h | with_reducible refine State.present_pool _ _ ?_ | split)

theorem State.finalDone_pool (s : State) (error : Bool)
    (h : PoolAgrees s.adu) : PoolAgrees (State.finalDone s error).adu := by
  simp only [State.finalDone]
  repeat (first
    | with_reducible exact h | with_reducible refine State.onKlc_pool _ _ ?_
    | with_reducible refine State.setFlags_pool _ _ ?_ | split)

theorem State.kitchenClear_pool (s : State) (h : PoolAgrees s.adu) : PoolAgrees (State.kitchenClear s).adu := by
  simp only [State.kitchenClear]
  repeat (first
    | with_reducible exact h | with_reducible refine State.onKlc_pool _ _ ?_
    | with_reducible refine State.decideOrder_pool _ _ _ ?_ | with_reducible refine State.recall_pool _ _ ?_
    | with_reducible refine State.dispose_pool _ _ _ ?_ | with_reducible refine State.assemble_pool _ _ ?_
    | with_reducible refine State.linkIdle_pool _ ?_ | split)

theorem State.restartKlc_pool (s : State) (h : PoolAgrees s.adu) : PoolAgrees (State.restartKlc s).adu := by
  simp only [State.restartKlc]
  repeat (first
    | with_reducible exact h | with_reducible refine State.onKlc_pool _ _ ?_
    | with_reducible refine State.linkIdle_pool _ ?_ | split)

theorem State.onExchangeWith_pool (s : State) (r : Room) (f : Exchange → Exchange)
    (h : PoolAgrees s.adu) : PoolAgrees (State.onExchangeWith s r f).adu := by
  simp only [State.onExchangeWith]
  repeat (first
    | with_reducible exact h | with_reducible refine State.setLoop_pool _ _ _ ?_ | split)

theorem State.setDirty_pool (s : State) (r : Room) (h : PoolAgrees s.adu) : PoolAgrees (State.setDirty s r).adu := by
  simp only [State.setDirty]
  repeat (first
    | with_reducible exact h | with_reducible refine State.setPanel_pool _ _ _ ?_
    | with_reducible refine State.onExchangeWith_pool _ _ _ ?_ | split)

theorem State.chimeRequest_pool (s : State) (r : Room) (c : Chime)
    (h : PoolAgrees s.adu) : PoolAgrees (State.chimeRequest s r c).adu := by
  simp only [State.chimeRequest]
  repeat (first
    | with_reducible exact h | with_reducible refine State.setPanel_pool _ _ _ ?_
    | with_reducible refine State.onExchangeWith_pool _ _ _ ?_ | with_reducible refine State.setDirty_pool _ _ ?_
    | split)

theorem State.startRound_pool (s : State) (l : LoopNo)
    (h : PoolAgrees s.adu) : PoolAgrees (State.startRound s l).adu := by
  simp only [State.startRound]
  repeat (first
    | with_reducible exact h | with_reducible refine State.setLoop_pool _ _ _ ?_ | split)

theorem State.makeFast_pool (s : State) (l : LoopNo)
    (h : PoolAgrees s.adu) : PoolAgrees (State.makeFast s l).adu := by
  simp only [State.makeFast]
  repeat (first
    | with_reducible exact h | with_reducible refine State.setLoop_pool _ _ _ ?_ | split)

theorem State.endRound_pool (s : State) (l : LoopNo)
    (h : PoolAgrees s.adu) : PoolAgrees (State.endRound s l).adu := by
  simp only [State.endRound]
  repeat (first
    | with_reducible exact h | with_reducible refine State.setLoop_pool _ _ _ ?_
    | with_reducible refine State.startRound_pool _ _ ?_ | split)

theorem State.loopMinute_pool (s : State) (l : LoopNo)
    (h : PoolAgrees s.adu) : PoolAgrees (State.loopMinute s l).adu := by
  simp only [State.loopMinute]
  repeat (first
    | with_reducible exact h | with_reducible refine State.setLoop_pool _ _ _ ?_
    | with_reducible refine State.makeFast_pool _ _ ?_ | split)

theorem State.pluMinute_pool (s : State) (h : PoolAgrees s.adu) : PoolAgrees (State.pluMinute s).adu := by
  simp only [State.pluMinute]
  repeat (first
    | with_reducible exact h | with_reducible refine State.loopMinute_pool _ _ ?_
    | with_reducible refine foldl_pool _ (fun _ _ h => ?_) _ _ ?_ | split)

theorem State.startLoop_pool (s : State) (l : LoopNo)
    (h : PoolAgrees s.adu) : PoolAgrees (State.startLoop s l).adu := by
  simp only [State.startLoop]
  repeat (first
    | with_reducible exact h | with_reducible refine State.setLoop_pool _ _ _ ?_
    | with_reducible refine State.startRound_pool _ _ ?_ | split)

theorem State.startPanel_pool (s : State) (r : Room)
    (h : PoolAgrees s.adu) : PoolAgrees (State.startPanel s r).adu := by
  simp only [State.startPanel]
  repeat (first
    | with_reducible exact h | with_reducible refine State.setPanel_pool _ _ _ ?_ | split)

theorem State.startPlu_pool (s : State) (h : PoolAgrees s.adu) : PoolAgrees (State.startPlu s).adu := by
  simp only [State.startPlu]
  repeat (first
    | with_reducible exact h | with_reducible refine State.onPlu_pool _ _ ?_
    | with_reducible refine State.startLoop_pool _ _ ?_ | with_reducible refine State.startPanel_pool _ _ ?_
    | with_reducible refine foldl_pool _ (fun _ _ h => ?_) _ _ ?_ | split)

theorem State.sendPoll_pool (s : State) (l : LoopNo)
    (h : PoolAgrees s.adu) : PoolAgrees (State.sendPoll s l).adu := by
  simp only [State.sendPoll]
  repeat (first
    | with_reducible exact h | with_reducible refine State.setLoop_pool _ _ _ ?_ | split)

theorem State.exchangeStep_pool (s : State) (l : LoopNo) (before after : ExchangeStage)
    (h : PoolAgrees s.adu) : PoolAgrees (State.exchangeStep s l before after).adu := by
  simp only [State.exchangeStep]
  repeat (first
    | with_reducible exact h | with_reducible refine State.setLoop_pool _ _ _ ?_ | split)

theorem State.endExchange_pool (s : State) (l : LoopNo)
    (h : PoolAgrees s.adu) : PoolAgrees (State.endExchange s l).adu := by
  simp only [State.endExchange]
  repeat (first
    | with_reducible exact h | with_reducible refine State.setLoop_pool _ _ _ ?_ | split)

theorem State.missExchange_pool (s : State) (l : LoopNo)
    (h : PoolAgrees s.adu) : PoolAgrees (State.missExchange s l).adu := by
  simp only [State.missExchange]
  repeat (first
    | with_reducible exact h | with_reducible refine State.setPanel_pool _ _ _ ?_
    | with_reducible refine State.endExchange_pool _ _ ?_ | split)

theorem State.swapPositions_pool (s : State) (l : LoopNo) (a b : Nat)
    (h : PoolAgrees s.adu) : PoolAgrees (State.swapPositions s l a b).adu := by
  simp only [State.swapPositions]
  repeat (first
    | with_reducible exact h | with_reducible refine State.setLoop_pool _ _ _ ?_ | split)

theorem State.markUninitialised_pool (s : State) (r : Room)
    (h : PoolAgrees s.adu) : PoolAgrees (State.markUninitialised s r).adu := by
  simp only [State.markUninitialised]
  repeat (first
    | with_reducible exact h | with_reducible refine State.setFilter_pool _ _ _ ?_ | split)

theorem State.recompose_pool (s : State) (r : Room)
    (h : PoolAgrees s.adu) : PoolAgrees (State.recompose s r).adu := by
  simp only [State.recompose]
  repeat (first
    | with_reducible exact h | with_reducible refine State.setRoomState_pool _ _ _ ?_
    | with_reducible refine State.setDirty_pool _ _ ?_ | split)

theorem State.recomposeAll_pool (s : State) (h : PoolAgrees s.adu) : PoolAgrees (State.recomposeAll s).adu := by
  simp only [State.recomposeAll]
  repeat (first
    | with_reducible exact h | with_reducible refine State.recompose_pool _ _ ?_
    | with_reducible refine foldl_pool _ (fun _ _ h => ?_) _ _ ?_ | split)

/-- Writing over entries that are owned keeps the agreement, and they stay owned. -/
theorem foldl_overwrite_pool (f : PoolEntry → PoolEntry) (l : List (Nat × PoolEntry)) (s : State)
    (ho : ∀ b ∈ l, s.entry b.1 ≠ none) (h : PoolAgrees s.adu) :
    PoolAgrees (l.foldl (fun s b => s.setEntry b.1 (some (f b.2))) s).adu := by
  induction l generalizing s with
  | nil => exact h
  | cons b l ih =>
    refine ih _ (fun c hc => ?_) (State.setEntry_pool _ _ _ (ho b (List.mem_cons_self ..)) h)
    have hget := Table.get_set none s.adu.pool b.1 c.1 (some (f b.2)) h.1
    show Table.get none (Table.set none s.adu.pool b.1 (some (f b.2))) c.1 ≠ none
    rw [hget]
    split
    · simp
    · exact ho c (List.mem_cons_of_mem _ hc)

/-- The bookings of a room's schedule are owned. -/
theorem State.bookings_owned (s : State) (b : Book) (r : Room) : ∀ x ∈ s.bookings b r, s.entry x.1 = some x.2 := by
  intro x hx
  unfold State.bookings at hx
  obtain ⟨i, _, hi⟩ := List.mem_filterMap.1 hx
  cases he : s.entry i with
  | none => rw [he] at hi; cases hi
  | some e =>
    rw [he] at hi
    simp only [Option.map_some, Option.some.injEq] at hi
    subst hi
    exact he

theorem State.mapBookings_pool (s : State) (r : Room) (f : PoolEntry → PoolEntry)
    (h : PoolAgrees s.adu) : PoolAgrees (State.mapBookings s r f).adu := by
  unfold State.mapBookings State.bookingsToday
  refine foldl_overwrite_pool f _ s (fun b hb => ?_) h
  rw [State.bookings_owned s _ r b hb]
  simp

theorem State.applyReport_pool (r : Room) (s : State) (t : Stamp)
    (h : PoolAgrees s.adu) : PoolAgrees (State.applyReport r s t).adu := by
  simp only [State.applyReport]
  repeat (first
    | with_reducible exact h | with_reducible refine State.setRoomState_pool _ _ _ ?_
    | with_reducible refine State.mapBookings_pool _ _ _ ?_ | split)

theorem State.holdReport_pool (s : State) (r : Room) (t : Stamp)
    (h : PoolAgrees s.adu) : PoolAgrees (State.holdReport s r t).adu := by
  simp only [State.holdReport]
  repeat (first
    | with_reducible exact h | with_reducible refine State.onAtu_pool _ _ ?_ | split)

theorem State.applyReports_pool (s : State) (r : Room)
    (h : PoolAgrees s.adu) : PoolAgrees (State.applyReports s r).adu := by
  simp only [State.applyReports]
  repeat (first
    | with_reducible exact h | with_reducible refine State.onAtu_pool _ _ ?_
    | with_reducible refine State.applyReport_pool _ _ _ ?_
    | with_reducible refine foldl_pool _ (fun _ _ h => ?_) _ _ ?_ | split)

theorem State.holdReturn_pool (s : State) (r : Room) (t : Stamp)
    (h : PoolAgrees s.adu) : PoolAgrees (State.holdReturn s r t).adu := by
  simp only [State.holdReturn]
  repeat (first
    | with_reducible exact h | with_reducible refine State.onAtu_pool _ _ ?_ | split)

theorem State.applyReturned_pool (r : Room) (s : State) (t : Stamp) (h : PoolAgrees s.adu) :
    PoolAgrees (State.applyReturned r s t).adu := by
  simp only [State.applyReturned]
  repeat (first
    | with_reducible exact h | with_reducible refine State.setFilter_pool _ _ _ ?_
    | with_reducible refine State.mapBookings_pool _ _ _ ?_ | split)

theorem State.applyReturn_pool (s : State) (r : Room) (h : PoolAgrees s.adu) :
    PoolAgrees (State.applyReturn s r).adu := by
  simp only [State.applyReturn]
  repeat (first
    | with_reducible exact h | with_reducible refine State.onAtu_pool _ _ ?_
    | with_reducible refine State.applyReturned_pool _ _ _ ?_
    | with_reducible refine foldl_pool _ (fun _ _ h => ?_) _ _ ?_ | split)

theorem State.walkOn_pool (s : State)
    (h : PoolAgrees s.adu) : PoolAgrees (State.walkOn s).adu := by
  simp only [State.walkOn]
  repeat (first
    | with_reducible exact h | with_reducible refine State.onAtu_pool _ _ ?_ | split)

theorem State.clearRefusals_pool (s : State) (h : PoolAgrees s.adu) : PoolAgrees (State.clearRefusals s).adu := by
  simp only [State.clearRefusals]
  repeat (first
    | with_reducible exact h | with_reducible refine State.setRoomState_pool _ _ _ ?_
    | with_reducible refine foldl_pool _ (fun _ _ h => ?_) _ _ ?_ | split)

theorem State.sweepRoom_pool (s : State) (r : Room)
    (h : PoolAgrees s.adu) : PoolAgrees (State.sweepRoom s r).adu := by
  simp only [State.sweepRoom]
  repeat (first
    | with_reducible exact h | with_reducible refine State.mapBookings_pool _ _ _ ?_ | split)

theorem State.warnRoom_pool (now : Nat) (s : State) (r : Room)
    (h : PoolAgrees s.adu) : PoolAgrees (State.warnRoom now s r).adu := by
  simp only [State.warnRoom]
  repeat (first
    | with_reducible exact h | with_reducible refine State.chimeRequest_pool _ _ _ ?_ | split)

theorem State.workExpiry_pool (s : State) (t : Nat)
    (h : PoolAgrees s.adu) : PoolAgrees (State.workExpiry s t).adu := by
  simp only [State.workExpiry]
  repeat (first
    | with_reducible exact h | with_reducible refine State.onAtu_pool _ _ ?_
    | with_reducible refine State.recomposeAll_pool _ ?_ | with_reducible refine State.clearRefusals_pool _ ?_
    | with_reducible refine State.sweepRoom_pool _ _ ?_ | with_reducible refine State.warnRoom_pool _ _ _ ?_
    | with_reducible refine foldl_pool _ (fun _ _ h => ?_) _ _ ?_ | split)

theorem State.workExpiries_pool (s : State) (h : PoolAgrees s.adu) : PoolAgrees (State.workExpiries s).adu := by
  simp only [State.workExpiries]
  repeat (first
    | with_reducible exact h | with_reducible refine State.onAtu_pool _ _ ?_
    | with_reducible refine State.walkOn_pool _ ?_ | with_reducible refine State.workExpiry_pool _ _ ?_
    | with_reducible refine foldl_pool _ (fun _ _ h => ?_) _ _ ?_ | split)

theorem State.atuMinute_pool (s : State) (h : PoolAgrees s.adu) : PoolAgrees (State.atuMinute s).adu := by
  simp only [State.atuMinute]
  repeat (first
    | with_reducible exact h | with_reducible refine State.onAtu_pool _ _ ?_
    | with_reducible refine State.workExpiries_pool _ ?_ | split)

theorem State.workWindows_pool (s : State) (h : PoolAgrees s.adu) : PoolAgrees (State.workWindows s).adu := by
  simp only [State.workWindows]
  repeat (first
    | with_reducible exact h | with_reducible refine State.onPlu_pool _ _ ?_
    | with_reducible refine State.pluMinute_pool _ ?_ | split)

theorem State.startAtu_pool (s : State) (h : PoolAgrees s.adu) : PoolAgrees (State.startAtu s).adu := by
  simp only [State.startAtu]
  repeat (first
    | with_reducible exact h | with_reducible refine State.onAtu_pool _ _ ?_
    | with_reducible refine State.recomposeAll_pool _ ?_ | split)

theorem State.applyDrafts_pool (s : State) (h : PoolAgrees s.adu) : PoolAgrees (State.applyDrafts s).adu := by
  unfold State.applyDrafts
  have hk : ∀ (l : List Nat) (a : Adu), PoolAgrees a → PoolAgrees (l.foldl Adu.applyDraft a) := by
    intro l
    induction l with
    | nil => exact fun a ha => ha
    | cons k l ih => exact fun a ha => ih _ (PoolAgrees.of_eq rfl rfl ha)
  exact hk _ _ h

theorem State.applyNotices_pool (s : State) (h : PoolAgrees s.adu) : PoolAgrees (State.applyNotices s).adu := by
  simp only [State.applyNotices]
  repeat (first
    | with_reducible exact h | with_reducible refine State.applyReports_pool _ _ ?_
    | with_reducible refine State.applyReturn_pool _ _ ?_ | with_reducible refine State.applyDrafts_pool _ ?_
    | with_reducible refine foldl_pool _ (fun _ _ h => ?_) _ _ ?_)

theorem State.noticesBetweenClaims_pool (s : State) (h : PoolAgrees s.adu) :
    PoolAgrees (State.noticesBetweenClaims s).adu := by
  unfold State.noticesBetweenClaims
  split
  · exact State.applyNotices_pool _ h
  · exact h

theorem State.take_pool (s : State) (c : ClaimSource) (h : PoolAgrees s.adu) : PoolAgrees (State.take s c).adu := by
  simp only [State.take]
  repeat (first
    | with_reducible exact h | with_reducible refine State.applyNotices_pool _ ?_
    | with_reducible refine State.onAdu_pool _ _ rfl rfl ?_
    | with_reducible refine State.onBsc_pool _ _ ?_ | with_reducible refine State.onAtu_pool _ _ ?_ | split)

theorem State.endClaim_pool (s : State) (h : PoolAgrees s.adu) : PoolAgrees (State.endClaim s).adu := by
  simp only [State.endClaim]
  repeat (first
    | with_reducible exact h | with_reducible refine State.onAdu_pool _ _ rfl rfl ?_
    | with_reducible refine State.applyNotices_pool _ ?_
    | with_reducible refine State.walkOn_pool _ ?_ | with_reducible refine State.workExpiries_pool _ ?_
    | with_reducible refine State.workWindows_pool _ ?_
    | split)

theorem State.presentTail_pool (s : State) (h : PoolAgrees s.adu) : PoolAgrees (State.presentTail s).adu := by
  simp only [State.presentTail]
  repeat (first
    | with_reducible exact h | with_reducible refine State.present_pool _ _ ?_ | split)

theorem State.presentClaim_pool (s : State) (h : PoolAgrees s.adu) : PoolAgrees (State.presentClaim s).adu := by
  simp only [State.presentClaim]
  repeat (first
    | with_reducible exact h | with_reducible refine State.present_pool _ _ ?_ | split)

theorem State.leaveTail_pool (s : State) (todo : List WordWrite) (k : TailKind)
    (h : PoolAgrees s.adu) : PoolAgrees (State.leaveTail s todo k).adu := by
  simp only [State.leaveTail]
  repeat (first
    | with_reducible exact h | with_reducible refine State.onAdu_pool _ _ rfl rfl ?_ | split)

theorem State.tailDone_pool (s : State) (error : Bool)
    (h : PoolAgrees s.adu) : PoolAgrees (State.tailDone s error).adu := by
  simp only [State.tailDone]
  repeat (first
    | with_reducible exact h | with_reducible refine State.onAdu_pool _ _ rfl rfl ?_
    | with_reducible refine State.setFlags_pool _ _ ?_ | split)

theorem State.recomposeToday_pool (s : State) (b : Book) (r : Room)
    (h : PoolAgrees s.adu) : PoolAgrees (State.recomposeToday s b r).adu := by
  simp only [State.recomposeToday]
  repeat (first
    | with_reducible exact h | with_reducible refine State.recompose_pool _ _ ?_ | split)

theorem State.answerPanel_pool (s : State) (r : Room) (confirmed : Bool)
    (h : PoolAgrees s.adu) : PoolAgrees (State.answerPanel s r confirmed).adu := by
  simp only [State.answerPanel]
  repeat (first
    | with_reducible exact h | with_reducible refine State.onAtu_pool _ _ ?_
    | with_reducible refine State.setRoomState_pool _ _ _ ?_
    | with_reducible refine State.chimeRequest_pool _ _ _ ?_ | with_reducible refine State.recompose_pool _ _ ?_
    | split)

theorem State.beginLife_pool (s : State) (w : LifeWork)
    (h : PoolAgrees s.adu) : PoolAgrees (State.beginLife s w).adu := by
  simp only [State.beginLife]
  repeat (first
    | with_reducible exact h | with_reducible refine State.onAdu_pool _ _ rfl rfl ?_ | split)

theorem State.commitLife_pool (s : State) (w : LifeWork)
    (h : PoolAgrees s.adu) : PoolAgrees (State.commitLife s w).adu := by
  unfold State.commitLife
  split
  · exact h
  · rename_i e he
    split
    · exact State.setEntry_pool _ _ _ (by rw [he]; simp) h
    · exact State.notices_pool _ _ (State.freeEntry_pool _ _ h)
    · exact State.notices_pool _ _ (State.freeEntry_pool _ _ h)

theorem State.endLife_pool (s : State) (w : LifeWork)
    (h : PoolAgrees s.adu) : PoolAgrees (State.endLife s w).adu := by
  simp only [State.endLife]
  repeat (first
    | with_reducible exact h | with_reducible refine State.markChanged_pool _ _ ?_
    | with_reducible refine State.endClaim_pool _ ?_ | with_reducible refine State.recomposeToday_pool _ _ _ ?_
    | with_reducible refine State.answerPanel_pool _ _ _ ?_ | split)

theorem State.lifeWritten_pool (s : State) (w : LifeWork) (words todo : List WordWrite) (failed second error : Bool)
    (h : PoolAgrees s.adu) : PoolAgrees (State.lifeWritten s w words todo failed second error).adu := by
  unfold State.lifeWritten
  have h1 : ∀ c, PoolAgrees (s.onAdu fun a => { a with claim := c }).adu := fun c => State.onAdu_pool _ _ rfl rfl h
  generalize (failed || error) = f
  cases second <;> cases f <;> rcases todo.drop 1 with _ | ⟨a, _ | ⟨b, l⟩⟩ <;> dsimp only <;>
    first
      | with_reducible exact h1 _
      | with_reducible exact State.endLife_pool _ _ (State.leaveTail_pool _ _ _ (State.commitLife_pool _ _ (h1 _)))
      | with_reducible exact State.endLife_pool _ _ (State.leaveTail_pool _ _ _ (h1 _))
      | with_reducible exact State.commitLife_pool _ _ (h1 _)
      | exact State.onAdu_pool _ _ rfl rfl (h1 _)

theorem presentAll_pool (s : State) (h : PoolAgrees s.adu) : PoolAgrees (presentAll s).adu := by
  unfold presentAll
  exact State.presentClaim_pool _ (State.presentTail_pool _ (State.presentKlc_pool _ (State.presentCqu_pool _
    (State.lookForWork_pool _ h))))

theorem settle_pool (s : State) (h : PoolAgrees s.adu) : PoolAgrees (settle s).adu :=
  State.onMps_pool _ _ (presentAll_pool s h)

theorem State.release_pool (s : State) (h : PoolAgrees s.adu) : PoolAgrees (State.release s).adu := by
  simp only [State.release]
  repeat (first
    | with_reducible exact h | with_reducible refine State.present_pool _ _ ?_
    | with_reducible refine State.onMps_pool _ _ ?_ | with_reducible refine State.presentTail_pool _ ?_ | split)

theorem State.drop_pool (s : State) (h : PoolAgrees s.adu) : PoolAgrees (State.drop s).adu := by
  simp only [State.drop]
  repeat (first
    | with_reducible exact h | with_reducible refine State.onMps_pool _ _ ?_ | split)

theorem State.endAdmission_pool (s : State) (a : Admission) (withheld confirmed : Bool)
    (h : PoolAgrees s.adu) : PoolAgrees (State.endAdmission s a withheld confirmed).adu := by
  simp only [State.endAdmission]
  repeat (first
    | with_reducible exact h | with_reducible refine State.endClaim_pool _ ?_
    | with_reducible refine State.answerPanel_pool _ _ _ ?_ | with_reducible refine State.release_pool _ ?_
    | with_reducible refine State.drop_pool _ ?_ | split)

theorem State.withhold_pool (s : State) (a : Admission) (j : Judged) (kind : Kind)
    (h : PoolAgrees s.adu) : PoolAgrees (State.withhold s a j kind).adu := by
  simp only [State.withhold]
  repeat (first
    | with_reducible exact h | with_reducible refine State.presentTrap_pool _ _ ?_
    | with_reducible refine State.endAdmission_pool _ _ _ _ ?_ | split)

theorem State.commitRefusal_pool (s : State) (at_ : SlotRef) (r : Reason)
    (h : PoolAgrees s.adu) : PoolAgrees (State.commitRefusal s at_ r).adu := by
  unfold State.commitRefusal
  split
  · rename_i i e hi he
    refine State.setEntry_pool _ _ _ ?_ h
    unfold State.liveEntry at he
    rw [hi] at he
    dsimp only at he
    rw [he]
    simp
  · exact h

theorem State.commit_pool (s : State) (a : Admission) (o : Judgement)
    (h : PoolAgrees s.adu) : PoolAgrees (State.commit s a o).adu := by
  simp only [State.commit]
  repeat (first
    | with_reducible exact h | with_reducible refine State.takeEntry_pool _ _ ?_
    | with_reducible refine State.freeEntry_pool _ _ ?_ | with_reducible refine State.changeEntry_pool _ _ _ ?_
    | with_reducible refine State.notices_pool _ _ ?_ | with_reducible refine State.commitRefusal_pool _ _ _ ?_
    | split)

theorem State.reportTraps_pool (s : State) (a : Admission) (j : Judged) (interval : Nat × Nat)
    (h : PoolAgrees s.adu) : PoolAgrees (State.reportTraps s a j interval).adu := by
  simp only [State.reportTraps]
  repeat (first
    | with_reducible exact h | with_reducible refine State.setFlags_pool _ _ ?_
    | with_reducible refine State.presentTrap_pool _ _ ?_ | split)

theorem State.finishAdmission_pool (s : State) (a : Admission) (j : Judged) (wrote : Bool) (back : List Word)
    (h : PoolAgrees s.adu) : PoolAgrees (State.finishAdmission s a j wrote back).adu := by
  simp only [State.finishAdmission]
  repeat (first
    | with_reducible exact h | with_reducible refine State.markChanged_pool _ _ ?_
    | with_reducible refine State.recomposeToday_pool _ _ _ ?_
    | with_reducible refine State.endAdmission_pool _ _ _ _ ?_ | with_reducible refine State.commit_pool _ _ _ ?_
    | with_reducible refine State.reportTraps_pool _ _ _ _ ?_ | split)

theorem State.beginWriting_pool (s : State) (a : Admission) (j : Judged) (back : List Word) (second : Bool)
    (h : PoolAgrees s.adu) : PoolAgrees (State.beginWriting s a j back second).adu := by
  simp only [State.beginWriting]
  repeat (first
    | with_reducible exact h | with_reducible refine State.onAdu_pool _ _ rfl rfl ?_
    | with_reducible refine State.finishAdmission_pool _ _ _ _ _ ?_ | split)

theorem State.decideAdmission_pool (s : State) (a : Admission) (p : Proposal)
    (h : PoolAgrees s.adu) : PoolAgrees (State.decideAdmission s a p).adu := by
  simp only [State.decideAdmission]
  repeat (first
    | with_reducible exact h | with_reducible refine State.withhold_pool _ _ _ _ ?_
    | with_reducible refine State.beginWriting_pool _ _ _ _ _ ?_ | split)

theorem State.advanceAdmission_pool (s : State) (a : Admission) (got : List (Option Word))
    (h : PoolAgrees s.adu) : PoolAgrees (State.advanceAdmission s a got).adu := by
  simp only [State.advanceAdmission]
  repeat (first
    | with_reducible exact h | with_reducible refine State.onAdu_pool _ _ rfl rfl ?_
    | with_reducible refine State.decideAdmission_pool _ _ _ ?_ | split)

theorem State.voidMemory_pool (s : State) (a : Admission) (back : List Word)
    (h : PoolAgrees s.adu) : PoolAgrees (State.voidMemory s a back).adu := by
  simp only [State.voidMemory]
  repeat (first
    | with_reducible exact h | with_reducible refine State.finishAdmission_pool _ _ _ _ _ ?_
    | with_reducible refine State.beginWriting_pool _ _ _ _ _ ?_ | split)

theorem State.presentLast_pool (s : State) (rest : List WordWrite) (h : PoolAgrees s.adu) :
    PoolAgrees (State.presentLast s rest).adu := by
  unfold State.presentLast
  exact State.onMps_pool _ _ (State.presentTail_pool _ (State.leaveTail_pool _ _ _ h))

theorem State.admissionWritten_pool (s : State) (a : Admission) (j : Judged) (back : List Word) (todo : List WordWrite) (second error : Bool)
    (h : PoolAgrees s.adu) : PoolAgrees (State.admissionWritten s a j back todo second error).adu := by
  unfold State.admissionWritten
  dsimp only
  split
  · exact State.voidMemory_pool _ _ _ h
  · rcases todo.drop 1 with _ | ⟨a, _ | ⟨b, l⟩⟩
    · exact State.onAdu_pool _ _ rfl rfl h
    · exact State.finishAdmission_pool _ _ _ _ _ (State.presentLast_pool _ _ h)
    · exact State.onAdu_pool _ _ rfl rfl h

theorem State.backReadDone_pool (s : State) (a : Admission) (j : Judged) (got : List (Option Word))
    (h : PoolAgrees s.adu) : PoolAgrees (State.backReadDone s a j got).adu := by
  unfold State.backReadDone
  split
  · exact State.beginWriting_pool _ _ _ _ _ h
  · exact State.finishAdmission_pool _ _ _ _ _ h
  · exact State.onAdu_pool _ _ rfl rfl h

theorem State.takeRequest_pool (s : State) (rk : RequestKind) (go : State → RequestClaim → State) (hg : ∀ s r, PoolAgrees s.adu → PoolAgrees (go s r).adu)
    (h : PoolAgrees s.adu) : PoolAgrees (State.takeRequest s rk go).adu := by
  simp only [State.takeRequest]
  repeat (first
    | with_reducible exact h | with_reducible refine State.take_pool _ _ ?_ | with_reducible refine hg _ _ ?_
    | split)

theorem State.requestNone_pool (s : State) (r : RequestClaim)
    (h : PoolAgrees s.adu) : PoolAgrees (State.requestNone s r).adu := by
  simp only [State.requestNone]
  repeat (first
    | with_reducible exact h | with_reducible refine State.setSlot_pool _ _ _ ?_
    | with_reducible refine State.endClaim_pool _ ?_ | with_reducible refine State.release_pool _ ?_ | split)

theorem State.beginRequest_pool (k : AdmissionKind) (s : State) (r : RequestClaim)
    (h : PoolAgrees s.adu) : PoolAgrees (State.beginRequest k s r).adu := by
  simp only [State.beginRequest]
  repeat (first
    | with_reducible exact h | with_reducible refine State.advanceAdmission_pool _ _ _ ?_ | split)

theorem State.takePanel_pool (s : State) (b : Button) (go : State → PanelEvent → State) (hg : ∀ s e, PoolAgrees s.adu → PoolAgrees (go s e).adu)
    (h : PoolAgrees s.adu) : PoolAgrees (State.takePanel s b go).adu := by
  simp only [State.takePanel]
  repeat (first
    | with_reducible exact h | with_reducible refine State.take_pool _ _ ?_ | with_reducible refine hg _ _ ?_
    | split)

theorem State.minuteReaches_pool (s : State) (h : PoolAgrees s.adu) : PoolAgrees (State.minuteReaches s).adu := by
  simp only [State.minuteReaches]
  repeat (first
    | with_reducible exact h | with_reducible refine State.noticesBetweenClaims_pool _ ?_
    | with_reducible refine State.onPlu_pool _ _ ?_
    | with_reducible refine State.cateringMinute_pool _ ?_ | with_reducible refine State.atuMinute_pool _ ?_
    | with_reducible refine State.workWindows_pool _ ?_ | split)

theorem State.minuteExpiry_pool (s : State) (h : PoolAgrees s.adu) : PoolAgrees (State.minuteExpiry s).adu := by
  simp only [State.minuteExpiry]
  repeat (first
    | with_reducible exact h | with_reducible refine State.onClock_pool _ _ ?_
    | with_reducible refine State.minuteReaches_pool _ ?_ | split)

theorem State.dayEndActs_pool (s : State) (h : PoolAgrees s.adu) : PoolAgrees (State.dayEndActs s).adu := by
  simp only [State.dayEndActs]
  repeat (first
    | with_reducible exact h | with_reducible refine State.noticesBetweenClaims_pool _ ?_
    | with_reducible refine State.onClock_pool _ _ ?_
    | with_reducible refine State.onBsc_pool _ _ ?_ | with_reducible refine State.dayClose_pool _ _ ?_ | split)

theorem State.dayEndExpiry_pool (s : State) (h : PoolAgrees s.adu) : PoolAgrees (State.dayEndExpiry s).adu := by
  simp only [State.dayEndExpiry]
  repeat (first
    | with_reducible exact h | with_reducible refine State.onClock_pool _ _ ?_
    | with_reducible refine State.dayEndActs_pool _ ?_ | split)

theorem State.carry_pool (s : State) (h : PoolAgrees s.adu) : PoolAgrees (State.carry s).adu := by
  simp only [State.carry]
  repeat (first
    | with_reducible exact h | with_reducible refine State.onClock_pool _ _ ?_
    | with_reducible refine State.minuteExpiry_pool _ ?_ | with_reducible refine State.dayEndExpiry_pool _ ?_
    | split)

theorem State.pulse_pool (s : State) (h : PoolAgrees s.adu) : PoolAgrees (State.pulse s).adu := by
  simp only [State.pulse]
  repeat (first
    | with_reducible exact h | with_reducible refine State.onClock_pool _ _ ?_
    | with_reducible refine State.carry_pool _ ?_ | split)

theorem State.takeDeferred_pool (s : State) (h : PoolAgrees s.adu) : PoolAgrees (State.takeDeferred s).adu := by
  simp only [State.takeDeferred]
  repeat (first
    | with_reducible exact h | with_reducible refine State.onClock_pool _ _ ?_
    | with_reducible refine State.minuteReaches_pool _ ?_ | with_reducible refine State.dayEndActs_pool _ ?_ | split)

theorem State.passEnd_pool (s : State) (h : PoolAgrees s.adu) : PoolAgrees (State.passEnd s).adu := by
  simp only [State.passEnd]
  repeat (first
    | with_reducible exact h | with_reducible refine State.onCtu_pool _ _ ?_
    | with_reducible refine State.onClock_pool _ _ ?_ | with_reducible refine State.onBsc_pool _ _ ?_
    | with_reducible refine State.raiseScan_pool _ ?_ | with_reducible refine State.dayEndActs_pool _ ?_
    | with_reducible refine State.takeDeferred_pool _ ?_ | split)

theorem State.visitEnded_pool (s : State) (h : PoolAgrees s.adu) : PoolAgrees (State.visitEnded s).adu := by
  unfold State.visitEnded
  dsimp only
  split
  · exact State.onBsc_pool _ _ (State.endClaim_pool _ h)
  · exact State.passEnd_pool _ (State.endClaim_pool _ h)

theorem State.visitWritten_pool (s : State) (todo : List WordWrite) (again : List WordWrite → Claim)
    (h : PoolAgrees s.adu) : PoolAgrees (State.visitWritten s todo again).adu := by
  unfold State.visitWritten
  rcases todo.drop 1 with _ | ⟨a, _ | ⟨b, l⟩⟩
  · exact State.onAdu_pool _ _ rfl rfl h
  · exact State.visitEnded_pool _ (State.leaveTail_pool _ _ _ h)
  · exact State.onAdu_pool _ _ rfl rfl h

theorem State.clearSlot_pool (s : State) (r : SlotRef)
    (h : PoolAgrees s.adu) : PoolAgrees (State.clearSlot s r).adu := by
  simp only [State.clearSlot]
  repeat (first
    | with_reducible exact h | with_reducible refine State.setSlot_pool _ _ _ ?_ | split)

theorem State.beginClean_pool (s : State) (h : PoolAgrees s.adu) : PoolAgrees (State.beginClean s).adu := by
  simp only [State.beginClean]
  repeat (first
    | with_reducible exact h | with_reducible refine State.onAdu_pool _ _ rfl rfl ?_
    | with_reducible refine State.clearSlot_pool _ _ ?_ | split)

theorem State.turnoverFree_pool (s : State) (r : SlotRef)
    (h : PoolAgrees s.adu) : PoolAgrees (State.turnoverFree s r).adu := by
  simp only [State.turnoverFree]
  repeat (first
    | with_reducible exact h | with_reducible refine State.freeEntry_pool _ _ ?_
    | with_reducible refine State.markChanged_pool _ _ ?_ | with_reducible refine State.notices_pool _ _ ?_ | split)

theorem State.beginTurnover_pool (s : State) (h : PoolAgrees s.adu) : PoolAgrees (State.beginTurnover s).adu := by
  simp only [State.beginTurnover]
  repeat (first
    | with_reducible exact h | with_reducible refine State.onAdu_pool _ _ rfl rfl ?_
    | with_reducible refine State.turnoverFree_pool _ _ ?_ | split)

theorem State.openTurnover_pool (s : State) (h : PoolAgrees s.adu) : PoolAgrees (State.openTurnover s).adu := by
  simp only [State.openTurnover]
  repeat (first
    | with_reducible exact h | with_reducible refine State.onAdu_pool _ _ rfl rfl ?_
    | with_reducible refine State.onBsc_pool _ _ ?_ | with_reducible refine State.endClaim_pool _ ?_ | split)

theorem State.endKeep_pool (s : State) (r : SlotRef) (rebuilt : Bool)
    (h : PoolAgrees s.adu) : PoolAgrees (State.endKeep s r rebuilt).adu := by
  simp only [State.endKeep]
  repeat (first
    | with_reducible exact h | with_reducible refine State.recomposeToday_pool _ _ _ ?_
    | with_reducible refine State.visitEnded_pool _ ?_ | split)

theorem State.keepWrite_pool (s : State) (r : SlotRef) (rebuilt : Bool) (l : List WordWrite)
    (h : PoolAgrees s.adu) : PoolAgrees (State.keepWrite s r rebuilt l).adu := by
  simp only [State.keepWrite]
  repeat (first
    | with_reducible exact h | with_reducible refine State.onAdu_pool _ _ rfl rfl ?_
    | with_reducible refine State.markChanged_pool _ _ ?_ | split)

theorem State.handOver_pool (s : State) (o : OrderIx) (fate : Fate) (st : Option OrderState) (resend : Bool) (e : OrderEntry)
    (h : PoolAgrees s.adu) : PoolAgrees (s.handOver o fate st resend e).1.adu := by
  unfold State.handOver
  dsimp only
  split
  · exact h
  · rcases fate with _ | _ | _ <;> rcases st with _ | (_ | _ | _ | _ | _ | _ | _ | _ | _ | _) <;>
      (try dsimp only) <;> (try split) <;>
      first
        | with_reducible exact h
        | with_reducible exact State.queueOrder_pool _ _ _ h
        | with_reducible exact State.decideOrder_pool _ _ _ h
        | with_reducible exact State.recallOrder_pool _ _ _ _ h
        | with_reducible exact State.enqueue_pool _ _ (State.decideOrder_pool _ _ _ h)

theorem State.keepHandOver_pool (s : State) (r : SlotRef) (t : Taken) (k : KeepReads) (j : KeepJudgement)
    (h : PoolAgrees s.adu) : PoolAgrees (s.keepHandOver r t k j).1.adu := by
  unfold State.keepHandOver
  split
  · exact h
  · dsimp only
    split
    · exact h
    · exact State.handOver_pool _ _ _ _ _ _ h

theorem State.judgeKeep_pool (s : State) (r : SlotRef) (t : Taken) (k : KeepReads)
    (h : PoolAgrees s.adu) : PoolAgrees (State.judgeKeep s r t k).adu := by
  have hh : ∀ j, PoolAgrees (s.keepHandOver r t k j).1.adu := fun j => State.keepHandOver_pool s r t k j h
  simp only [State.judgeKeep]
  split
  · exact State.endKeep_pool _ _ _ h
  · split
    · exact State.keepWrite_pool _ _ _ _ (State.setFlags_pool _ _ (hh _))
    · exact State.keepWrite_pool _ _ _ _ (hh _)
    · split
      · exact State.keepWrite_pool _ _ _ _ (State.takeEntry_pool _ _ (hh _))
      · exact State.endKeep_pool _ _ _ (State.takeEntry_pool _ _ (hh _))

theorem State.advanceKeep_pool (s : State) (r : SlotRef) (t : Taken) (got : List (Option Word))
    (h : PoolAgrees s.adu) : PoolAgrees (State.advanceKeep s r t got).adu := by
  simp only [State.advanceKeep]
  repeat (first
    | with_reducible exact h
    | with_reducible refine State.onAdu_pool _ _ rfl rfl ?_
    | with_reducible refine State.judgeKeep_pool _ _ _ _ ?_ | split)

theorem State.keepReadDone_pool (s : State) (r : SlotRef) (t : Taken) (got : List (Option Word)) (data : Word) (error : Bool)
    (h : PoolAgrees s.adu) : PoolAgrees (State.keepReadDone s r t got data error).adu := by
  simp only [State.keepReadDone]
  repeat (first
    | with_reducible exact h
    | with_reducible refine State.advanceKeep_pool _ _ _ _ ?_
    | with_reducible refine State.setFlags_pool _ _ ?_
    | with_reducible refine State.keepWrite_pool _ _ _ _ ?_ | split)

theorem State.beginKeep_pool (s : State) (h : PoolAgrees s.adu) : PoolAgrees (State.beginKeep s).adu := by
  simp only [State.beginKeep]
  repeat (first
    | with_reducible exact h | with_reducible refine State.onAdu_pool _ _ rfl rfl ?_ | split)

theorem State.claimAccessDone_pool (s : State) (data : Word) (error : Bool)
    (h : PoolAgrees s.adu) : PoolAgrees (State.claimAccessDone s data error).adu := by
  unfold State.claimAccessDone
  have hf : PoolAgrees (if error = true then s.setFlags flagMemerr else s).adu := by
    split
    · exact State.setFlags_pool _ _ h
    · exact h
  split
  · exact h
  · split <;> (try dsimp only)
    · exact State.advanceAdmission_pool _ _ _ h
    · exact State.backReadDone_pool _ _ _ _ h
    · exact State.admissionWritten_pool _ _ _ _ _ _ _ h
    · exact State.lifeWritten_pool _ _ _ _ _ _ _ h
    · exact State.visitWritten_pool _ _ _ hf
    · exact State.visitWritten_pool _ _ _ hf
    · exact State.keepReadDone_pool _ _ _ _ _ _ h
    · split
      · exact State.endKeep_pool _ _ _ (State.leaveTail_pool _ _ _ hf)
      · exact State.onAdu_pool _ _ rfl rfl hf

theorem State.takeVisit_pool (s : State) (pass : PassKind) (opening : Bool) (go : State → State) (hg : ∀ s, PoolAgrees s.adu → PoolAgrees (go s).adu)
    (h : PoolAgrees s.adu) : PoolAgrees (State.takeVisit s pass opening go).adu := by
  simp only [State.takeVisit]
  repeat (first
    | with_reducible exact h | with_reducible refine State.take_pool _ _ ?_ | with_reducible refine hg _ ?_ | split)

theorem State.beginMinute_pool (s : State) (c : MinuteClaim)
    (h : PoolAgrees s.adu) : PoolAgrees (State.beginMinute s c).adu := by
  simp only [State.beginMinute]
  repeat (first
    | with_reducible exact h | with_reducible refine State.endClaim_pool _ ?_
    | with_reducible refine State.beginLife_pool _ _ ?_ | split)

theorem State.takeMinute_pool (s : State) (rows : List WalkRow)
    (h : PoolAgrees s.adu) : PoolAgrees (State.takeMinute s rows).adu := by
  simp only [State.takeMinute]
  repeat (first
    | with_reducible exact h | with_reducible refine State.take_pool _ _ ?_
    | with_reducible refine State.beginMinute_pool _ _ ?_ | split)

theorem State.takeEvent_pool (s : State) (h : PoolAgrees s.adu) : PoolAgrees (State.takeEvent s).adu := by
  simp only [State.takeEvent]
  repeat (first
    | with_reducible exact h | with_reducible refine State.onPlu_pool _ _ ?_
    | with_reducible refine State.onAtu_pool _ _ ?_ | split)

theorem State.beginPanelLife_pool (s : State) (b : Nat × PoolEntry) (change : LifeChange)
    (h : PoolAgrees s.adu) : PoolAgrees (State.beginPanelLife s b change).adu := by
  simp only [State.beginPanelLife]
  repeat (first
    | with_reducible exact h | with_reducible refine State.beginLife_pool _ _ ?_ | split)

theorem State.beginCheckin_pool (s : State) (ev : PanelEvent)
    (h : PoolAgrees s.adu) : PoolAgrees (State.beginCheckin s ev).adu := by
  simp only [State.beginCheckin]
  repeat (first
    | with_reducible exact h | with_reducible refine State.endClaim_pool _ ?_
    | with_reducible refine State.answerPanel_pool _ _ _ ?_
    | with_reducible refine State.beginPanelLife_pool _ _ _ ?_ | split)

theorem State.beginEnd_pool (s : State) (ev : PanelEvent)
    (h : PoolAgrees s.adu) : PoolAgrees (State.beginEnd s ev).adu := by
  simp only [State.beginEnd]
  repeat (first
    | with_reducible exact h | with_reducible refine State.endClaim_pool _ ?_
    | with_reducible refine State.answerPanel_pool _ _ _ ?_
    | with_reducible refine State.beginPanelLife_pool _ _ _ ?_ | split)

theorem State.draftNotice_pool (s : State) (r : SlotRef)
    (h : PoolAgrees s.adu) : PoolAgrees (State.draftNotice s r).adu := by
  unfold State.draftNotice
  split
  · exact PoolAgrees.of_eq rfl rfl h
  · exact h

theorem State.linkGood_pool (s : State) (r : Room) (h : PoolAgrees s.adu) : PoolAgrees (State.linkGood s r).adu := by
  simp only [State.linkGood]
  repeat (first
    | with_reducible exact h | with_reducible refine State.setPanel_pool _ _ _ ?_
    | with_reducible refine State.setDirty_pool _ _ ?_ | with_reducible refine State.markUninitialised_pool _ _ ?_
    | with_reducible refine State.holdReturn_pool _ _ _ ?_ | split)

theorem State.settleMarks_pool (s : State) (l : LoopNo) (r : Room)
    (h : PoolAgrees s.adu) : PoolAgrees (State.settleMarks s l r).adu := by
  simp only [State.settleMarks]
  repeat (first
    | with_reducible exact h | with_reducible refine State.setPanel_pool _ _ _ ?_ | split)

theorem State.takeSample_pool (s : State) (r : Room) (count : Nat)
    (h : PoolAgrees s.adu) : PoolAgrees (State.takeSample s r count).adu := by
  simp only [State.takeSample]
  repeat (first
    | with_reducible exact h | with_reducible refine State.setFilter_pool _ _ _ ?_
    | with_reducible refine State.present_pool _ _ ?_ | with_reducible refine State.makeFast_pool _ _ ?_
    | with_reducible refine State.holdReport_pool _ _ _ ?_ | split)

theorem State.handCount_pool (s : State) (r : Room) (page : Bool) (count : Nat)
    (h : PoolAgrees s.adu) : PoolAgrees (State.handCount s r page count).adu := by
  simp only [State.handCount]
  repeat (first
    | with_reducible exact h | with_reducible refine State.takeSample_pool _ _ _ ?_ | split)

theorem State.buttonEvent_pool (s : State) (l : LoopNo) (r : Room) (b : Button) (arg : Nat) (tag : BitVec 3)
    (h : PoolAgrees s.adu) : PoolAgrees (State.buttonEvent s l r b arg tag).adu := by
  simp only [State.buttonEvent]
  repeat (first
    | with_reducible exact h | with_reducible refine State.onPlu_pool _ _ ?_
    | with_reducible refine State.setPanel_pool _ _ _ ?_ | with_reducible refine State.makeFast_pool _ _ ?_ | split)

theorem State.goodReply_pool (s : State) (l : LoopNo) (x : Exchange) (bs : List Byte)
    (h : PoolAgrees s.adu) : PoolAgrees (State.goodReply s l x bs).adu := by
  simp only [State.goodReply]
  repeat (first
    | with_reducible exact h | with_reducible refine settle_pool _ ?_
    | with_reducible refine State.linkGood_pool _ _ ?_ | with_reducible refine State.settleMarks_pool _ _ _ ?_
    | with_reducible refine State.handCount_pool _ _ _ _ ?_
    | with_reducible refine State.buttonEvent_pool _ _ _ _ _ _ ?_ | split)

theorem State.reply_pool (s : State) (l : LoopNo) (bs : List Byte)
    (h : PoolAgrees s.adu) : PoolAgrees (State.reply s l bs).adu := by
  simp only [State.reply]
  repeat (first
    | with_reducible exact h | with_reducible refine State.endExchange_pool _ _ ?_
    | with_reducible refine State.missExchange_pool _ _ ?_ | with_reducible refine State.goodReply_pool _ _ _ _ ?_
    | split)

theorem State.hardwareReset_pool (straps : BitVec 3) (s : State) : PoolAgrees (State.hardwareReset straps s).adu :=
  PoolAgrees.reset

theorem State.endOfReset_pool (s : State) (h : PoolAgrees s.adu) : PoolAgrees (State.endOfReset s).adu := by
  simp only [State.endOfReset]
  repeat (first
    | with_reducible exact h | with_reducible refine State.onMps_pool _ _ ?_ | split)

theorem State.restart_pool (s : State) (_h : PoolAgrees s.adu) : PoolAgrees (State.restart s).adu := by
  exact PoolAgrees.reset

theorem State.loadClock_pool (s : State) (w : Word)
    (h : PoolAgrees s.adu) : PoolAgrees (State.loadClock s w).adu := by
  simp only [State.loadClock]
  repeat (first
    | with_reducible exact h | with_reducible refine State.onCtu_pool _ _ ?_
    | with_reducible refine State.onClock_pool _ _ ?_ | split)

theorem State.loadBank_pool (s : State) (w : Word) (h : PoolAgrees s.adu) : PoolAgrees (State.loadBank s w).adu := by
  simp only [State.loadBank]
  repeat (first
    | with_reducible exact h | with_reducible refine State.onClock_pool _ _ ?_ | split)

theorem State.storeSetting_pool (s : State) (n : Nat) (data : Word) (lanes : Lanes)
    (h : PoolAgrees s.adu) : PoolAgrees (State.storeSetting s n data lanes).adu := by
  simp only [State.storeSetting]
  repeat (first
    | with_reducible exact h | with_reducible refine State.onCtu_pool _ _ ?_
    | with_reducible refine State.loadClock_pool _ _ ?_ | with_reducible refine State.loadBank_pool _ _ ?_ | split)

theorem State.setCommand_pool (s : State) (w : Word) (st : CommandStatus) (r : CommandReason)
    (h : PoolAgrees s.adu) : PoolAgrees (State.setCommand s w st r).adu := by
  simp only [State.setCommand]
  repeat (first
    | with_reducible exact h | with_reducible refine State.onCtu_pool _ _ ?_ | split)

theorem State.start_pool (s : State) (k : StartKind) (h : PoolAgrees s.adu) : PoolAgrees (State.start s k).adu := by
  simp only [State.start]
  repeat (first
    | with_reducible exact h | with_reducible refine State.onMps_pool _ _ ?_
    | with_reducible refine State.onCtu_pool _ _ ?_ | with_reducible refine State.onClock_pool _ _ ?_
    | with_reducible refine State.onBsc_pool _ _ ?_ | with_reducible refine State.onOcf_pool _ _ ?_
    | with_reducible refine State.startPlu_pool _ ?_ | with_reducible refine State.startAtu_pool _ ?_ | split)

theorem State.rebase_pool (s : State) (w : Word) (h : PoolAgrees s.adu) : PoolAgrees (State.rebase s w).adu := by
  simp only [State.rebase]
  repeat (first
    | with_reducible exact h | with_reducible refine State.markUninitialised_pool _ _ ?_
    | with_reducible refine foldl_pool _ (fun _ _ h => ?_) _ _ ?_ | split)

theorem State.carryOut_pool (s : State) (c : CommandCode) (w : Word)
    (h : PoolAgrees s.adu) : PoolAgrees (State.carryOut s c w).adu := by
  simp only [State.carryOut]
  repeat (first
    | with_reducible exact h | with_reducible refine State.kitchenClear_pool _ ?_
    | with_reducible refine State.swapPositions_pool _ _ _ _ ?_ | with_reducible refine State.restart_pool _ ?_
    | with_reducible refine State.start_pool _ _ ?_ | with_reducible refine State.rebase_pool _ _ ?_ | split)

theorem State.commandWrite_pool (s : State) (w : Word)
    (h : PoolAgrees s.adu) : PoolAgrees (State.commandWrite s w).adu := by
  simp only [State.commandWrite]
  repeat (first
    | with_reducible exact h | with_reducible refine State.setCommand_pool _ _ _ _ ?_
    | with_reducible refine State.carryOut_pool _ _ _ ?_ | split)

theorem State.trapTaken_pool (s : State) (h : PoolAgrees s.adu) : PoolAgrees (State.trapTaken s).adu := by
  simp only [State.trapTaken]
  repeat (first
    | with_reducible exact h | with_reducible refine State.onCtu_pool _ _ ?_ | split)

theorem State.clearCauses_pool (s : State) (w : Word)
    (h : PoolAgrees s.adu) : PoolAgrees (State.clearCauses s w).adu := by
  simp only [State.clearCauses]
  repeat (first
    | with_reducible exact h | with_reducible refine State.onCtu_pool _ _ ?_ | split)

theorem State.act_pool (s : State) (n : Nat) (w : Word)
    (h : PoolAgrees s.adu) : PoolAgrees (State.act s n w).adu := by
  simp only [State.act]
  repeat (first
    | with_reducible exact h | with_reducible refine State.clearFlags_pool _ _ ?_
    | with_reducible refine State.commandWrite_pool _ _ ?_ | with_reducible refine State.trapTaken_pool _ ?_
    | with_reducible refine State.clearCauses_pool _ _ ?_ | split)

theorem State.frameSent_pool (s : State) (h : PoolAgrees s.adu) : PoolAgrees (State.frameSent s).adu := by
  simp only [State.frameSent]
  repeat (first
    | with_reducible exact h | with_reducible refine State.onKlc_pool _ _ ?_ | split)

theorem State.kitchenAnswer_pool (s : State) (sync station orderNumber ticketIndex verdict checksum : Word)
    (h : PoolAgrees s.adu) : PoolAgrees (State.kitchenAnswer s sync station orderNumber ticketIndex verdict checksum).adu := by
  simp only [State.kitchenAnswer]
  repeat (first
    | with_reducible exact h | with_reducible refine State.validAnswer_pool _ _ _ _ _ ?_ | split)

theorem State.frameResend_pool (s : State) (h : PoolAgrees s.adu) : PoolAgrees (State.frameResend s).adu := by
  simp only [State.frameResend]
  repeat (first
    | with_reducible exact h | with_reducible refine State.onKlc_pool _ _ ?_ | split)

theorem State.answerWaitExpiry_pool (s : State)
    (h : PoolAgrees s.adu) : PoolAgrees (State.answerWaitExpiry s).adu := by
  simp only [State.answerWaitExpiry]
  repeat (first
    | with_reducible exact h | with_reducible refine State.onKlc_pool _ _ ?_
    | with_reducible refine State.linkIdle_pool _ ?_ | with_reducible refine State.haltLink_pool _ _ ?_ | split)

theorem State.nextFrameGapEnd_pool (s : State) (h : PoolAgrees s.adu) : PoolAgrees (State.nextFrameGapEnd s).adu := by
  simp only [State.nextFrameGapEnd]
  repeat (first
    | with_reducible exact h | with_reducible refine State.onKlc_pool _ _ ?_ | split)

theorem State.toMemory_pool (s : State) (a : HostAccess)
    (h : PoolAgrees s.adu) : PoolAgrees (State.toMemory s a).adu := by
  simp only [State.toMemory]
  repeat (first
    | with_reducible exact h | with_reducible refine State.onMps_pool _ _ ?_
    | with_reducible refine State.present_pool _ _ ?_ | split)

theorem State.completeHost_pool (s : State) (data : Option Word) (error : Bool)
    (h : PoolAgrees s.adu) : PoolAgrees (State.completeHost s data error).adu := by
  simp only [State.completeHost]
  repeat (first
    | with_reducible exact h | with_reducible refine State.onMps_pool _ _ ?_ | split)

theorem State.withholdWrite_pool (s : State) (h : PoolAgrees s.adu) : PoolAgrees (State.withholdWrite s).adu := by
  simp only [State.withholdWrite]
  repeat (first
    | with_reducible exact h | with_reducible refine State.setFlags_pool _ _ ?_
    | with_reducible refine State.completeHost_pool _ _ _ ?_ | split)

theorem State.readControl_pool (s : State) (n : Nat) (lanes : Lanes)
    (h : PoolAgrees s.adu) : PoolAgrees (State.readControl s n lanes).adu := by
  simp only [State.readControl]
  repeat (first
    | with_reducible exact h | with_reducible refine State.onCtu_pool _ _ ?_
    | with_reducible refine State.completeHost_pool _ _ _ ?_ | split)

theorem State.writeControl_pool (s : State) (n : Nat) (a : HostAccess)
    (h : PoolAgrees s.adu) : PoolAgrees (State.writeControl s n a).adu := by
  simp only [State.writeControl]
  repeat (first
    | with_reducible exact h | with_reducible refine State.setFlags_pool _ _ ?_
    | with_reducible refine State.storeSetting_pool _ _ _ _ ?_ | with_reducible refine State.act_pool _ _ _ ?_
    | with_reducible refine State.toMemory_pool _ _ ?_ | with_reducible refine State.withholdWrite_pool _ ?_ | split)

theorem State.noteDraft_pool (s : State) (r : SlotRef)
    (h : PoolAgrees s.adu) : PoolAgrees (State.noteDraft s r).adu := by
  simp only [State.noteDraft]
  repeat (first
    | with_reducible exact h | with_reducible refine State.onAdu_pool _ _ rfl rfl ?_ | split)

theorem State.holdRequest_pool (s : State) (r : SlotRef) (a : HostAccess)
    (h : PoolAgrees s.adu) : PoolAgrees (State.holdRequest s r a).adu := by
  simp only [State.holdRequest]
  repeat (first
    | with_reducible exact h | with_reducible refine State.onMps_pool _ _ ?_
    | with_reducible refine State.onAdu_pool _ _ rfl rfl ?_ | split)

theorem State.writeSlot_pool (s : State) (r : SlotRef) (n : Nat) (a : HostAccess)
    (h : PoolAgrees s.adu) : PoolAgrees (State.writeSlot s r n a).adu := by
  simp only [State.writeSlot]
  repeat (first
    | with_reducible exact h | with_reducible refine State.setFlags_pool _ _ ?_
    | with_reducible refine State.toMemory_pool _ _ ?_ | with_reducible refine State.withholdWrite_pool _ ?_
    | with_reducible refine State.noteDraft_pool _ _ ?_ | with_reducible refine State.holdRequest_pool _ _ _ ?_
    | split)

theorem State.writeOrder_pool (s : State) (o : OrderIx) (n : Nat) (a : HostAccess)
    (h : PoolAgrees s.adu) : PoolAgrees (State.writeOrder s o n a).adu := by
  simp only [State.writeOrder]
  repeat (first
    | with_reducible exact h | with_reducible refine State.toMemory_pool _ _ ?_
    | with_reducible refine State.withholdWrite_pool _ ?_ | split)

theorem State.captureLine_pool (s : State) (r : Room) (n : Nat) (data : Word) (lanes : Lanes)
    (h : PoolAgrees s.adu) : PoolAgrees (State.captureLine s r n data lanes).adu := by
  simp only [State.captureLine]
  repeat (first
    | with_reducible exact h | with_reducible refine State.setPanel_pool _ _ _ ?_
    | with_reducible refine State.setDirty_pool _ _ ?_ | split)

theorem State.writePage_pool (s : State) (r : Room) (n : Nat) (a : HostAccess)
    (h : PoolAgrees s.adu) : PoolAgrees (State.writePage s r n a).adu := by
  simp only [State.writePage]
  repeat (first
    | with_reducible exact h | with_reducible refine State.toMemory_pool _ _ ?_
    | with_reducible refine State.captureLine_pool _ _ _ _ _ ?_ | split)

theorem State.captureDirectory_pool (s : State) (r : Room) (n : Nat) (data : Word) (lanes : Lanes)
    (h : PoolAgrees s.adu) : PoolAgrees (State.captureDirectory s r n data lanes).adu := by
  simp only [State.captureDirectory]
  repeat (first
    | with_reducible exact h | with_reducible refine State.onCtu_pool _ _ ?_ | split)

theorem State.hostWrite_pool (s : State) (a : HostAccess)
    (h : PoolAgrees s.adu) : PoolAgrees (State.hostWrite s a).adu := by
  simp only [State.hostWrite]
  repeat (first
    | with_reducible exact h | with_reducible refine State.toMemory_pool _ _ ?_
    | with_reducible refine State.withholdWrite_pool _ ?_ | with_reducible refine State.writeControl_pool _ _ _ ?_
    | with_reducible refine State.writeSlot_pool _ _ _ _ ?_ | with_reducible refine State.writeOrder_pool _ _ _ _ ?_
    | with_reducible refine State.writePage_pool _ _ _ _ ?_
    | with_reducible refine State.captureDirectory_pool _ _ _ _ _ ?_ | split)

theorem State.hostRead_pool (s : State) (a : HostAccess)
    (h : PoolAgrees s.adu) : PoolAgrees (State.hostRead s a).adu := by
  simp only [State.hostRead]
  repeat (first
    | with_reducible exact h | with_reducible refine State.toMemory_pool _ _ ?_
    | with_reducible refine State.completeHost_pool _ _ _ ?_ | with_reducible refine State.readControl_pool _ _ _ ?_
    | split)

theorem State.hostTreat_pool (s : State) (a : HostAccess)
    (h : PoolAgrees s.adu) : PoolAgrees (State.hostTreat s a).adu := by
  simp only [State.hostTreat]
  repeat (first
    | with_reducible exact h | with_reducible refine State.hostWrite_pool _ _ ?_
    | with_reducible refine State.hostRead_pool _ _ ?_ | split)

theorem State.deliver_pool (s : State) (a : Access) (data : Word) (error : Bool)
    (h : PoolAgrees s.adu) : PoolAgrees (State.deliver s a data error).adu := by
  unfold State.deliver
  split
  · exact State.completeHost_pool _ _ _ h
  · exact State.onMps_pool _ _ (State.completeHost_pool _ _ _ h)
  · exact State.claimAccessDone_pool _ _ _ h
  · exact State.claimAccessDone_pool _ _ _ h
  · exact State.tailDone_pool _ _ h
  · exact State.cquDone_pool _ _ h
  · exact State.assemblyRead_pool _ _ _ h
  · exact State.finalDone_pool _ _ h
  all_goals first | exact h | (split <;> exact h)

theorem State.accessComplete_pool (s : State) (error nextFirst : Bool)
    (h : PoolAgrees s.adu) : PoolAgrees (State.accessComplete s error nextFirst).adu := by
  unfold State.accessComplete
  split
  · exact h
  · refine State.deliver_pool _ _ _ _ ?_
    split
    · exact h
    · exact h

theorem settleAfter_pool (before after : State) (nextFirst : Bool)
    (h : PoolAgrees after.adu) : PoolAgrees (settleAfter before after nextFirst).adu := by
  unfold settleAfter
  dsimp only
  split
  · exact presentAll_pool _ h
  · exact State.onMps_pool _ _ (presentAll_pool _ h)

end Sys2Proof.Machine
end

