-- ==== Sys2Proof/Laws/Keeps.lean ====
section
/-! SUPPORT. The operations that leave the bookings alone: `Keeps base t` says that `t` agrees with `base` in everything that
`BookingSideAgrees` reads. One lemma per operation. -/

namespace Sys2Proof.Machine

/-- The tables that the booking side reads are canonical, and the pool keeps its law. -/
structure Tidy (s : State) : Prop where
  pool      : PoolAgrees s.adu
  schedules : Table.wf [] s.adu.schedules = true
  slotMap   : Table.wf .free s.adu.slotMap = true
  bindings  : Table.wf none s.adu.bindings = true
  entries   : Table.wf none s.cqu.entries = true
  loops     : Table.wf {} s.plu.loops = true

/-- The part of a pool entry that the law of the bookings reads. -/
def PoolEntry.shape (e : PoolEntry) : SlotRef × Nat × Nat × Option OrderIx := (e.at_, e.start, e.stop, e.order)

/-- A loop makes no round and no exchange. -/
def Loop.Idle (lp : Loop) : Prop := lp.inRound = false ∧ lp.exchange = none

/-- A BOOKNOW carries an argument 1 to 4. -/
def PanelEvent.Good (ev : PanelEvent) : Prop := ev.button = .booknow → 1 ≤ ev.argument ∧ ev.argument ≤ 4

/-- `t` agrees with `base` in everything that the agreement of the booking side rests on. -/
structure Keeps (base t : State) : Prop where
  tidy      : Tidy t
  schedules : t.adu.schedules = base.adu.schedules
  bindings  : t.adu.bindings = base.adu.bindings
  freeList  : t.adu.freeList = base.adu.freeList
  shape     : ∀ i, (t.entry i).map PoolEntry.shape = (base.entry i).map PoolEntry.shape
  live      : ∀ r i, t.slotState r = .live i ↔ base.slotState r = .live i
  claim     : t.adu.claim = base.adu.claim
  pass      : t.bsc.pass = base.bsc.pass
  cursor    : t.bsc.cursor = base.bsc.cursor
  phase     : t.ctu.phase = base.ctu.phase
  today     : t.clock.today = base.clock.today ∨ base.ctu.phase = .setup
  event     : t.atu.panelEvent = none ∨ t.atu.panelEvent = base.atu.panelEvent
  minute    : base.ctu.phase = .setup → base.atu.minuteClaim = none → t.atu.minuteClaim = none
  request   : base.ctu.phase = .setup → base.adu.request = none → t.adu.request = none
  noEvents  : base.ctu.phase = .setup → base.plu.events = [] → t.plu.events = []
  events    : ∀ ev ∈ t.plu.events, ev ∈ base.plu.events ∨ ev.Good
  idle      : base.ctu.phase = .setup → ∀ l, (base.loop l).Idle → (t.loop l).Idle
  held      : ∀ o, base.orderEntry o ≠ none → t.orderEntry o ≠ none

theorem Keeps.refl {s : State} (h : Tidy s) : Keeps s s where
  tidy := h
  schedules := rfl
  bindings := rfl
  freeList := rfl
  shape _ := rfl
  live _ _ := Iff.rfl
  claim := rfl
  pass := rfl
  cursor := rfl
  phase := rfl
  today := .inl rfl
  event := .inr rfl
  minute _ h := h
  request _ h := h
  noEvents _ h := h
  events _ h := .inl h
  idle _ _ h := h
  held _ h := h

theorem Keeps.trans {a b c : State} (h : Keeps a b) (k : Keeps b c) : Keeps a c where
  tidy := k.tidy
  schedules := k.schedules.trans h.schedules
  bindings := k.bindings.trans h.bindings
  freeList := k.freeList.trans h.freeList
  shape i := (k.shape i).trans (h.shape i)
  live r i := (k.live r i).trans (h.live r i)
  claim := k.claim.trans h.claim
  pass := k.pass.trans h.pass
  cursor := k.cursor.trans h.cursor
  phase := k.phase.trans h.phase
  today := by
    rcases k.today with h1 | h1
    · rw [h1]; exact h.today
    · exact .inr (h.phase ▸ h1)
  event := by
    rcases k.event with h1 | h1
    · exact .inl h1
    · rw [h1]; exact h.event
  minute hp h0 := k.minute (h.phase.trans hp) (h.minute hp h0)
  request hp h0 := k.request (h.phase.trans hp) (h.request hp h0)
  noEvents hp h0 := k.noEvents (h.phase.trans hp) (h.noEvents hp h0)
  events ev he := (k.events ev he).elim (h.events ev) .inr
  idle hp l h0 := k.idle (h.phase.trans hp) l (h.idle hp l h0)
  held o h0 := k.held o (h.held o h0)

/-- A step that leaves the booking side, the loops, the orders and the panel events as they are keeps everything. -/
theorem Keeps.of_same {base s t : State} (h :
    Keeps base s) (h1 : t.adu.pool = s.adu.pool) (h2 : t.adu.freeList = s.adu.freeList)
    (h3 : t.adu.schedules = s.adu.schedules) (h4 : t.adu.slotMap = s.adu.slotMap) (h5 : t.adu.bindings = s.adu.bindings)
    (h6 : t.adu.claim = s.adu.claim) (h7 : t.adu.request = s.adu.request) (h8 : t.bsc.pass = s.bsc.pass)
    (h9 : t.bsc.cursor = s.bsc.cursor) (h10 : t.ctu.phase = s.ctu.phase) (h11 : t.clock.today = s.clock.today)
    (h12 : t.atu.panelEvent = s.atu.panelEvent) (h13 : t.atu.minuteClaim = s.atu.minuteClaim) (h14 : t.plu.events = s.plu.events)
    (h15 : t.plu.loops = s.plu.loops) (h16 : t.cqu.entries = s.cqu.entries) : Keeps base t where
  tidy :=
    { pool := PoolAgrees.of_eq h1 h2 h.tidy.pool
      schedules := by rw [h3]; exact h.tidy.schedules
      slotMap := by rw [h4]; exact h.tidy.slotMap
      bindings := by rw [h5]; exact h.tidy.bindings
      entries := by rw [h16]; exact h.tidy.entries
      loops := by rw [h15]; exact h.tidy.loops }
  schedules := h3.trans h.schedules
  bindings := h5.trans h.bindings
  freeList := h2.trans h.freeList
  shape i := by unfold State.entry; rw [h1]; exact h.shape i
  live r i := by unfold State.slotState; rw [h4]; exact h.live r i
  claim := h6.trans h.claim
  pass := h8.trans h.pass
  cursor := h9.trans h.cursor
  phase := h10.trans h.phase
  today := by rw [h11]; exact h.today
  event := by rw [h12]; exact h.event
  minute hp h0 := h13.trans (h.minute hp h0)
  request hp h0 := h7.trans (h.request hp h0)
  noEvents hp h0 := h14.trans (h.noEvents hp h0)
  events ev he := h.events ev (h14 ▸ he)
  idle hp l h0 := by unfold State.loop; rw [h15]; exact h.idle hp l h0
  held o h0 := by unfold State.orderEntry; rw [h16]; exact h.held o h0

/-- A fold of operations that keep the booking side keeps it. -/
theorem foldl_keeps {β : Type} {base : State} (f : State → β → State) (hf : ∀ s b, Keeps base s → Keeps base (f s b))
    (l : List β) (s : State) (h : Keeps base s) : Keeps base (l.foldl f s) := by
  induction l generalizing s with
  | nil => exact h
  | cons b l ih => exact ih _ (hf s b h)

section Updates
variable {base : State} (s : State)

theorem State.onMps_keeps (f : Mps → Mps) (h : Keeps base s) : Keeps base (s.onMps f) :=
  Keeps.of_same h rfl rfl rfl rfl rfl rfl rfl rfl rfl rfl rfl rfl rfl rfl rfl rfl
theorem State.onCtu_keeps (f : Ctu → Ctu) (h1 : (f s.ctu).phase = s.ctu.phase) (h : Keeps base s) : Keeps base (s.onCtu f) :=
  Keeps.of_same h rfl rfl rfl rfl rfl rfl rfl rfl rfl h1 rfl rfl rfl rfl rfl rfl
theorem State.onClock_keeps (f : Clock → Clock) (h1 : (f s.clock).today = s.clock.today) (h : Keeps base s) :
    Keeps base (s.onClock f) := Keeps.of_same h rfl rfl rfl rfl rfl rfl rfl rfl rfl rfl h1 rfl rfl rfl rfl rfl
theorem State.onAdu_keeps (f : Adu → Adu) (h1 : (f s.adu).pool = s.adu.pool) (h2 : (f s.adu).freeList = s.adu.freeList)
    (h3 : (f s.adu).schedules = s.adu.schedules) (h4 : (f s.adu).slotMap = s.adu.slotMap)
    (h5 : (f s.adu).bindings = s.adu.bindings) (h6 : (f s.adu).claim = s.adu.claim) (h7 : (f s.adu).request = s.adu.request)
    (h : Keeps base s) : Keeps base (s.onAdu f) :=
  Keeps.of_same h h1 h2 h3 h4 h5 h6 h7 rfl rfl rfl rfl rfl rfl rfl rfl rfl
theorem State.onBsc_keeps (f : Bsc → Bsc) (h1 : (f s.bsc).pass = s.bsc.pass) (h2 : (f s.bsc).cursor = s.bsc.cursor)
    (h : Keeps base s) : Keeps base (s.onBsc f) :=
  Keeps.of_same h rfl rfl rfl rfl rfl rfl rfl h1 h2 rfl rfl rfl rfl rfl rfl rfl
theorem State.onPlu_keeps (f : Plu → Plu) (h1 : (f s.plu).events = s.plu.events) (h2 : (f s.plu).loops = s.plu.loops)
    (h : Keeps base s) : Keeps base (s.onPlu f) :=
  Keeps.of_same h rfl rfl rfl rfl rfl rfl rfl rfl rfl rfl rfl rfl rfl h1 h2 rfl
theorem State.onOcf_keeps (f : Ocf → Ocf) (h : Keeps base s) : Keeps base (s.onOcf f) :=
  Keeps.of_same h rfl rfl rfl rfl rfl rfl rfl rfl rfl rfl rfl rfl rfl rfl rfl rfl
theorem State.onAtu_keeps (f : Atu → Atu) (h1 : (f s.atu).panelEvent = s.atu.panelEvent)
    (h2 : (f s.atu).minuteClaim = s.atu.minuteClaim) (h : Keeps base s) : Keeps base (s.onAtu f) :=
  Keeps.of_same h rfl rfl rfl rfl rfl rfl rfl rfl rfl rfl rfl h1 h2 rfl rfl rfl
theorem State.onCqu_keeps (f : Cqu → Cqu) (h1 : (f s.cqu).entries = s.cqu.entries) (h : Keeps base s) :
    Keeps base (s.onCqu f) :=
  Keeps.of_same h rfl rfl rfl rfl rfl rfl rfl rfl rfl rfl rfl rfl rfl rfl rfl h1
theorem State.onKlc_keeps (f : Klc → Klc) (h : Keeps base s) : Keeps base (s.onKlc f) :=
  Keeps.of_same h rfl rfl rfl rfl rfl rfl rfl rfl rfl rfl rfl rfl rfl rfl rfl rfl

/-- The Attendance Unit may drop the panel event and its claim. -/
theorem State.onAtu_keeps_less (f : Atu → Atu)
    (h1 : (f s.atu).panelEvent = none ∨ (f s.atu).panelEvent = s.atu.panelEvent)
    (h2 : (f s.atu).minuteClaim = none ∨ (f s.atu).minuteClaim = s.atu.minuteClaim) (h : Keeps base s) :
    Keeps base (s.onAtu f) :=
  { h with
    tidy := ⟨h.tidy.pool, h.tidy.schedules, h.tidy.slotMap, h.tidy.bindings, h.tidy.entries, h.tidy.loops⟩
    event := h1.elim .inl fun e => h.event.imp e.trans e.trans
    minute := fun hp h0 => h2.elim id fun e => e.trans (h.minute hp h0) }

/-- Outside SETUP the walk may present its claim. -/
theorem State.onAtu_keeps_claim (f : Atu → Atu) (h1 : (f s.atu).panelEvent = s.atu.panelEvent)
    (hp : base.ctu.phase ≠ .setup) (h : Keeps base s) : Keeps base (s.onAtu f) :=
  { h with
    tidy := ⟨h.tidy.pool, h.tidy.schedules, h.tidy.slotMap, h.tidy.bindings, h.tidy.entries, h.tidy.loops⟩
    event := h.event.imp h1.trans h1.trans
    minute := fun h0 => absurd h0 hp }

theorem State.setLoop_keeps (l : LoopNo) (v : Loop) (hv : base.ctu.phase = .setup → (s.loop l).Idle → v.Idle)
    (h : Keeps base s) : Keeps base (s.setLoop l v) :=
  { h with
    tidy := ⟨h.tidy.pool, h.tidy.schedules, h.tidy.slotMap, h.tidy.bindings, h.tidy.entries, Table.wf_set _ _ _ _ h.tidy.loops⟩
    idle := fun hp k h0 => by
      have := h.idle hp k h0
      unfold State.loop State.setLoop at *
      rw [State.onPlu_plu, Table.get_set _ _ _ _ _ h.tidy.loops]
      split
      · rename_i hk
        rw [hk] at this
        exact hv hp this
      · exact this }

theorem State.setOrderEntry_keeps (o : OrderIx) (v : OrderEntry) (h : Keeps base s) :
    Keeps base (s.setOrderEntry o (some v)) :=
  { h with
    tidy := ⟨h.tidy.pool, h.tidy.schedules, h.tidy.slotMap, h.tidy.bindings, Table.wf_set _ _ _ _ h.tidy.entries, h.tidy.loops⟩
    held := fun k h0 => by
      have := h.held k h0
      unfold State.orderEntry State.setOrderEntry at *
      rw [State.onCqu_cqu, Table.get_set _ _ _ _ _ h.tidy.entries]
      split
      · simp
      · exact this }

theorem State.setEntry_keeps (i : Nat) (e : PoolEntry) (hs : (s.entry i).map PoolEntry.shape = some e.shape)
    (h : Keeps base s) : Keeps base (s.setEntry i (some e)) :=
  { h with
    tidy :=
      ⟨State.setEntry_pool s i e (fun h0 => by rw [h0] at hs; simp at hs) h.tidy.pool, h.tidy.schedules, h.tidy.slotMap,
        h.tidy.bindings, h.tidy.entries, h.tidy.loops⟩
    shape := fun j => by
      rw [← h.shape j]
      have hw := h.tidy.pool.1
      unfold State.entry State.setEntry at *
      rw [State.onAdu_adu, Table.get_set _ _ _ _ _ hw]
      split
      · rename_i hj
        rw [hj, hs]
        rfl
      · rfl }

/-- A Slot Map entry that is not LIVE may change to another such. -/
theorem State.setSlot_keeps (r : SlotRef) (v : SlotState) (h0 : ∀ i, s.slotState r ≠ .live i) (hv : ∀ i, v ≠ .live i)
    (hk : ∀ q : SlotRef, q.key = r.key → q = r) (h : Keeps base s) : Keeps base (s.setSlot r v) :=
  { h with
    tidy := ⟨h.tidy.pool, h.tidy.schedules, Table.wf_set _ _ _ _ h.tidy.slotMap, h.tidy.bindings, h.tidy.entries, h.tidy.loops⟩
    live := fun q i => by
      rw [← h.live q i]
      have hw := h.tidy.slotMap
      unfold State.slotState State.setSlot at *
      rw [State.onAdu_adu, Table.get_set _ _ _ _ _ hw]
      split
      · rename_i hq
        rw [hk q hq]
        constructor
        · intro h; exact absurd h (hv i)
        · intro h; exact absurd h (h0 i)
      · exact Iff.rfl }

end Updates

/-- A slot is told by its key. -/
theorem SlotRef.key_inj (q r : SlotRef) (h : q.key = r.key) : q = r := by
  obtain ⟨qb, qr, qs⟩ := q
  obtain ⟨rb, rr, rs⟩ := r
  simp only [SlotRef.key] at h
  have h1 := qr.isLt
  have h2 := rr.isLt
  have h3 := qs.isLt
  have h4 := rs.isLt
  have hr : qr = rr := Fin.ext (by cases qb <;> cases rb <;> simp only at h <;> omega)
  have hs : qs = rs := Fin.ext (by cases qb <;> cases rb <;> simp only at h <;> omega)
  have hb : qb = rb := by cases qb <;> cases rb <;> simp only at h <;> first | rfl | omega
  rw [hr, hs, hb]

theorem State.setPanel_keeps {base : State} (s : State) (r : Room) (v : Panel)
    (h : Keeps base s) : Keeps base (State.setPanel s r v) := by
  simp only [State.setPanel]
  repeat (first
    | with_reducible exact h | with_reducible refine State.onPlu_keeps _ _ rfl rfl ?_ | split)

theorem State.setFilter_keeps {base : State} (s : State) (r : Room) (v : Filter)
    (h : Keeps base s) : Keeps base (State.setFilter s r v) := by
  simp only [State.setFilter]
  repeat (first
    | with_reducible exact h | with_reducible refine State.onOcf_keeps _ _ ?_ | split)

theorem State.setRoomState_keeps {base : State} (s : State) (r : Room) (v : RoomState)
    (h : Keeps base s) : Keeps base (State.setRoomState s r v) := by
  simp only [State.setRoomState]
  repeat (first
    | with_reducible exact h | with_reducible refine State.onAtu_keeps _ _ rfl rfl ?_ | split)

theorem State.present_keeps {base : State} (s : State) (a : Access) (h : Keeps base s) : Keeps base (State.present s a) := by
  simp only [State.present]
  repeat (first
    | with_reducible exact h | with_reducible refine State.onMps_keeps _ _ ?_ | split)

theorem State.arbitrate_keeps {base : State} (s : State) (h : Keeps base s) : Keeps base (s.onMps Mps.arbitrate) :=
  State.onMps_keeps _ _ h

theorem State.setFlags_keeps {base : State} (s : State) (w : Word) (h : Keeps base s) : Keeps base (State.setFlags s w) := by
  simp only [State.setFlags]
  repeat (first
    | with_reducible exact h | with_reducible refine State.onCtu_keeps _ _ rfl ?_ | split)

theorem State.clearFlags_keeps {base : State} (s : State) (w : Word) (h : Keeps base s) :
    Keeps base (State.clearFlags s w) := by
  simp only [State.clearFlags]
  repeat (first
    | with_reducible exact h | with_reducible refine State.onCtu_keeps _ _ rfl ?_ | split)

theorem State.presentTrap_keeps {base : State} (s : State) (r : TrapRecord)
    (h : Keeps base s) : Keeps base (State.presentTrap s r) := by
  simp only [State.presentTrap]
  repeat (first
    | with_reducible exact h | with_reducible refine State.onCtu_keeps _ _ rfl ?_
    | with_reducible refine State.setFlags_keeps _ _ ?_ | split)

theorem State.markChanged_keeps {base : State} (s : State) (r : Room) (h : Keeps base s) :
    Keeps base (State.markChanged s r) := by
  simp only [State.markChanged]
  repeat (first
    | with_reducible exact h | with_reducible refine State.onCtu_keeps _ _ rfl ?_ | split)

theorem State.raiseKitchen_keeps {base : State} (s : State) (h : Keeps base s) : Keeps base (State.raiseKitchen s) := by
  simp only [State.raiseKitchen]
  repeat (first
    | with_reducible exact h | with_reducible refine State.onCtu_keeps _ _ rfl ?_ | split)

theorem State.raiseScan_keeps {base : State} (s : State) (h : Keeps base s) : Keeps base (State.raiseScan s) := by
  simp only [State.raiseScan]
  repeat (first
    | with_reducible exact h | with_reducible refine State.onCtu_keeps _ _ rfl ?_ | split)

theorem State.lockNotice_keeps {base : State} (s : State) (o : OrderIx) (st : OrderState)
    (h : Keeps base s) : Keeps base (State.lockNotice s o st) := by
  simp only [State.lockNotice]
  repeat (first
    | with_reducible exact h | with_reducible refine State.onMps_keeps _ _ ?_ | split)

theorem State.listWrite_keeps {base : State} (s : State) (o : OrderIx) (h : Keeps base s) :
    Keeps base (State.listWrite s o) := by
  simp only [State.listWrite]
  repeat (first
    | with_reducible exact h | with_reducible refine State.onCqu_keeps _ _ rfl ?_ | split)

theorem State.decideOrder_keeps {base : State} (s : State) (o : OrderIx) (e : OrderEntry)
    (h : Keeps base s) : Keeps base (State.decideOrder s o e) := by
  simp only [State.decideOrder]
  repeat (first
    | with_reducible exact h | with_reducible refine State.setOrderEntry_keeps _ _ _ ?_
    | with_reducible refine State.raiseKitchen_keeps _ ?_ | with_reducible refine State.lockNotice_keeps _ _ _ ?_
    | with_reducible refine State.listWrite_keeps _ _ ?_ | split)

theorem State.unqueue_keeps {base : State} (s : State) (o : OrderIx) (h : Keeps base s) : Keeps base (State.unqueue s o) := by
  simp only [State.unqueue]
  repeat (first
    | with_reducible exact h | with_reducible refine State.onCqu_keeps _ _ rfl ?_ | split)

theorem State.leaveContext_keeps {base : State} (s : State) (o : OrderIx)
    (h : Keeps base s) : Keeps base (State.leaveContext s o) := by
  simp only [State.leaveContext]
  repeat (first
    | with_reducible exact h
    | with_reducible refine State.onMps_keeps _ _ ?_
    | with_reducible refine State.onKlc_keeps _ _ ?_ | split)

theorem State.unplace_keeps {base : State} (s : State) (o : OrderIx)
    (h : Keeps base s) : Keeps base (State.unplace s o) := by
  simp only [State.unplace]
  repeat (first
    | with_reducible exact h
    | with_reducible refine State.leaveContext_keeps _ _ ?_
    | with_reducible refine State.onCqu_keeps _ _ rfl ?_
    | with_reducible refine State.unqueue_keeps _ _ ?_ | split)

theorem State.enqueue_keeps {base : State} (s : State) (o : OrderIx)
    (h : Keeps base s) : Keeps base (State.enqueue s o) := by
  simp only [State.enqueue]
  repeat (first
    | with_reducible exact h
    | with_reducible refine State.onCqu_keeps _ _ rfl ?_
    | with_reducible refine State.unplace_keeps _ _ ?_ | split)

theorem State.recall_keeps {base : State} (s : State) (o : OrderIx)
    (h : Keeps base s) : Keeps base (State.recall s o) := by
  simp only [State.recall]
  repeat (first
    | with_reducible exact h
    | with_reducible refine State.onCqu_keeps _ _ rfl ?_
    | with_reducible refine State.unplace_keeps _ _ ?_ | split)

theorem State.queueOrder_keeps {base : State} (s : State) (o : OrderIx) (e : OrderEntry)
    (h : Keeps base s) : Keeps base (State.queueOrder s o e) := by
  simp only [State.queueOrder]
  repeat (first
    | with_reducible exact h | with_reducible refine State.decideOrder_keeps _ _ _ ?_
    | with_reducible refine State.enqueue_keeps _ _ ?_ | split)

theorem State.recallOrder_keeps {base : State} (s : State) (o : OrderIx) (e : OrderEntry) (resend : Bool)
    (h : Keeps base s) : Keeps base (State.recallOrder s o e resend) := by
  simp only [State.recallOrder]
  repeat (first
    | with_reducible exact h | with_reducible refine State.decideOrder_keeps _ _ _ ?_
    | with_reducible refine State.recall_keeps _ _ ?_ | split)

theorem State.markContext_keeps {base : State} (s : State) (o : OrderIx) (m : Disposition)
    (h : Keeps base s) : Keeps base (State.markContext s o m) := by
  simp only [State.markContext]
  repeat (first
    | with_reducible exact h | with_reducible refine State.onKlc_keeps _ _ ?_ | split)

theorem State.noticeAttach_keeps {base : State} (s : State) (o : OrderIx) (role : Role) (at_ : SlotRef) (start due : Nat)
    (h : Keeps base s) : Keeps base (State.noticeAttach s o role at_ start due) := by
  simp only [State.noticeAttach]
  repeat (first
    | with_reducible exact h | with_reducible refine State.queueOrder_keeps _ _ _ ?_ | split)

theorem State.noticeMove_keeps {base : State} (s : State) (o : OrderIx) (start due : Nat)
    (h : Keeps base s) : Keeps base (State.noticeMove s o start due) := by
  simp only [State.noticeMove]
  repeat (first
    | with_reducible exact h | with_reducible refine State.decideOrder_keeps _ _ _ ?_
    | with_reducible refine State.queueOrder_keeps _ _ _ ?_ | with_reducible refine State.recallOrder_keeps _ _ _ _ ?_
    | with_reducible refine State.markContext_keeps _ _ _ ?_ | split)

theorem State.noticeShortDetach_keeps {base : State} (s : State) (o : OrderIx)
    (h : Keeps base s) : Keeps base (State.noticeShortDetach s o) := by
  simp only [State.noticeShortDetach]
  repeat (first
    | with_reducible exact h | with_reducible refine State.decideOrder_keeps _ _ _ ?_
    | with_reducible refine State.unqueue_keeps _ _ ?_ | with_reducible refine State.recallOrder_keeps _ _ _ _ ?_
    | with_reducible refine State.markContext_keeps _ _ _ ?_ | split)

theorem State.noticeDeath_keeps {base : State} (s : State) (o : OrderIx) (k : DeathKind)
    (h : Keeps base s) : Keeps base (State.noticeDeath s o k) := by
  simp only [State.noticeDeath]
  repeat (first
    | with_reducible exact h | with_reducible refine State.decideOrder_keeps _ _ _ ?_
    | with_reducible refine State.unqueue_keeps _ _ ?_ | with_reducible refine State.recallOrder_keeps _ _ _ _ ?_
    | with_reducible refine State.markContext_keeps _ _ _ ?_ | split)

theorem State.notice_keeps {base : State} (s : State) (x : Notice) (h : Keeps base s) : Keeps base (State.notice s x) := by
  cases x <;> simp only [State.notice]
  · exact State.noticeAttach_keeps _ _ _ _ _ _ h
  · exact State.noticeMove_keeps _ _ _ _ h
  · exact State.noticeShortDetach_keeps _ _ h
  · exact State.noticeDeath_keeps _ _ _ h

theorem State.notices_keeps {base : State} (s : State) (l : List Notice) (h : Keeps base s) :
    Keeps base (State.notices s l) := by
  simp only [State.notices]
  repeat (first
    | with_reducible exact h | with_reducible refine State.notice_keeps _ _ ?_
    | with_reducible refine foldl_keeps _ (fun _ _ h => ?_) _ _ ?_ | split)

theorem State.dispose_keeps {base : State} (s : State) (o : OrderIx) (m : Disposition)
    (h : Keeps base s) : Keeps base (State.dispose s o m) := by
  simp only [State.dispose]
  repeat (first
    | with_reducible exact h | with_reducible refine State.decideOrder_keeps _ _ _ ?_
    | with_reducible refine State.queueOrder_keeps _ _ _ ?_ | with_reducible refine State.recallOrder_keeps _ _ _ _ ?_
    | split)

theorem State.makeDue_keeps {base : State} (s : State) (o : OrderIx) (h : Keeps base s) : Keeps base (State.makeDue s o) := by
  simp only [State.makeDue]
  repeat (first
    | with_reducible exact h | with_reducible refine State.decideOrder_keeps _ _ _ ?_ | split)

theorem State.cateringMinute_keeps {base : State} (s : State) (h : Keeps base s) : Keeps base (State.cateringMinute s) := by
  simp only [State.cateringMinute]
  repeat (first
    | with_reducible exact h | with_reducible refine State.makeDue_keeps _ _ ?_
    | with_reducible refine foldl_keeps _ (fun _ _ h => ?_) _ _ ?_ | split)

theorem State.closeQueued_keeps {base : State} (b : Book) (s : State) (o : OrderIx)
    (h : Keeps base s) : Keeps base (State.closeQueued b s o) := by
  simp only [State.closeQueued]
  repeat (first
    | with_reducible exact h | with_reducible refine State.decideOrder_keeps _ _ _ ?_
    | with_reducible refine State.unqueue_keeps _ _ ?_ | split)

theorem State.closeAccepted_keeps {base : State} (b : Book) (s : State) (o : OrderIx)
    (h : Keeps base s) : Keeps base (State.closeAccepted b s o) := by
  simp only [State.closeAccepted]
  repeat (first
    | with_reducible exact h | with_reducible refine State.decideOrder_keeps _ _ _ ?_ | split)

theorem State.dayClose_keeps {base : State} (s : State) (b : Book) (h : Keeps base s) : Keeps base (State.dayClose s b) := by
  simp only [State.dayClose]
  repeat (first
    | with_reducible exact h | with_reducible refine State.closeQueued_keeps _ _ _ ?_
    | with_reducible refine State.closeAccepted_keeps _ _ _ ?_
    | with_reducible refine foldl_keeps _ (fun _ _ h => ?_) _ _ ?_ | split)

theorem State.presentCqu_keeps {base : State} (s : State) (h : Keeps base s) : Keeps base (State.presentCqu s) := by
  simp only [State.presentCqu]
  repeat (first
    | with_reducible exact h | with_reducible refine State.onCqu_keeps _ _ rfl ?_
    | with_reducible refine State.present_keeps _ _ ?_ | split)

theorem State.cquDone_keeps {base : State} (s : State) (error : Bool) (h : Keeps base s) :
    Keeps base (State.cquDone s error) := by
  simp only [State.cquDone]
  repeat (first
    | with_reducible exact h | with_reducible refine State.onCqu_keeps _ _ rfl ?_
    | with_reducible refine State.setFlags_keeps _ _ ?_ | split)

theorem State.assemble_keeps {base : State} (s : State) (c : Context) (h : Keeps base s) :
    Keeps base (State.assemble s c) := by
  simp only [State.assemble]
  repeat (first
    | with_reducible exact h | with_reducible refine State.onKlc_keeps _ _ ?_ | split)

theorem State.linkIdle_keeps {base : State} (s : State) (h : Keeps base s) : Keeps base (State.linkIdle s) := by
  simp only [State.linkIdle]
  repeat (first
    | with_reducible exact h | with_reducible refine State.onKlc_keeps _ _ ?_ | split)

theorem State.haltLink_keeps {base : State} (s : State) (r : HaltReason) (h : Keeps base s) :
    Keeps base (State.haltLink s r) := by
  simp only [State.haltLink]
  repeat (first
    | with_reducible exact h | with_reducible refine State.onKlc_keeps _ _ ?_
    | with_reducible refine State.raiseKitchen_keeps _ ?_ | split)

theorem State.recordTotal_keeps {base : State} (s : State) (o : OrderIx) (total : Nat)
    (h : Keeps base s) : Keeps base (State.recordTotal s o total) := by
  simp only [State.recordTotal]
  repeat (first
    | with_reducible exact h | with_reducible refine State.decideOrder_keeps _ _ _ ?_ | split)

theorem State.assemblyRead_keeps {base : State} (s : State) (data : Word) (error : Bool)
    (h : Keeps base s) : Keeps base (State.assemblyRead s data error) := by
  simp only [State.assemblyRead]
  repeat (first
    | with_reducible exact h | with_reducible refine State.onKlc_keeps _ _ ?_
    | with_reducible refine State.haltLink_keeps _ _ ?_ | with_reducible refine State.recordTotal_keeps _ _ _ ?_
    | split)

theorem State.lookForWork_keeps {base : State} (s : State) (h : Keeps base s) : Keeps base (State.lookForWork s) := by
  simp only [State.lookForWork]
  repeat (first
    | with_reducible exact h | with_reducible refine State.onCqu_keeps _ _ rfl ?_
    | with_reducible refine State.decideOrder_keeps _ _ _ ?_ | with_reducible refine State.unqueue_keeps _ _ ?_
    | with_reducible refine State.recall_keeps _ _ ?_ | with_reducible refine State.assemble_keeps _ _ ?_ | split)

theorem State.ticketAccepted_keeps {base : State} (s : State) (c : Context) (e : OrderEntry)
    (h : Keeps base s) : Keeps base (State.ticketAccepted s c e) := by
  simp only [State.ticketAccepted]
  repeat (first
    | with_reducible exact h | with_reducible refine State.decideOrder_keeps _ _ _ ?_
    | with_reducible refine State.dispose_keeps _ _ _ ?_ | with_reducible refine State.assemble_keeps _ _ ?_
    | with_reducible refine State.linkIdle_keeps _ ?_ | split)

theorem State.recallAccepted_keeps {base : State} (s : State) (c : Context) (e : OrderEntry)
    (h : Keeps base s) : Keeps base (State.recallAccepted s c e) := by
  simp only [State.recallAccepted]
  repeat (first
    | with_reducible exact h | with_reducible refine State.decideOrder_keeps _ _ _ ?_
    | with_reducible refine State.queueOrder_keeps _ _ _ ?_ | with_reducible refine State.linkIdle_keeps _ ?_ | split)

theorem State.resend_keeps {base : State} (s : State) (c : Context) (h : Keeps base s) : Keeps base (State.resend s c) := by
  simp only [State.resend]
  repeat (first
    | with_reducible exact h | with_reducible refine State.onKlc_keeps _ _ ?_ | split)

theorem State.softFault_keeps {base : State} (s : State) (c : Context) (e : OrderEntry)
    (h : Keeps base s) : Keeps base (State.softFault s c e) := by
  simp only [State.softFault]
  repeat (first
    | with_reducible exact h | with_reducible refine State.onKlc_keeps _ _ ?_
    | with_reducible refine State.decideOrder_keeps _ _ _ ?_ | with_reducible refine State.dispose_keeps _ _ _ ?_
    | with_reducible refine State.linkIdle_keeps _ ?_ | with_reducible refine State.haltLink_keeps _ _ ?_
    | with_reducible refine State.resend_keeps _ _ ?_ | split)

theorem State.mismatch_keeps {base : State} (s : State) (c : Context) (h : Keeps base s) :
    Keeps base (State.mismatch s c) := by
  simp only [State.mismatch]
  repeat (first
    | with_reducible exact h | with_reducible refine State.onKlc_keeps _ _ ?_
    | with_reducible refine State.haltLink_keeps _ _ ?_ | with_reducible refine State.resend_keeps _ _ ?_ | split)

theorem State.validAnswer_keeps {base : State} (s : State) (station orderNumber ticketIndex : Word) (v : KitchenVerdict)
    (h : Keeps base s) : Keeps base (State.validAnswer s station orderNumber ticketIndex v) := by
  simp only [State.validAnswer]
  repeat (first
    | with_reducible exact h | with_reducible refine State.onKlc_keeps _ _ ?_
    | with_reducible refine State.recall_keeps _ _ ?_ | with_reducible refine State.linkIdle_keeps _ ?_
    | with_reducible refine State.ticketAccepted_keeps _ _ _ ?_
    | with_reducible refine State.recallAccepted_keeps _ _ _ ?_ | with_reducible refine State.softFault_keeps _ _ _ ?_
    | with_reducible refine State.mismatch_keeps _ _ ?_ | split)

theorem State.presentKlc_keeps {base : State} (s : State) (h : Keeps base s) : Keeps base (State.presentKlc s) := by
  simp only [State.presentKlc]
  repeat (first
    | with_reducible exact h | with_reducible refine State.present_keeps _ _ ?_ | split)

theorem State.finalDone_keeps {base : State} (s : State) (error : Bool)
    (h : Keeps base s) : Keeps base (State.finalDone s error) := by
  simp only [State.finalDone]
  repeat (first
    | with_reducible exact h | with_reducible refine State.onKlc_keeps _ _ ?_
    | with_reducible refine State.setFlags_keeps _ _ ?_ | split)

theorem State.kitchenClear_keeps {base : State} (s : State) (h : Keeps base s) : Keeps base (State.kitchenClear s) := by
  simp only [State.kitchenClear]
  repeat (first
    | with_reducible exact h | with_reducible refine State.onKlc_keeps _ _ ?_
    | with_reducible refine State.decideOrder_keeps _ _ _ ?_ | with_reducible refine State.recall_keeps _ _ ?_
    | with_reducible refine State.dispose_keeps _ _ _ ?_ | with_reducible refine State.assemble_keeps _ _ ?_
    | with_reducible refine State.linkIdle_keeps _ ?_ | split)

theorem State.restartKlc_keeps {base : State} (s : State) (h : Keeps base s) : Keeps base (State.restartKlc s) := by
  simp only [State.restartKlc]
  repeat (first
    | with_reducible exact h | with_reducible refine State.onKlc_keeps _ _ ?_
    | with_reducible refine State.linkIdle_keeps _ ?_ | split)

theorem State.onExchangeWith_keeps {base : State} (s : State) (r : Room) (f : Exchange → Exchange)
    (h : Keeps base s) : Keeps base (State.onExchangeWith s r f) := by
  unfold State.onExchangeWith
  dsimp only
  split
  · exact h
  · rename_i x hx
    split
    · refine State.setLoop_keeps _ _ _ (fun _ hi => ?_) h
      rw [hi.2] at hx
      cases hx
    · exact h

theorem State.setDirty_keeps {base : State} (s : State) (r : Room) (h : Keeps base s) : Keeps base (State.setDirty s r) := by
  simp only [State.setDirty]
  repeat (first
    | with_reducible exact h | with_reducible refine State.setPanel_keeps _ _ _ ?_
    | with_reducible refine State.onExchangeWith_keeps _ _ _ ?_ | split)

theorem State.chimeRequest_keeps {base : State} (s : State) (r : Room) (c : Chime)
    (h : Keeps base s) : Keeps base (State.chimeRequest s r c) := by
  simp only [State.chimeRequest]
  repeat (first
    | with_reducible exact h | with_reducible refine State.setPanel_keeps _ _ _ ?_
    | with_reducible refine State.onExchangeWith_keeps _ _ _ ?_ | with_reducible refine State.setDirty_keeps _ _ ?_
    | split)

/-- Outside SETUP a round may start. -/
theorem State.startRound_keeps {base : State} (s : State) (l : LoopNo) (hp : base.ctu.phase ≠ .setup) (h : Keeps base s) :
    Keeps base (State.startRound s l) := by
  simp only [State.startRound]
  split
  · exact h
  · exact State.setLoop_keeps _ _ _ (fun h0 => absurd h0 hp) h

theorem State.makeFast_keeps {base : State} (s : State) (l : LoopNo) (h : Keeps base s) :
    Keeps base (State.makeFast s l) := by
  unfold State.makeFast
  dsimp only
  exact State.setLoop_keeps _ _ _ (fun _ hi => hi) h

theorem State.endRound_keeps {base : State} (s : State) (l : LoopNo) (hp : base.ctu.phase ≠ .setup) (h : Keeps base s) :
    Keeps base (State.endRound s l) := by
  unfold State.endRound
  have h1 : ∀ v, Keeps base (s.setLoop l v) := fun v => State.setLoop_keeps _ _ _ (fun h0 => absurd h0 hp) h
  extract_lets lp v t
  split
  · exact State.startRound_keeps _ _ hp (h1 _)
  · exact h1 _

theorem State.loopMinute_keeps {base : State} (s : State) (l : LoopNo) (h : Keeps base s) :
    Keeps base (State.loopMinute s l) := by
  unfold State.loopMinute
  dsimp only
  have h1 : ∀ b, Keeps base (s.setLoop l { s.loop l with windowHeld := b }) :=
    fun b => State.setLoop_keeps _ _ _ (fun _ hi => hi) h
  split
  · exact h
  · split
    · exact State.makeFast_keeps _ _ (h1 _)
    · exact h1 _

theorem State.pluMinute_keeps {base : State} (s : State) (h : Keeps base s) : Keeps base (State.pluMinute s) := by
  simp only [State.pluMinute]
  repeat (first
    | with_reducible exact h | with_reducible refine State.loopMinute_keeps _ _ ?_
    | with_reducible refine foldl_keeps _ (fun _ _ h => ?_) _ _ ?_ | split)

theorem State.startLoop_keeps {base : State} (s : State) (l : LoopNo) (hp : base.ctu.phase ≠ .setup) (h : Keeps base s) :
    Keeps base (State.startLoop s l) :=
  State.startRound_keeps _ _ hp (State.setLoop_keeps _ _ _ (fun h0 => absurd h0 hp) h)

theorem State.startPanel_keeps {base : State} (s : State) (r : Room) (h : Keeps base s) :
    Keeps base (State.startPanel s r) := by
  simp only [State.startPanel]
  repeat (first
    | with_reducible exact h | with_reducible refine State.setPanel_keeps _ _ _ ?_ | split)

theorem State.startPlu_keeps {base : State} (s : State) (hp : base.ctu.phase ≠ .setup) (h : Keeps base s) :
    Keeps base (State.startPlu s) := by
  unfold State.startPlu
  refine foldl_keeps _ (fun _ _ h => State.startLoop_keeps _ _ hp h) _ _
    (foldl_keeps _ (fun _ _ h => State.startPanel_keeps _ _ h) _ _ ?_)
  exact
    { h with
      tidy := ⟨h.tidy.pool, h.tidy.schedules, h.tidy.slotMap, h.tidy.bindings, h.tidy.entries, rfl⟩
      noEvents := fun h0 => absurd h0 hp
      events := fun _ he => by cases he
      idle := fun h0 => absurd h0 hp }

theorem State.sendPoll_keeps {base : State} (s : State) (l : LoopNo) (h : Keeps base s) :
    Keeps base (State.sendPoll s l) := by
  unfold State.sendPoll
  dsimp only
  split
  · rename_i hr _ _
    refine State.setLoop_keeps _ _ _ (fun _ hi => ?_) h
    rw [hi.1] at hr
    cases hr
  · exact h

theorem State.exchangeStep_keeps {base : State} (s : State) (l : LoopNo) (before after : ExchangeStage)
    (h : Keeps base s) : Keeps base (State.exchangeStep s l before after) := by
  unfold State.exchangeStep
  dsimp only
  split
  · rename_i x hx
    split
    · refine State.setLoop_keeps _ _ _ (fun _ hi => ?_) h
      rw [hi.2] at hx
      cases hx
    · exact h
  · exact h

theorem State.endExchange_keeps {base : State} (s : State) (l : LoopNo) (h : Keeps base s) :
    Keeps base (State.endExchange s l) := State.setLoop_keeps _ _ _ (fun _ hi => ⟨hi.1, rfl⟩) h

theorem State.missExchange_keeps {base : State} (s : State) (l : LoopNo)
    (h : Keeps base s) : Keeps base (State.missExchange s l) := by
  simp only [State.missExchange]
  repeat (first
    | with_reducible exact h | with_reducible refine State.setPanel_keeps _ _ _ ?_
    | with_reducible refine State.endExchange_keeps _ _ ?_ | split)

theorem State.swapPositions_keeps {base : State} (s : State) (l : LoopNo) (a b : Nat) (h : Keeps base s) :
    Keeps base (State.swapPositions s l a b) := State.setLoop_keeps _ _ _ (fun _ hi => hi) h

theorem State.markUninitialised_keeps {base : State} (s : State) (r : Room)
    (h : Keeps base s) : Keeps base (State.markUninitialised s r) := by
  simp only [State.markUninitialised]
  repeat (first
    | with_reducible exact h | with_reducible refine State.setFilter_keeps _ _ _ ?_ | split)

theorem State.recompose_keeps {base : State} (s : State) (r : Room) (h : Keeps base s) :
    Keeps base (State.recompose s r) := by
  simp only [State.recompose]
  repeat (first
    | with_reducible exact h | with_reducible refine State.setRoomState_keeps _ _ _ ?_
    | with_reducible refine State.setDirty_keeps _ _ ?_ | split)

theorem State.recomposeAll_keeps {base : State} (s : State) (h : Keeps base s) : Keeps base (State.recomposeAll s) := by
  simp only [State.recomposeAll]
  repeat (first
    | with_reducible exact h | with_reducible refine State.recompose_keeps _ _ ?_
    | with_reducible refine foldl_keeps _ (fun _ _ h => ?_) _ _ ?_ | split)

/-- A change of marks of the bookings of a room keeps their law. -/
theorem State.mapBookings_keeps {base : State} (s : State) (r : Room) (f : PoolEntry → PoolEntry)
    (hf : ∀ e, (f e).shape = e.shape) (h : Keeps base s) : Keeps base (State.mapBookings s r f) := by
  have ht : Keeps s s := Keeps.refl h.tidy
  have hm : ∀ b ∈ s.bookingsToday r, s.entry b.1 = some b.2 := by
    intro b hb
    unfold State.bookingsToday State.bookings at hb
    rw [List.mem_filterMap] at hb
    obtain ⟨i, _, hi⟩ := hb
    cases he : s.entry i with
    | none => rw [he] at hi; simp at hi
    | some e => rw [he] at hi; simp only [Option.map_some, Option.some.injEq] at hi; rw [← hi]; exact he
  refine h.trans ?_
  unfold State.mapBookings
  generalize s.bookingsToday r = l at hm
  have key : ∀ (l : List (Nat × PoolEntry)) (u : State), (∀ b ∈ l, s.entry b.1 = some b.2) → Keeps s u →
      Keeps s (l.foldl (fun s b => s.setEntry b.1 (some (f b.2))) u) := by
    intro l
    induction l with
    | nil => intro u _ hu; exact hu
    | cons b l ih =>
      intro u hl hu
      refine ih _ (fun c hc => hl c (List.mem_cons_of_mem _ hc)) (State.setEntry_keeps _ _ _ ?_ hu)
      rw [hu.shape, hl b (List.mem_cons_self ..), Option.map_some, hf]
  exact key l s hm ht

theorem State.applyReport_keeps {base : State} (r : Room) (s : State) (t : Stamp) (h : Keeps base s) :
    Keeps base (State.applyReport r s t) := by
  unfold State.applyReport
  refine State.mapBookings_keeps _ _ _ (fun e => ?_) (State.setRoomState_keeps _ _ _ h)
  split <;> rfl

theorem State.holdReport_keeps {base : State} (s : State) (r : Room) (t : Stamp)
    (h : Keeps base s) : Keeps base (State.holdReport s r t) := by
  simp only [State.holdReport]
  repeat (first
    | with_reducible exact h | with_reducible refine State.onAtu_keeps _ _ rfl rfl ?_ | split)

theorem State.applyReports_keeps {base : State} (s : State) (r : Room) (h : Keeps base s) :
    Keeps base (State.applyReports s r) := by
  simp only [State.applyReports]
  repeat (first
    | with_reducible exact h | with_reducible refine State.onAtu_keeps _ _ rfl rfl ?_
    | with_reducible refine State.applyReport_keeps _ _ _ ?_
    | with_reducible refine foldl_keeps _ (fun _ _ h => ?_) _ _ ?_ | split)

theorem State.holdReturn_keeps {base : State} (s : State) (r : Room) (t : Stamp)
    (h : Keeps base s) : Keeps base (State.holdReturn s r t) := by
  simp only [State.holdReturn]
  repeat (first
    | with_reducible exact h | with_reducible refine State.onAtu_keeps _ _ rfl rfl ?_ | split)

theorem State.applyReturned_keeps {base : State} (r : Room) (s : State) (t : Stamp) (h : Keeps base s) :
    Keeps base (State.applyReturned r s t) := by
  unfold State.applyReturned
  refine State.setFilter_keeps _ _ _ (State.mapBookings_keeps _ _ _ (fun e => ?_) h)
  split <;> rfl

theorem State.applyReturn_keeps {base : State} (s : State) (r : Room) (h : Keeps base s) :
    Keeps base (State.applyReturn s r) := by
  simp only [State.applyReturn]
  repeat (first
    | with_reducible exact h | with_reducible refine State.onAtu_keeps _ _ rfl rfl ?_
    | with_reducible refine State.applyReturned_keeps _ _ _ ?_
    | with_reducible refine foldl_keeps _ (fun _ _ h => ?_) _ _ ?_ | split)

/-- Outside SETUP the walk may go on. -/
theorem State.walkOn_keeps {base : State} (s : State) (hp : base.ctu.phase ≠ .setup) (h : Keeps base s) :
    Keeps base (State.walkOn s) := by
  simp only [State.walkOn]
  split
  · exact h
  · split
    · exact State.onAtu_keeps_claim _ _ rfl hp h
    · exact State.onAtu_keeps_less _ _ (.inr rfl) (.inl rfl) h

theorem State.clearRefusals_keeps {base : State} (s : State) (h : Keeps base s) : Keeps base (State.clearRefusals s) := by
  simp only [State.clearRefusals]
  repeat (first
    | with_reducible exact h | with_reducible refine State.setRoomState_keeps _ _ _ ?_
    | with_reducible refine foldl_keeps _ (fun _ _ h => ?_) _ _ ?_ | split)

theorem State.sweepRoom_keeps {base : State} (s : State) (r : Room) (h : Keeps base s) :
    Keeps base (State.sweepRoom s r) := by
  simp only [State.sweepRoom]
  split
  · exact h
  · refine State.mapBookings_keeps _ _ _ (fun e => ?_) h
    split <;> rfl

theorem State.warnRoom_keeps {base : State} (now : Nat) (s : State) (r : Room)
    (h : Keeps base s) : Keeps base (State.warnRoom now s r) := by
  simp only [State.warnRoom]
  repeat (first
    | with_reducible exact h | with_reducible refine State.chimeRequest_keeps _ _ _ ?_ | split)

theorem State.workExpiry_keeps {base : State} (s : State) (t : Nat) (h : Keeps base s) :
    Keeps base (State.workExpiry s t) := by
  unfold State.workExpiry
  have h1 := State.recomposeAll_keeps _ (foldl_keeps (State.warnRoom t) (fun _ _ h => State.warnRoom_keeps t _ _ h) rooms _
    (foldl_keeps State.sweepRoom (fun _ _ h => State.sweepRoom_keeps _ _ h) rooms _ (State.clearRefusals_keeps s h)))
  extract_lets u v w x
  have h2 : Keeps base x := h1
  clear_value x
  exact State.onAtu_keeps_less _ _ (.inr rfl) (.inl rfl) h2

theorem State.workExpiries_keeps {base : State} (s : State) (hp : base.ctu.phase ≠ .setup) (h : Keeps base s) :
    Keeps base (State.workExpiries s) := by
  simp only [State.workExpiries]
  repeat (first
    | with_reducible exact h | with_reducible refine State.onAtu_keeps _ _ rfl rfl ?_
    | with_reducible refine State.walkOn_keeps _ hp ?_ | with_reducible refine State.workExpiry_keeps _ _ ?_
    | with_reducible refine foldl_keeps _ (fun _ _ h => ?_) _ _ ?_ | split)

theorem State.atuMinute_keeps {base : State} (s : State) (hp : base.ctu.phase ≠ .setup) (h : Keeps base s) :
    Keeps base (State.atuMinute s) := by
  simp only [State.atuMinute]
  repeat (first
    | with_reducible exact h | with_reducible refine State.onAtu_keeps _ _ rfl rfl ?_
    | with_reducible refine State.workExpiries_keeps _ hp ?_ | split)

theorem State.workWindows_keeps {base : State} (s : State) (h : Keeps base s) : Keeps base (State.workWindows s) := by
  simp only [State.workWindows]
  repeat (first
    | with_reducible exact h | with_reducible refine State.onPlu_keeps _ _ rfl rfl ?_
    | with_reducible refine State.pluMinute_keeps _ ?_ | split)

theorem State.startAtu_keeps {base : State} (s : State) (h : Keeps base s) : Keeps base (State.startAtu s) :=
  State.recomposeAll_keeps _ (State.onAtu_keeps_less s (fun _ => {}) (.inl rfl) (.inl rfl) h)

/-- A draft notice leaves the LIVE entries (R45). -/
theorem State.applyDraft_keeps {base : State} (s : State) (k : Nat) (h : Keeps base s) :
    Keeps base (s.onAdu fun a => a.applyDraft k) :=
  { h with
    tidy := ⟨h.tidy.pool, h.tidy.schedules, Table.wf_set _ _ _ _ h.tidy.slotMap, h.tidy.bindings, h.tidy.entries, h.tidy.loops⟩
    live := fun q i => by
      rw [← h.live q i]
      have hw := h.tidy.slotMap
      show Table.get .free (Table.set .free s.adu.slotMap k _) q.key = _ ↔ Table.get .free s.adu.slotMap q.key = _
      rw [Table.get_set _ _ _ _ _ hw]
      split
      · rename_i hq
        rw [hq]
        unfold draftSlot
        split <;> simp_all
      · exact Iff.rfl }

theorem State.applyDrafts_keeps {base : State} (s : State) (h : Keeps base s) : Keeps base (State.applyDrafts s) := by
  have key : ∀ (l : List Nat) (u : State), Keeps base u → Keeps base (u.onAdu fun a => l.foldl Adu.applyDraft a) := by
    intro l
    induction l with
    | nil => intro u hu; exact hu
    | cons k l ih => intro u hu; exact ih _ (State.applyDraft_keeps u k hu)
  exact key _ s h

theorem State.applyNotices_keeps {base : State} (s : State) (h : Keeps base s) : Keeps base (State.applyNotices s) := by
  simp only [State.applyNotices]
  repeat (first
    | with_reducible exact h | with_reducible refine State.applyReports_keeps _ _ ?_
    | with_reducible refine State.applyReturn_keeps _ _ ?_ | with_reducible refine State.applyDrafts_keeps _ ?_
    | with_reducible refine foldl_keeps _ (fun _ _ h => ?_) _ _ ?_)

theorem State.noticesBetweenClaims_keeps {base : State} (s : State) (h : Keeps base s) :
    Keeps base (State.noticesBetweenClaims s) := by
  unfold State.noticesBetweenClaims
  split
  · exact State.applyNotices_keeps _ h
  · exact h

theorem State.take_keeps {base : State} (s : State) (c : ClaimSource) (h : Keeps base s) : Keeps base (State.take s c) := by
  have hn := State.applyNotices_keeps s h
  unfold State.take
  generalize s.applyNotices = u at hn
  have h1 : ∀ b, Keeps base (u.onBsc fun x => { x with presented := b }) := fun b => State.onBsc_keeps _ _ rfl rfl hn
  cases c <;> dsimp only
  · exact h1 _
  · exact State.onAtu_keeps_less _ _ (.inr rfl) (.inl rfl) (State.onBsc_keeps _ _ rfl rfl hn)
  · have h2 := State.onBsc_keeps u (fun b => { b with presented := decide (b.pass ≠ PassKind.none) }) rfl rfl hn
    exact
      { h2 with
        tidy := ⟨h2.tidy.pool, h2.tidy.schedules, h2.tidy.slotMap, h2.tidy.bindings, h2.tidy.entries, h2.tidy.loops⟩
        request := fun _ _ => rfl }
  · exact State.onAtu_keeps _ _ rfl rfl (State.onBsc_keeps _ _ rfl rfl hn)

/-- A claim ends: all that follows keeps the bookings (R59). -/
theorem State.endClaim_keeps {base : State} (s : State) (hp : base.ctu.phase ≠ .setup)
    (h : Keeps base (s.onAdu fun a => { a with claim := none })) : Keeps base (State.endClaim s) := by
  unfold State.endClaim
  have h1 := State.workExpiries_keeps _ hp (State.workWindows_keeps _ (State.applyNotices_keeps _ h))
  dsimp only
  split
  · exact State.walkOn_keeps _ hp h1
  · exact h1

theorem State.presentTail_keeps {base : State} (s : State) (h : Keeps base s) : Keeps base (State.presentTail s) := by
  simp only [State.presentTail]
  repeat (first
    | with_reducible exact h | with_reducible refine State.present_keeps _ _ ?_ | split)

theorem State.presentClaim_keeps {base : State} (s : State) (h : Keeps base s) : Keeps base (State.presentClaim s) := by
  simp only [State.presentClaim]
  repeat (first
    | with_reducible exact h | with_reducible refine State.present_keeps _ _ ?_ | split)

theorem State.leaveTail_keeps {base : State} (s : State) (todo : List WordWrite) (k : TailKind)
    (h : Keeps base s) : Keeps base (State.leaveTail s todo k) := by
  simp only [State.leaveTail]
  repeat (first
    | with_reducible exact h | with_reducible refine State.onAdu_keeps _ _ rfl rfl rfl rfl rfl rfl rfl ?_ | split)

theorem State.tailDone_keeps {base : State} (s : State) (error : Bool) (h : Keeps base s) :
    Keeps base (State.tailDone s error) := by
  simp only [State.tailDone]
  repeat (first
    | with_reducible exact h | with_reducible refine State.onAdu_keeps _ _ rfl rfl rfl rfl rfl rfl rfl ?_
    | with_reducible refine State.setFlags_keeps _ _ ?_ | split)

theorem State.recomposeToday_keeps {base : State} (s : State) (b : Book) (r : Room)
    (h : Keeps base s) : Keeps base (State.recomposeToday s b r) := by
  simp only [State.recomposeToday]
  repeat (first
    | with_reducible exact h | with_reducible refine State.recompose_keeps _ _ ?_ | split)

theorem State.answerPanel_keeps {base : State} (s : State) (r : Room) (confirmed : Bool)
    (h : Keeps base s) : Keeps base (State.answerPanel s r confirmed) := by
  unfold State.answerPanel
  have h1 := fun c => State.chimeRequest_keeps _ r c
    (State.onAtu_keeps_less s (fun a => { a with panelEvent := none, panelTaken := false }) (.inl rfl) (.inr rfl) h)
  refine State.recompose_keeps _ _ ?_
  cases confirmed
  · exact State.setRoomState_keeps _ _ _ (h1 _)
  · exact h1 _

theorem presentAll_keeps {base : State} (s : State) (h : Keeps base s) : Keeps base (presentAll s) := by
  unfold presentAll
  exact State.presentClaim_keeps _ (State.presentTail_keeps _ (State.presentKlc_keeps _ (State.presentCqu_keeps _
    (State.lookForWork_keeps _ h))))

theorem settle_keeps {base : State} (s : State) (h : Keeps base s) : Keeps base (settle s) :=
  State.arbitrate_keeps _ (presentAll_keeps s h)

theorem State.release_keeps {base : State} (s : State) (h : Keeps base s) : Keeps base (State.release s) := by
  simp only [State.release]
  repeat (first
    | with_reducible exact h | with_reducible refine State.present_keeps _ _ ?_
    | with_reducible refine State.arbitrate_keeps _ ?_ | with_reducible refine State.presentTail_keeps _ ?_ | split)

theorem State.drop_keeps {base : State} (s : State) (h : Keeps base s) : Keeps base (State.drop s) :=
  State.onMps_keeps _ _ h

theorem State.commitRefusal_keeps {base : State} (s : State) (at_ : SlotRef) (r : Reason)
    (h : Keeps base s) : Keeps base (State.commitRefusal s at_ r) := by
  unfold State.commitRefusal
  split
  · rename_i i e hi he
    refine State.setEntry_keeps _ _ _ ?_ h
    unfold State.liveEntry at he
    rw [hi] at he
    dsimp only at he
    rw [he]
    rfl
  · exact h

theorem State.reportTraps_keeps {base : State} (s : State) (a : Admission) (j : Judged) (interval : Nat × Nat)
    (h : Keeps base s) : Keeps base (State.reportTraps s a j interval) := by
  simp only [State.reportTraps]
  repeat (first
    | with_reducible exact h | with_reducible refine State.setFlags_keeps _ _ ?_
    | with_reducible refine State.presentTrap_keeps _ _ ?_ | split)

theorem State.presentLast_keeps {base : State} (s : State) (rest : List WordWrite) (h : Keeps base s) :
    Keeps base (State.presentLast s rest) := by
  unfold State.presentLast
  exact State.arbitrate_keeps _ (State.presentTail_keeps _ (State.leaveTail_keeps _ _ _ h))

theorem State.minuteReaches_keeps {base : State} (s : State) (hp : base.ctu.phase ≠ .setup) (h : Keeps base s) :
    Keeps base (State.minuteReaches s) := by
  simp only [State.minuteReaches]
  repeat (first
    | with_reducible exact h | with_reducible refine State.noticesBetweenClaims_keeps _ ?_
    | with_reducible refine State.onPlu_keeps _ _ rfl rfl ?_
    | with_reducible refine State.cateringMinute_keeps _ ?_ | with_reducible refine State.atuMinute_keeps _ hp ?_
    | with_reducible refine State.workWindows_keeps _ ?_ | split)

theorem State.handOver_keeps {base : State} (s : State) (o : OrderIx) (fate : Fate) (st : Option OrderState) (resend : Bool)
    (e : OrderEntry) (h : Keeps base s) : Keeps base (s.handOver o fate st resend e).1 := by
  unfold State.handOver
  dsimp only
  split
  · exact h
  · rcases fate with _ | _ | _ <;> rcases st with _ | (_ | _ | _ | _ | _ | _ | _ | _ | _ | _) <;>
      (try dsimp only) <;> (try split) <;>
      first
        | with_reducible exact h
        | with_reducible exact State.queueOrder_keeps _ _ _ h
        | with_reducible exact State.decideOrder_keeps _ _ _ h
        | with_reducible exact State.recallOrder_keeps _ _ _ _ h
        | with_reducible exact State.enqueue_keeps _ _ (State.decideOrder_keeps _ _ _ h)

theorem State.keepHandOver_keeps {base : State} (s : State) (r : SlotRef) (t : Taken) (k : KeepReads) (j : KeepJudgement)
    (h : Keeps base s) : Keeps base (s.keepHandOver r t k j).1 := by
  unfold State.keepHandOver
  split
  · exact h
  · dsimp only
    split
    · exact h
    · exact State.handOver_keeps _ _ _ _ _ _ h

theorem State.draftNotice_keeps {base : State} (s : State) (r : SlotRef) (h : Keeps base s) :
    Keeps base (State.draftNotice s r) := by
  unfold State.draftNotice
  split
  · exact State.applyDraft_keeps s _ h
  · exact h

theorem State.linkGood_keeps {base : State} (s : State) (r : Room) (h : Keeps base s) : Keeps base (State.linkGood s r) := by
  simp only [State.linkGood]
  repeat (first
    | with_reducible exact h | with_reducible refine State.setPanel_keeps _ _ _ ?_
    | with_reducible refine State.setDirty_keeps _ _ ?_ | with_reducible refine State.markUninitialised_keeps _ _ ?_
    | with_reducible refine State.holdReturn_keeps _ _ _ ?_ | split)

theorem State.settleMarks_keeps {base : State} (s : State) (l : LoopNo) (r : Room)
    (h : Keeps base s) : Keeps base (State.settleMarks s l r) := by
  simp only [State.settleMarks]
  repeat (first
    | with_reducible exact h | with_reducible refine State.setPanel_keeps _ _ _ ?_ | split)

theorem State.takeSample_keeps {base : State} (s : State) (r : Room) (count : Nat)
    (h : Keeps base s) : Keeps base (State.takeSample s r count) := by
  simp only [State.takeSample]
  repeat (first
    | with_reducible exact h | with_reducible refine State.setFilter_keeps _ _ _ ?_
    | with_reducible refine State.present_keeps _ _ ?_ | with_reducible refine State.makeFast_keeps _ _ ?_
    | with_reducible refine State.holdReport_keeps _ _ _ ?_ | split)

theorem State.handCount_keeps {base : State} (s : State) (r : Room) (page : Bool) (count : Nat)
    (h : Keeps base s) : Keeps base (State.handCount s r page count) := by
  simp only [State.handCount]
  repeat (first
    | with_reducible exact h | with_reducible refine State.takeSample_keeps _ _ _ ?_ | split)

/-- A button event joins the queue outside SETUP (R117). -/
theorem State.buttonEvent_keeps {base : State} (s : State) (l : LoopNo) (r : Room) (b : Button) (arg : Nat) (tag : BitVec 3)
    (hp : base.ctu.phase ≠ .setup) (hb : b = .booknow → 1 ≤ arg ∧ arg ≤ 4) (h : Keeps base s) :
    Keeps base (State.buttonEvent s l r b arg tag) := by
  unfold State.buttonEvent
  dsimp only
  split
  · exact h
  · split
    · exact State.setPanel_keeps _ _ _ h
    · split
      · refine State.makeFast_keeps _ _ (State.setPanel_keeps _ _ _ ?_)
        exact
          { h with
            tidy := ⟨h.tidy.pool, h.tidy.schedules, h.tidy.slotMap, h.tidy.bindings, h.tidy.entries, h.tidy.loops⟩
            noEvents := fun h0 => absurd h0 hp
            events := fun ev he => by
              rcases List.mem_append.1 he with he | he
              · exact h.events ev he
              · rw [List.mem_singleton] at he
                rw [he]
                exact .inr hb }
      · exact State.makeFast_keeps _ _ h

theorem State.goodReply_keeps {base : State} (s : State) (l : LoopNo) (x : Exchange) (bs : List Byte)
    (hp : base.ctu.phase ≠ .setup) (h : Keeps base s) : Keeps base (State.goodReply s l x bs) := by
  unfold State.goodReply
  have h1 := State.handCount_keeps _ x.listed.room x.page (replyCount bs)
    (State.settleMarks_keeps _ l x.listed.room (State.linkGood_keeps _ x.listed.room h))
  dsimp only
  split
  · exact h1
  · rename_i b arg hb
    refine State.buttonEvent_keeps _ _ _ _ _ _ hp (fun h0 => ?_) h1
    subst h0
    unfold replyButton at hb
    dsimp only at hb
    split at hb
    · simp at hb
    · simp at hb
    · simp at hb
    · split at hb
      · rename_i h4
        simp only [Option.some.injEq, Prod.mk.injEq, true_and] at hb
        rw [← hb]
        exact h4
      · simp at hb
    · simp at hb

theorem State.reply_keeps {base : State} (s : State) (l : LoopNo) (bs : List Byte)
    (hp : base.ctu.phase ≠ .setup) (h : Keeps base s) : Keeps base (State.reply s l bs) := by
  unfold State.reply
  split
  · exact h
  · split
    · exact h
    · split
      · exact State.endExchange_keeps _ _ (State.goodReply_keeps _ _ _ _ hp h)
      · exact State.missExchange_keeps _ _ h

theorem State.endOfReset_keeps {base : State} (s : State) (h : Keeps base s) : Keeps base (State.endOfReset s) := by
  unfold State.endOfReset
  split
  · exact Keeps.of_same h rfl rfl rfl rfl rfl rfl rfl rfl rfl rfl rfl rfl rfl rfl rfl rfl
  · exact h

theorem State.setCommand_keeps {base : State} (s : State) (w : Word) (st : CommandStatus) (r : CommandReason)
    (h : Keeps base s) : Keeps base (State.setCommand s w st r) := by
  simp only [State.setCommand]
  repeat (first
    | with_reducible exact h | with_reducible refine State.onCtu_keeps _ _ rfl ?_ | split)

theorem State.rebase_keeps {base : State} (s : State) (w : Word) (h : Keeps base s) : Keeps base (State.rebase s w) := by
  simp only [State.rebase]
  repeat (first
    | with_reducible exact h | with_reducible refine State.markUninitialised_keeps _ _ ?_
    | with_reducible refine foldl_keeps _ (fun _ _ h => ?_) _ _ ?_ | split)

theorem State.trapTaken_keeps {base : State} (s : State) (h : Keeps base s) : Keeps base (State.trapTaken s) := by
  simp only [State.trapTaken]
  repeat (first
    | with_reducible exact h | with_reducible refine State.onCtu_keeps _ _ rfl ?_ | split)

theorem State.clearCauses_keeps {base : State} (s : State) (w : Word) (h : Keeps base s) :
    Keeps base (State.clearCauses s w) := by
  simp only [State.clearCauses]
  repeat (first
    | with_reducible exact h | with_reducible refine State.onCtu_keeps _ _ rfl ?_ | split)

theorem State.frameSent_keeps {base : State} (s : State) (h : Keeps base s) : Keeps base (State.frameSent s) := by
  simp only [State.frameSent]
  repeat (first
    | with_reducible exact h | with_reducible refine State.onKlc_keeps _ _ ?_ | split)

theorem State.kitchenAnswer_keeps {base : State} (s : State) (sync station orderNumber ticketIndex verdict checksum : Word)
    (h : Keeps base s) : Keeps base (State.kitchenAnswer s sync station orderNumber ticketIndex verdict checksum) := by
  simp only [State.kitchenAnswer]
  repeat (first
    | with_reducible exact h | with_reducible refine State.validAnswer_keeps _ _ _ _ _ ?_ | split)

theorem State.frameResend_keeps {base : State} (s : State) (h : Keeps base s) : Keeps base (State.frameResend s) := by
  simp only [State.frameResend]
  repeat (first
    | with_reducible exact h | with_reducible refine State.onKlc_keeps _ _ ?_ | split)

theorem State.answerWaitExpiry_keeps {base : State} (s : State) (h : Keeps base s) :
    Keeps base (State.answerWaitExpiry s) := by
  simp only [State.answerWaitExpiry]
  repeat (first
    | with_reducible exact h | with_reducible refine State.onKlc_keeps _ _ ?_
    | with_reducible refine State.linkIdle_keeps _ ?_ | with_reducible refine State.haltLink_keeps _ _ ?_ | split)

theorem State.nextFrameGapEnd_keeps {base : State} (s : State) (h : Keeps base s) : Keeps base (State.nextFrameGapEnd s) := by
  simp only [State.nextFrameGapEnd]
  repeat (first
    | with_reducible exact h | with_reducible refine State.onKlc_keeps _ _ ?_ | split)

theorem State.toMemory_keeps {base : State} (s : State) (a : HostAccess) (h : Keeps base s) :
    Keeps base (State.toMemory s a) := by
  simp only [State.toMemory]
  repeat (first
    | with_reducible exact h | with_reducible refine State.onMps_keeps _ _ ?_
    | with_reducible refine State.present_keeps _ _ ?_ | split)

theorem State.completeHost_keeps {base : State} (s : State) (data : Option Word) (error : Bool)
    (h : Keeps base s) : Keeps base (State.completeHost s data error) := by
  simp only [State.completeHost]
  repeat (first
    | with_reducible exact h | with_reducible refine State.onMps_keeps _ _ ?_ | split)

theorem State.withholdWrite_keeps {base : State} (s : State) (h : Keeps base s) : Keeps base (State.withholdWrite s) := by
  simp only [State.withholdWrite]
  repeat (first
    | with_reducible exact h | with_reducible refine State.setFlags_keeps _ _ ?_
    | with_reducible refine State.completeHost_keeps _ _ _ ?_ | split)

theorem State.readControl_keeps {base : State} (s : State) (n : Nat) (lanes : Lanes)
    (h : Keeps base s) : Keeps base (State.readControl s n lanes) := by
  simp only [State.readControl]
  repeat (first
    | with_reducible exact h | with_reducible refine State.onCtu_keeps _ _ rfl ?_
    | with_reducible refine State.completeHost_keeps _ _ _ ?_ | split)

theorem State.noteDraft_keeps {base : State} (s : State) (r : SlotRef) (h : Keeps base s) :
    Keeps base (State.noteDraft s r) := by
  simp only [State.noteDraft]
  repeat (first
    | with_reducible exact h | with_reducible refine State.onAdu_keeps _ _ rfl rfl rfl rfl rfl rfl rfl ?_ | split)

/-- A request claim comes outside SETUP (R62). -/
theorem State.holdRequest_keeps {base : State} (s : State) (r : SlotRef) (a : HostAccess) (hp : base.ctu.phase ≠ .setup)
    (h : Keeps base s) : Keeps base (State.holdRequest s r a) :=
  { h with
    tidy := ⟨h.tidy.pool, h.tidy.schedules, h.tidy.slotMap, h.tidy.bindings, h.tidy.entries, h.tidy.loops⟩
    request := fun h0 => absurd h0 hp }

theorem State.writeOrder_keeps {base : State} (s : State) (o : OrderIx) (n : Nat) (a : HostAccess)
    (h : Keeps base s) : Keeps base (State.writeOrder s o n a) := by
  simp only [State.writeOrder]
  repeat (first
    | with_reducible exact h | with_reducible refine State.toMemory_keeps _ _ ?_
    | with_reducible refine State.withholdWrite_keeps _ ?_ | split)

theorem State.captureLine_keeps {base : State} (s : State) (r : Room) (n : Nat) (data : Word) (lanes : Lanes)
    (h : Keeps base s) : Keeps base (State.captureLine s r n data lanes) := by
  simp only [State.captureLine]
  repeat (first
    | with_reducible exact h | with_reducible refine State.setPanel_keeps _ _ _ ?_
    | with_reducible refine State.setDirty_keeps _ _ ?_ | split)

theorem State.writePage_keeps {base : State} (s : State) (r : Room) (n : Nat) (a : HostAccess)
    (h : Keeps base s) : Keeps base (State.writePage s r n a) := by
  simp only [State.writePage]
  repeat (first
    | with_reducible exact h | with_reducible refine State.toMemory_keeps _ _ ?_
    | with_reducible refine State.captureLine_keeps _ _ _ _ _ ?_ | split)

theorem State.captureDirectory_keeps {base : State} (s : State) (r : Room) (n : Nat) (data : Word) (lanes : Lanes)
    (h : Keeps base s) : Keeps base (State.captureDirectory s r n data lanes) := by
  simp only [State.captureDirectory]
  repeat (first
    | with_reducible exact h | with_reducible refine State.onCtu_keeps _ _ rfl ?_ | split)

theorem State.hostRead_keeps {base : State} (s : State) (a : HostAccess) (h : Keeps base s) :
    Keeps base (State.hostRead s a) := by
  simp only [State.hostRead]
  repeat (first
    | with_reducible exact h | with_reducible refine State.toMemory_keeps _ _ ?_
    | with_reducible refine State.completeHost_keeps _ _ _ ?_ | with_reducible refine State.readControl_keeps _ _ _ ?_
    | split)

end Sys2Proof.Machine
end

