-- ==== Sys2Proof/Laws/Mode.lean ====
section
/-! SUPPORT. Every operation keeps phase, pass, windows and clock in agreement (`ModeAgrees`). One lemma per operation. -/

namespace Sys2Proof.Machine

/-- Phase, running START, pass and windows agree, and the clock is in range. -/
def ModeAgrees (s : State) : Prop := PhaseAgrees s ∧ ClockInRange s.clock

/-- The agreement rests on these fields alone. -/
theorem ModeAgrees.of_eq {s t : State} (h1 : t.mps.windows = s.mps.windows) (h2 : t.ctu.phase = s.ctu.phase)
    (h3 : t.ctu.runningStart = s.ctu.runningStart) (h4 : t.bsc.pass = s.bsc.pass)
    (h5 : t.clock.second = s.clock.second) (h6 : t.clock.minute = s.clock.minute) (h7 : t.clock.day = s.clock.day)
    (h : ModeAgrees s) : ModeAgrees t := by
  unfold ModeAgrees PhaseAgrees ClockInRange at h ⊢
  rw [h1, h2, h3, h4, h5, h6, h7]
  exact h

/-- A fold of operations that keep the agreement keeps it. -/
theorem foldl_mode {β : Type} (f : State → β → State) (hf : ∀ s b, ModeAgrees s → ModeAgrees (f s b)) (l : List β)
    (s : State) (h : ModeAgrees s) : ModeAgrees (l.foldl f s) := by
  induction l generalizing s with
  | nil => exact h
  | cons b l ih => exact ih _ (hf s b h)

theorem State.onMps_mode (s : State) (f : Mps → Mps) (h1 : (f s.mps).windows = s.mps.windows) (h : ModeAgrees s) :
    ModeAgrees (s.onMps f) := ModeAgrees.of_eq h1 rfl rfl rfl rfl rfl rfl h

theorem State.onCtu_mode (s : State) (f : Ctu → Ctu) (h1 : (f s.ctu).phase = s.ctu.phase)
    (h2 : (f s.ctu).runningStart = s.ctu.runningStart) (h : ModeAgrees s) : ModeAgrees (s.onCtu f) :=
  ModeAgrees.of_eq (s := s) (t := s.onCtu f) rfl h1 h2 rfl rfl rfl rfl h

theorem State.onClock_mode (s : State) (f : Clock → Clock) (h1 : (f s.clock).second = s.clock.second)
    (h2 : (f s.clock).minute = s.clock.minute) (h3 : (f s.clock).day = s.clock.day) (h : ModeAgrees s) :
    ModeAgrees (s.onClock f) :=
  ModeAgrees.of_eq (s := s) (t := s.onClock f) rfl rfl rfl rfl h1 h2 h3 h

theorem State.onBsc_mode (s : State) (f : Bsc → Bsc) (h1 : (f s.bsc).pass = s.bsc.pass) (h : ModeAgrees s) :
    ModeAgrees (s.onBsc f) :=
  ModeAgrees.of_eq (s := s) (t := s.onBsc f) rfl rfl rfl h1 rfl rfl rfl h

/-- The clock moves to values in range. -/
theorem State.onClock_mode_in (s : State) (f : Clock → Clock) (hc : ClockInRange (f s.clock)) (h : ModeAgrees s) :
    ModeAgrees (s.onClock f) := ⟨h.1, hc⟩

/-- Arbitration leaves the windows. -/
theorem State.arbitrate_mode (s : State) (h : ModeAgrees s) : ModeAgrees (s.onMps Mps.arbitrate) := by
  refine State.onMps_mode _ _ ?_ h
  unfold Mps.arbitrate
  split
  · rfl
  · split <;> rfl

theorem State.onAdu_mode (s : State) (f : Adu → Adu) (h : ModeAgrees s) : ModeAgrees (s.onAdu f) := h
theorem State.onPlu_mode (s : State) (f : Plu → Plu) (h : ModeAgrees s) : ModeAgrees (s.onPlu f) := h
theorem State.onOcf_mode (s : State) (f : Ocf → Ocf) (h : ModeAgrees s) : ModeAgrees (s.onOcf f) := h
theorem State.onAtu_mode (s : State) (f : Atu → Atu) (h : ModeAgrees s) : ModeAgrees (s.onAtu f) := h
theorem State.onCqu_mode (s : State) (f : Cqu → Cqu) (h : ModeAgrees s) : ModeAgrees (s.onCqu f) := h
theorem State.onKlc_mode (s : State) (f : Klc → Klc) (h : ModeAgrees s) : ModeAgrees (s.onKlc f) := h

theorem State.setSlot_mode (s : State) (r : SlotRef) (v : SlotState)
    (h : ModeAgrees s) : ModeAgrees (State.setSlot s r v) := by
  simp only [State.setSlot]
  repeat (first
    | with_reducible exact h | with_reducible refine State.onAdu_mode _ _ ?_ | split)

theorem State.setEntry_mode (s : State) (i : Nat) (e : Option PoolEntry)
    (h : ModeAgrees s) : ModeAgrees (State.setEntry s i e) := by
  simp only [State.setEntry]
  repeat (first
    | with_reducible exact h | with_reducible refine State.onAdu_mode _ _ ?_ | split)

theorem State.setSchedule_mode (s : State) (b : Book) (r : Room) (l : List Nat)
    (h : ModeAgrees s) : ModeAgrees (State.setSchedule s b r l) := by
  simp only [State.setSchedule]
  repeat (first
    | with_reducible exact h | with_reducible refine State.onAdu_mode _ _ ?_ | split)

theorem State.setBinding_mode (s : State) (o : OrderIx) (v : Option Nat)
    (h : ModeAgrees s) : ModeAgrees (State.setBinding s o v) := by
  simp only [State.setBinding]
  repeat (first
    | with_reducible exact h | with_reducible refine State.onAdu_mode _ _ ?_ | split)

theorem State.unbind_mode (s : State) (x : Option OrderIx) (h : ModeAgrees s) : ModeAgrees (State.unbind s x) := by
  cases x <;> simp only [State.unbind] <;> exact h

theorem State.bind_mode (s : State) (i : Nat) (x : Option OrderIx)
    (h : ModeAgrees s) : ModeAgrees (State.bind s i x) := by
  cases x <;> simp only [State.bind] <;> exact h

theorem State.takeEntry_mode (s : State) (e : PoolEntry) (h : ModeAgrees s) : ModeAgrees (State.takeEntry s e) := by
  simp only [State.takeEntry]
  repeat (first
    | with_reducible exact h | with_reducible refine State.onAdu_mode _ _ ?_
    | with_reducible refine State.setSlot_mode _ _ _ ?_ | with_reducible refine State.setEntry_mode _ _ _ ?_
    | with_reducible refine State.setSchedule_mode _ _ _ _ ?_ | with_reducible refine State.bind_mode _ _ _ ?_
    | split)

theorem State.freeEntry_mode (s : State) (i : Nat) (h : ModeAgrees s) : ModeAgrees (State.freeEntry s i) := by
  simp only [State.freeEntry]
  repeat (first
    | with_reducible exact h | with_reducible refine State.onAdu_mode _ _ ?_
    | with_reducible refine State.setSlot_mode _ _ _ ?_ | with_reducible refine State.setEntry_mode _ _ _ ?_
    | with_reducible refine State.setSchedule_mode _ _ _ _ ?_ | with_reducible refine State.unbind_mode _ _ ?_
    | split)

theorem State.changeEntry_mode (s : State) (i : Nat) (e : PoolEntry)
    (h : ModeAgrees s) : ModeAgrees (State.changeEntry s i e) := by
  simp only [State.changeEntry]
  repeat (first
    | with_reducible exact h | with_reducible refine State.setEntry_mode _ _ _ ?_
    | with_reducible refine State.setSchedule_mode _ _ _ _ ?_ | with_reducible refine State.unbind_mode _ _ ?_
    | with_reducible refine State.bind_mode _ _ _ ?_ | split)

theorem State.setLoop_mode (s : State) (l : LoopNo) (v : Loop)
    (h : ModeAgrees s) : ModeAgrees (State.setLoop s l v) := by
  simp only [State.setLoop]
  repeat (first
    | with_reducible exact h | with_reducible refine State.onPlu_mode _ _ ?_ | split)

theorem State.setPanel_mode (s : State) (r : Room) (v : Panel)
    (h : ModeAgrees s) : ModeAgrees (State.setPanel s r v) := by
  simp only [State.setPanel]
  repeat (first
    | with_reducible exact h | with_reducible refine State.onPlu_mode _ _ ?_ | split)

theorem State.setFilter_mode (s : State) (r : Room) (v : Filter)
    (h : ModeAgrees s) : ModeAgrees (State.setFilter s r v) := by
  simp only [State.setFilter]
  repeat (first
    | with_reducible exact h | with_reducible refine State.onOcf_mode _ _ ?_ | split)

theorem State.setRoomState_mode (s : State) (r : Room) (v : RoomState)
    (h : ModeAgrees s) : ModeAgrees (State.setRoomState s r v) := by
  simp only [State.setRoomState]
  repeat (first
    | with_reducible exact h | with_reducible refine State.onAtu_mode _ _ ?_ | split)

theorem State.setOrderEntry_mode (s : State) (o : OrderIx) (v : Option OrderEntry)
    (h : ModeAgrees s) : ModeAgrees (State.setOrderEntry s o v) := by
  simp only [State.setOrderEntry]
  repeat (first
    | with_reducible exact h | with_reducible refine State.onCqu_mode _ _ ?_ | split)

theorem State.present_mode (s : State) (a : Access) (h : ModeAgrees s) : ModeAgrees (State.present s a) := by
  simp only [State.present]
  repeat (first
    | with_reducible exact h | with_reducible refine State.onMps_mode _ _ rfl ?_ | split)

theorem State.setFlags_mode (s : State) (w : Word) (h : ModeAgrees s) : ModeAgrees (State.setFlags s w) := by
  simp only [State.setFlags]
  repeat (first
    | with_reducible exact h | with_reducible refine State.onCtu_mode _ _ rfl rfl ?_ | split)

theorem State.clearFlags_mode (s : State) (w : Word) (h : ModeAgrees s) : ModeAgrees (State.clearFlags s w) := by
  simp only [State.clearFlags]
  repeat (first
    | with_reducible exact h | with_reducible refine State.onCtu_mode _ _ rfl rfl ?_ | split)

theorem State.presentTrap_mode (s : State) (r : TrapRecord)
    (h : ModeAgrees s) : ModeAgrees (State.presentTrap s r) := by
  simp only [State.presentTrap]
  repeat (first
    | with_reducible exact h | with_reducible refine State.onCtu_mode _ _ rfl rfl ?_
    | with_reducible refine State.setFlags_mode _ _ ?_ | split)

theorem State.markChanged_mode (s : State) (r : Room) (h : ModeAgrees s) : ModeAgrees (State.markChanged s r) := by
  simp only [State.markChanged]
  repeat (first
    | with_reducible exact h | with_reducible refine State.onCtu_mode _ _ rfl rfl ?_ | split)

theorem State.raiseKitchen_mode (s : State) (h : ModeAgrees s) : ModeAgrees (State.raiseKitchen s) := by
  simp only [State.raiseKitchen]
  repeat (first
    | with_reducible exact h | with_reducible refine State.onCtu_mode _ _ rfl rfl ?_ | split)

theorem State.raiseScan_mode (s : State) (h : ModeAgrees s) : ModeAgrees (State.raiseScan s) := by
  simp only [State.raiseScan]
  repeat (first
    | with_reducible exact h | with_reducible refine State.onCtu_mode _ _ rfl rfl ?_ | split)

theorem State.lockNotice_mode (s : State) (o : OrderIx) (st : OrderState)
    (h : ModeAgrees s) : ModeAgrees (State.lockNotice s o st) := by
  simp only [State.lockNotice]
  repeat (first
    | with_reducible exact h | with_reducible refine State.onMps_mode _ _ rfl ?_ | split)

theorem State.listWrite_mode (s : State) (o : OrderIx) (h : ModeAgrees s) : ModeAgrees (State.listWrite s o) := by
  simp only [State.listWrite]
  repeat (first
    | with_reducible exact h | with_reducible refine State.onCqu_mode _ _ ?_ | split)

theorem State.decideOrder_mode (s : State) (o : OrderIx) (e : OrderEntry)
    (h : ModeAgrees s) : ModeAgrees (State.decideOrder s o e) := by
  simp only [State.decideOrder]
  repeat (first
    | with_reducible exact h | with_reducible refine State.setOrderEntry_mode _ _ _ ?_
    | with_reducible refine State.raiseKitchen_mode _ ?_ | with_reducible refine State.lockNotice_mode _ _ _ ?_
    | with_reducible refine State.listWrite_mode _ _ ?_ | split)

theorem State.unqueue_mode (s : State) (o : OrderIx) (h : ModeAgrees s) : ModeAgrees (State.unqueue s o) := by
  simp only [State.unqueue]
  repeat (first
    | with_reducible exact h | with_reducible refine State.onCqu_mode _ _ ?_ | split)

theorem State.leaveContext_mode (s : State) (o : OrderIx)
    (h : ModeAgrees s) : ModeAgrees (State.leaveContext s o) := by
  simp only [State.leaveContext]
  repeat (first
    | with_reducible exact h
    | with_reducible refine State.onMps_mode _ _ rfl ?_
    | with_reducible refine State.onKlc_mode _ _ ?_ | split)

theorem State.unplace_mode (s : State) (o : OrderIx)
    (h : ModeAgrees s) : ModeAgrees (State.unplace s o) := by
  simp only [State.unplace]
  repeat (first
    | with_reducible exact h
    | with_reducible refine State.leaveContext_mode _ _ ?_
    | with_reducible refine State.onCqu_mode _ _ ?_
    | with_reducible refine State.unqueue_mode _ _ ?_ | split)

theorem State.enqueue_mode (s : State) (o : OrderIx)
    (h : ModeAgrees s) : ModeAgrees (State.enqueue s o) := by
  simp only [State.enqueue]
  repeat (first
    | with_reducible exact h
    | with_reducible refine State.onCqu_mode _ _ ?_
    | with_reducible refine State.unplace_mode _ _ ?_ | split)

theorem State.recall_mode (s : State) (o : OrderIx)
    (h : ModeAgrees s) : ModeAgrees (State.recall s o) := by
  simp only [State.recall]
  repeat (first
    | with_reducible exact h
    | with_reducible refine State.onCqu_mode _ _ ?_
    | with_reducible refine State.unplace_mode _ _ ?_ | split)

theorem State.queueOrder_mode (s : State) (o : OrderIx) (e : OrderEntry)
    (h : ModeAgrees s) : ModeAgrees (State.queueOrder s o e) := by
  simp only [State.queueOrder]
  repeat (first
    | with_reducible exact h | with_reducible refine State.decideOrder_mode _ _ _ ?_
    | with_reducible refine State.enqueue_mode _ _ ?_ | split)

theorem State.recallOrder_mode (s : State) (o : OrderIx) (e : OrderEntry) (resend : Bool)
    (h : ModeAgrees s) : ModeAgrees (State.recallOrder s o e resend) := by
  simp only [State.recallOrder]
  repeat (first
    | with_reducible exact h | with_reducible refine State.decideOrder_mode _ _ _ ?_
    | with_reducible refine State.recall_mode _ _ ?_ | split)

theorem State.markContext_mode (s : State) (o : OrderIx) (m : Disposition)
    (h : ModeAgrees s) : ModeAgrees (State.markContext s o m) := by
  simp only [State.markContext]
  repeat (first
    | with_reducible exact h | with_reducible refine State.onKlc_mode _ _ ?_ | split)

theorem State.noticeAttach_mode (s : State) (o : OrderIx) (role : Role) (at_ : SlotRef) (start due : Nat)
    (h : ModeAgrees s) : ModeAgrees (State.noticeAttach s o role at_ start due) := by
  simp only [State.noticeAttach]
  repeat (first
    | with_reducible exact h | with_reducible refine State.queueOrder_mode _ _ _ ?_ | split)

theorem State.noticeMove_mode (s : State) (o : OrderIx) (start due : Nat)
    (h : ModeAgrees s) : ModeAgrees (State.noticeMove s o start due) := by
  simp only [State.noticeMove]
  repeat (first
    | with_reducible exact h | with_reducible refine State.decideOrder_mode _ _ _ ?_
    | with_reducible refine State.queueOrder_mode _ _ _ ?_ | with_reducible refine State.recallOrder_mode _ _ _ _ ?_
    | with_reducible refine State.markContext_mode _ _ _ ?_ | split)

theorem State.noticeShortDetach_mode (s : State) (o : OrderIx)
    (h : ModeAgrees s) : ModeAgrees (State.noticeShortDetach s o) := by
  simp only [State.noticeShortDetach]
  repeat (first
    | with_reducible exact h | with_reducible refine State.decideOrder_mode _ _ _ ?_
    | with_reducible refine State.unqueue_mode _ _ ?_ | with_reducible refine State.recallOrder_mode _ _ _ _ ?_
    | with_reducible refine State.markContext_mode _ _ _ ?_ | split)

theorem State.noticeDeath_mode (s : State) (o : OrderIx) (k : DeathKind)
    (h : ModeAgrees s) : ModeAgrees (State.noticeDeath s o k) := by
  simp only [State.noticeDeath]
  repeat (first
    | with_reducible exact h | with_reducible refine State.decideOrder_mode _ _ _ ?_
    | with_reducible refine State.unqueue_mode _ _ ?_ | with_reducible refine State.recallOrder_mode _ _ _ _ ?_
    | with_reducible refine State.markContext_mode _ _ _ ?_ | split)

theorem State.notice_mode (s : State) (x : Notice) (h : ModeAgrees s) : ModeAgrees (State.notice s x) := by
  cases x <;> simp only [State.notice] <;> first | exact h | exact State.noticeAttach_mode _ _ _ _ _ _ h | exact State.noticeMove_mode _ _ _ _ h | exact State.noticeShortDetach_mode _ _ h | exact State.noticeDeath_mode _ _ _ h

theorem State.notices_mode (s : State) (l : List Notice) (h : ModeAgrees s) : ModeAgrees (State.notices s l) := by
  simp only [State.notices]
  repeat (first
    | with_reducible exact h | with_reducible refine State.notice_mode _ _ ?_
    | with_reducible refine foldl_mode _ (fun _ _ h => ?_) _ _ ?_ | split)

theorem State.dispose_mode (s : State) (o : OrderIx) (m : Disposition)
    (h : ModeAgrees s) : ModeAgrees (State.dispose s o m) := by
  simp only [State.dispose]
  repeat (first
    | with_reducible exact h | with_reducible refine State.decideOrder_mode _ _ _ ?_
    | with_reducible refine State.queueOrder_mode _ _ _ ?_ | with_reducible refine State.recallOrder_mode _ _ _ _ ?_
    | split)

theorem State.makeDue_mode (s : State) (o : OrderIx) (h : ModeAgrees s) : ModeAgrees (State.makeDue s o) := by
  simp only [State.makeDue]
  repeat (first
    | with_reducible exact h | with_reducible refine State.decideOrder_mode _ _ _ ?_ | split)

theorem State.cateringMinute_mode (s : State) (h : ModeAgrees s) : ModeAgrees (State.cateringMinute s) := by
  simp only [State.cateringMinute]
  repeat (first
    | with_reducible exact h | with_reducible refine State.makeDue_mode _ _ ?_
    | with_reducible refine foldl_mode _ (fun _ _ h => ?_) _ _ ?_ | split)

theorem State.closeQueued_mode (b : Book) (s : State) (o : OrderIx)
    (h : ModeAgrees s) : ModeAgrees (State.closeQueued b s o) := by
  simp only [State.closeQueued]
  repeat (first
    | with_reducible exact h | with_reducible refine State.decideOrder_mode _ _ _ ?_
    | with_reducible refine State.unqueue_mode _ _ ?_ | split)

theorem State.closeAccepted_mode (b : Book) (s : State) (o : OrderIx)
    (h : ModeAgrees s) : ModeAgrees (State.closeAccepted b s o) := by
  simp only [State.closeAccepted]
  repeat (first
    | with_reducible exact h | with_reducible refine State.decideOrder_mode _ _ _ ?_ | split)

theorem State.dayClose_mode (s : State) (b : Book) (h : ModeAgrees s) : ModeAgrees (State.dayClose s b) := by
  simp only [State.dayClose]
  repeat (first
    | with_reducible exact h | with_reducible refine State.closeQueued_mode _ _ _ ?_
    | with_reducible refine State.closeAccepted_mode _ _ _ ?_
    | with_reducible refine foldl_mode _ (fun _ _ h => ?_) _ _ ?_ | split)

theorem State.presentCqu_mode (s : State) (h : ModeAgrees s) : ModeAgrees (State.presentCqu s) := by
  simp only [State.presentCqu]
  repeat (first
    | with_reducible exact h | with_reducible refine State.onCqu_mode _ _ ?_
    | with_reducible refine State.present_mode _ _ ?_ | split)

theorem State.cquDone_mode (s : State) (error : Bool) (h : ModeAgrees s) : ModeAgrees (State.cquDone s error) := by
  simp only [State.cquDone]
  repeat (first
    | with_reducible exact h | with_reducible refine State.onCqu_mode _ _ ?_
    | with_reducible refine State.setFlags_mode _ _ ?_ | split)

theorem State.assemble_mode (s : State) (c : Context) (h : ModeAgrees s) : ModeAgrees (State.assemble s c) := by
  simp only [State.assemble]
  repeat (first
    | with_reducible exact h | with_reducible refine State.onKlc_mode _ _ ?_ | split)

theorem State.linkIdle_mode (s : State) (h : ModeAgrees s) : ModeAgrees (State.linkIdle s) := by
  simp only [State.linkIdle]
  repeat (first
    | with_reducible exact h | with_reducible refine State.onKlc_mode _ _ ?_ | split)

theorem State.haltLink_mode (s : State) (r : HaltReason) (h : ModeAgrees s) : ModeAgrees (State.haltLink s r) := by
  simp only [State.haltLink]
  repeat (first
    | with_reducible exact h | with_reducible refine State.onKlc_mode _ _ ?_
    | with_reducible refine State.raiseKitchen_mode _ ?_ | split)

theorem State.recordTotal_mode (s : State) (o : OrderIx) (total : Nat)
    (h : ModeAgrees s) : ModeAgrees (State.recordTotal s o total) := by
  simp only [State.recordTotal]
  repeat (first
    | with_reducible exact h | with_reducible refine State.decideOrder_mode _ _ _ ?_ | split)

theorem State.assemblyRead_mode (s : State) (data : Word) (error : Bool)
    (h : ModeAgrees s) : ModeAgrees (State.assemblyRead s data error) := by
  simp only [State.assemblyRead]
  repeat (first
    | with_reducible exact h | with_reducible refine State.onKlc_mode _ _ ?_
    | with_reducible refine State.haltLink_mode _ _ ?_ | with_reducible refine State.recordTotal_mode _ _ _ ?_
    | split)

theorem State.lookForWork_mode (s : State) (h : ModeAgrees s) : ModeAgrees (State.lookForWork s) := by
  simp only [State.lookForWork]
  repeat (first
    | with_reducible exact h | with_reducible refine State.onCqu_mode _ _ ?_
    | with_reducible refine State.decideOrder_mode _ _ _ ?_ | with_reducible refine State.unqueue_mode _ _ ?_
    | with_reducible refine State.recall_mode _ _ ?_ | with_reducible refine State.assemble_mode _ _ ?_ | split)

theorem State.ticketAccepted_mode (s : State) (c : Context) (e : OrderEntry)
    (h : ModeAgrees s) : ModeAgrees (State.ticketAccepted s c e) := by
  simp only [State.ticketAccepted]
  repeat (first
    | with_reducible exact h | with_reducible refine State.decideOrder_mode _ _ _ ?_
    | with_reducible refine State.dispose_mode _ _ _ ?_ | with_reducible refine State.assemble_mode _ _ ?_
    | with_reducible refine State.linkIdle_mode _ ?_ | split)

theorem State.recallAccepted_mode (s : State) (c : Context) (e : OrderEntry)
    (h : ModeAgrees s) : ModeAgrees (State.recallAccepted s c e) := by
  simp only [State.recallAccepted]
  repeat (first
    | with_reducible exact h | with_reducible refine State.decideOrder_mode _ _ _ ?_
    | with_reducible refine State.queueOrder_mode _ _ _ ?_ | with_reducible refine State.linkIdle_mode _ ?_ | split)

theorem State.resend_mode (s : State) (c : Context) (h : ModeAgrees s) : ModeAgrees (State.resend s c) := by
  simp only [State.resend]
  repeat (first
    | with_reducible exact h | with_reducible refine State.onKlc_mode _ _ ?_ | split)

theorem State.softFault_mode (s : State) (c : Context) (e : OrderEntry)
    (h : ModeAgrees s) : ModeAgrees (State.softFault s c e) := by
  simp only [State.softFault]
  repeat (first
    | with_reducible exact h | with_reducible refine State.onKlc_mode _ _ ?_
    | with_reducible refine State.decideOrder_mode _ _ _ ?_ | with_reducible refine State.dispose_mode _ _ _ ?_
    | with_reducible refine State.linkIdle_mode _ ?_ | with_reducible refine State.haltLink_mode _ _ ?_
    | with_reducible refine State.resend_mode _ _ ?_ | split)

theorem State.mismatch_mode (s : State) (c : Context) (h : ModeAgrees s) : ModeAgrees (State.mismatch s c) := by
  simp only [State.mismatch]
  repeat (first
    | with_reducible exact h | with_reducible refine State.onKlc_mode _ _ ?_
    | with_reducible refine State.haltLink_mode _ _ ?_ | with_reducible refine State.resend_mode _ _ ?_ | split)

theorem State.validAnswer_mode (s : State) (station orderNumber ticketIndex : Word) (v : KitchenVerdict)
    (h : ModeAgrees s) : ModeAgrees (State.validAnswer s station orderNumber ticketIndex v) := by
  simp only [State.validAnswer]
  repeat (first
    | with_reducible exact h | with_reducible refine State.onKlc_mode _ _ ?_
    | with_reducible refine State.recall_mode _ _ ?_ | with_reducible refine State.linkIdle_mode _ ?_
    | with_reducible refine State.ticketAccepted_mode _ _ _ ?_
    | with_reducible refine State.recallAccepted_mode _ _ _ ?_ | with_reducible refine State.softFault_mode _ _ _ ?_
    | with_reducible refine State.mismatch_mode _ _ ?_ | split)

theorem State.presentKlc_mode (s : State) (h : ModeAgrees s) : ModeAgrees (State.presentKlc s) := by
  simp only [State.presentKlc]
  repeat (first
    | with_reducible exact h | with_reducible refine State.present_mode _ _ ?_ | split)

theorem State.finalDone_mode (s : State) (error : Bool)
    (h : ModeAgrees s) : ModeAgrees (State.finalDone s error) := by
  simp only [State.finalDone]
  repeat (first
    | with_reducible exact h | with_reducible refine State.onKlc_mode _ _ ?_
    | with_reducible refine State.setFlags_mode _ _ ?_ | split)

theorem State.kitchenClear_mode (s : State) (h : ModeAgrees s) : ModeAgrees (State.kitchenClear s) := by
  simp only [State.kitchenClear]
  repeat (first
    | with_reducible exact h | with_reducible refine State.onKlc_mode _ _ ?_
    | with_reducible refine State.decideOrder_mode _ _ _ ?_ | with_reducible refine State.recall_mode _ _ ?_
    | with_reducible refine State.dispose_mode _ _ _ ?_ | with_reducible refine State.assemble_mode _ _ ?_
    | with_reducible refine State.linkIdle_mode _ ?_ | split)

theorem State.restartKlc_mode (s : State) (h : ModeAgrees s) : ModeAgrees (State.restartKlc s) := by
  simp only [State.restartKlc]
  repeat (first
    | with_reducible exact h | with_reducible refine State.onKlc_mode _ _ ?_
    | with_reducible refine State.linkIdle_mode _ ?_ | split)

theorem State.onExchangeWith_mode (s : State) (r : Room) (f : Exchange → Exchange)
    (h : ModeAgrees s) : ModeAgrees (State.onExchangeWith s r f) := by
  simp only [State.onExchangeWith]
  repeat (first
    | with_reducible exact h | with_reducible refine State.setLoop_mode _ _ _ ?_ | split)

theorem State.setDirty_mode (s : State) (r : Room) (h : ModeAgrees s) : ModeAgrees (State.setDirty s r) := by
  simp only [State.setDirty]
  repeat (first
    | with_reducible exact h | with_reducible refine State.setPanel_mode _ _ _ ?_
    | with_reducible refine State.onExchangeWith_mode _ _ _ ?_ | split)

theorem State.chimeRequest_mode (s : State) (r : Room) (c : Chime)
    (h : ModeAgrees s) : ModeAgrees (State.chimeRequest s r c) := by
  simp only [State.chimeRequest]
  repeat (first
    | with_reducible exact h | with_reducible refine State.setPanel_mode _ _ _ ?_
    | with_reducible refine State.onExchangeWith_mode _ _ _ ?_ | with_reducible refine State.setDirty_mode _ _ ?_
    | split)

theorem State.startRound_mode (s : State) (l : LoopNo) (h : ModeAgrees s) : ModeAgrees (State.startRound s l) := by
  simp only [State.startRound]
  repeat (first
    | with_reducible exact h | with_reducible refine State.setLoop_mode _ _ _ ?_ | split)

theorem State.makeFast_mode (s : State) (l : LoopNo) (h : ModeAgrees s) : ModeAgrees (State.makeFast s l) := by
  simp only [State.makeFast]
  repeat (first
    | with_reducible exact h | with_reducible refine State.setLoop_mode _ _ _ ?_ | split)

theorem State.endRound_mode (s : State) (l : LoopNo) (h : ModeAgrees s) : ModeAgrees (State.endRound s l) := by
  simp only [State.endRound]
  repeat (first
    | with_reducible exact h | with_reducible refine State.setLoop_mode _ _ _ ?_
    | with_reducible refine State.startRound_mode _ _ ?_ | split)

theorem State.loopMinute_mode (s : State) (l : LoopNo) (h : ModeAgrees s) : ModeAgrees (State.loopMinute s l) := by
  simp only [State.loopMinute]
  repeat (first
    | with_reducible exact h | with_reducible refine State.setLoop_mode _ _ _ ?_
    | with_reducible refine State.makeFast_mode _ _ ?_ | split)

theorem State.pluMinute_mode (s : State) (h : ModeAgrees s) : ModeAgrees (State.pluMinute s) := by
  simp only [State.pluMinute]
  repeat (first
    | with_reducible exact h | with_reducible refine State.loopMinute_mode _ _ ?_
    | with_reducible refine foldl_mode _ (fun _ _ h => ?_) _ _ ?_ | split)

theorem State.startLoop_mode (s : State) (l : LoopNo) (h : ModeAgrees s) : ModeAgrees (State.startLoop s l) := by
  simp only [State.startLoop]
  repeat (first
    | with_reducible exact h | with_reducible refine State.setLoop_mode _ _ _ ?_
    | with_reducible refine State.startRound_mode _ _ ?_ | split)

theorem State.startPanel_mode (s : State) (r : Room) (h : ModeAgrees s) : ModeAgrees (State.startPanel s r) := by
  simp only [State.startPanel]
  repeat (first
    | with_reducible exact h | with_reducible refine State.setPanel_mode _ _ _ ?_ | split)

theorem State.startPlu_mode (s : State) (h : ModeAgrees s) : ModeAgrees (State.startPlu s) := by
  simp only [State.startPlu]
  repeat (first
    | with_reducible exact h | with_reducible refine State.onPlu_mode _ _ ?_
    | with_reducible refine State.startLoop_mode _ _ ?_ | with_reducible refine State.startPanel_mode _ _ ?_
    | with_reducible refine foldl_mode _ (fun _ _ h => ?_) _ _ ?_ | split)

theorem State.sendPoll_mode (s : State) (l : LoopNo) (h : ModeAgrees s) : ModeAgrees (State.sendPoll s l) := by
  simp only [State.sendPoll]
  repeat (first
    | with_reducible exact h | with_reducible refine State.setLoop_mode _ _ _ ?_ | split)

theorem State.exchangeStep_mode (s : State) (l : LoopNo) (before after : ExchangeStage)
    (h : ModeAgrees s) : ModeAgrees (State.exchangeStep s l before after) := by
  simp only [State.exchangeStep]
  repeat (first
    | with_reducible exact h | with_reducible refine State.setLoop_mode _ _ _ ?_ | split)

theorem State.endExchange_mode (s : State) (l : LoopNo) (h : ModeAgrees s) : ModeAgrees (State.endExchange s l) := by
  simp only [State.endExchange]
  repeat (first
    | with_reducible exact h | with_reducible refine State.setLoop_mode _ _ _ ?_ | split)

theorem State.missExchange_mode (s : State) (l : LoopNo)
    (h : ModeAgrees s) : ModeAgrees (State.missExchange s l) := by
  simp only [State.missExchange]
  repeat (first
    | with_reducible exact h | with_reducible refine State.setPanel_mode _ _ _ ?_
    | with_reducible refine State.endExchange_mode _ _ ?_ | split)

theorem State.swapPositions_mode (s : State) (l : LoopNo) (a b : Nat)
    (h : ModeAgrees s) : ModeAgrees (State.swapPositions s l a b) := by
  simp only [State.swapPositions]
  repeat (first
    | with_reducible exact h | with_reducible refine State.setLoop_mode _ _ _ ?_ | split)

theorem State.markUninitialised_mode (s : State) (r : Room)
    (h : ModeAgrees s) : ModeAgrees (State.markUninitialised s r) := by
  simp only [State.markUninitialised]
  repeat (first
    | with_reducible exact h | with_reducible refine State.setFilter_mode _ _ _ ?_ | split)

theorem State.recompose_mode (s : State) (r : Room) (h : ModeAgrees s) : ModeAgrees (State.recompose s r) := by
  simp only [State.recompose]
  repeat (first
    | with_reducible exact h | with_reducible refine State.setRoomState_mode _ _ _ ?_
    | with_reducible refine State.setDirty_mode _ _ ?_ | split)

theorem State.recomposeAll_mode (s : State) (h : ModeAgrees s) : ModeAgrees (State.recomposeAll s) := by
  simp only [State.recomposeAll]
  repeat (first
    | with_reducible exact h | with_reducible refine State.recompose_mode _ _ ?_
    | with_reducible refine foldl_mode _ (fun _ _ h => ?_) _ _ ?_ | split)

theorem State.mapBookings_mode (s : State) (r : Room) (f : PoolEntry → PoolEntry)
    (h : ModeAgrees s) : ModeAgrees (State.mapBookings s r f) := by
  simp only [State.mapBookings]
  repeat (first
    | with_reducible exact h | with_reducible refine State.setEntry_mode _ _ _ ?_
    | with_reducible refine foldl_mode _ (fun _ _ h => ?_) _ _ ?_ | split)

theorem State.applyReport_mode (r : Room) (s : State) (t : Stamp)
    (h : ModeAgrees s) : ModeAgrees (State.applyReport r s t) := by
  simp only [State.applyReport]
  repeat (first
    | with_reducible exact h | with_reducible refine State.setRoomState_mode _ _ _ ?_
    | with_reducible refine State.mapBookings_mode _ _ _ ?_ | split)

theorem State.holdReport_mode (s : State) (r : Room) (t : Stamp)
    (h : ModeAgrees s) : ModeAgrees (State.holdReport s r t) := by
  simp only [State.holdReport]
  repeat (first
    | with_reducible exact h | with_reducible refine State.onAtu_mode _ _ ?_ | split)

theorem State.applyReports_mode (s : State) (r : Room) (h : ModeAgrees s) : ModeAgrees (State.applyReports s r) := by
  simp only [State.applyReports]
  repeat (first
    | with_reducible exact h | with_reducible refine State.onAtu_mode _ _ ?_
    | with_reducible refine State.applyReport_mode _ _ _ ?_
    | with_reducible refine foldl_mode _ (fun _ _ h => ?_) _ _ ?_ | split)

theorem State.holdReturn_mode (s : State) (r : Room) (t : Stamp)
    (h : ModeAgrees s) : ModeAgrees (State.holdReturn s r t) := by
  simp only [State.holdReturn]
  repeat (first
    | with_reducible exact h | with_reducible refine State.onAtu_mode _ _ ?_ | split)

theorem State.applyReturned_mode (r : Room) (s : State) (t : Stamp) (h : ModeAgrees s) :
    ModeAgrees (State.applyReturned r s t) := by
  simp only [State.applyReturned]
  repeat (first
    | with_reducible exact h | with_reducible refine State.setFilter_mode _ _ _ ?_
    | with_reducible refine State.mapBookings_mode _ _ _ ?_ | split)

theorem State.applyReturn_mode (s : State) (r : Room) (h : ModeAgrees s) :
    ModeAgrees (State.applyReturn s r) := by
  simp only [State.applyReturn]
  repeat (first
    | with_reducible exact h | with_reducible refine State.onAtu_mode _ _ ?_
    | with_reducible refine State.applyReturned_mode _ _ _ ?_
    | with_reducible refine foldl_mode _ (fun _ _ h => ?_) _ _ ?_ | split)

theorem State.walkOn_mode (s : State)
    (h : ModeAgrees s) : ModeAgrees (State.walkOn s) := by
  simp only [State.walkOn]
  repeat (first
    | with_reducible exact h | with_reducible refine State.onAtu_mode _ _ ?_ | split)

theorem State.clearRefusals_mode (s : State) (h : ModeAgrees s) : ModeAgrees (State.clearRefusals s) := by
  simp only [State.clearRefusals]
  repeat (first
    | with_reducible exact h | with_reducible refine State.setRoomState_mode _ _ _ ?_
    | with_reducible refine foldl_mode _ (fun _ _ h => ?_) _ _ ?_ | split)

theorem State.sweepRoom_mode (s : State) (r : Room)
    (h : ModeAgrees s) : ModeAgrees (State.sweepRoom s r) := by
  simp only [State.sweepRoom]
  repeat (first
    | with_reducible exact h | with_reducible refine State.mapBookings_mode _ _ _ ?_ | split)

theorem State.warnRoom_mode (now : Nat) (s : State) (r : Room)
    (h : ModeAgrees s) : ModeAgrees (State.warnRoom now s r) := by
  simp only [State.warnRoom]
  repeat (first
    | with_reducible exact h | with_reducible refine State.chimeRequest_mode _ _ _ ?_ | split)

theorem State.workExpiry_mode (s : State) (t : Nat) (h : ModeAgrees s) : ModeAgrees (State.workExpiry s t) := by
  simp only [State.workExpiry]
  repeat (first
    | with_reducible exact h | with_reducible refine State.onAtu_mode _ _ ?_
    | with_reducible refine State.recomposeAll_mode _ ?_ | with_reducible refine State.clearRefusals_mode _ ?_
    | with_reducible refine State.sweepRoom_mode _ _ ?_ | with_reducible refine State.warnRoom_mode _ _ _ ?_
    | with_reducible refine foldl_mode _ (fun _ _ h => ?_) _ _ ?_ | split)

theorem State.workExpiries_mode (s : State) (h : ModeAgrees s) : ModeAgrees (State.workExpiries s) := by
  simp only [State.workExpiries]
  repeat (first
    | with_reducible exact h | with_reducible refine State.onAtu_mode _ _ ?_
    | with_reducible refine State.walkOn_mode _ ?_ | with_reducible refine State.workExpiry_mode _ _ ?_
    | with_reducible refine foldl_mode _ (fun _ _ h => ?_) _ _ ?_ | split)

theorem State.atuMinute_mode (s : State) (h : ModeAgrees s) : ModeAgrees (State.atuMinute s) := by
  simp only [State.atuMinute]
  repeat (first
    | with_reducible exact h | with_reducible refine State.onAtu_mode _ _ ?_
    | with_reducible refine State.workExpiries_mode _ ?_ | split)

theorem State.workWindows_mode (s : State) (h : ModeAgrees s) : ModeAgrees (State.workWindows s) := by
  simp only [State.workWindows]
  repeat (first
    | with_reducible exact h | with_reducible refine State.onPlu_mode _ _ ?_
    | with_reducible refine State.pluMinute_mode _ ?_ | split)

theorem State.startAtu_mode (s : State) (h : ModeAgrees s) : ModeAgrees (State.startAtu s) := by
  simp only [State.startAtu]
  repeat (first
    | with_reducible exact h | with_reducible refine State.onAtu_mode _ _ ?_
    | with_reducible refine State.recomposeAll_mode _ ?_ | split)

theorem State.applyDrafts_mode (s : State) (h : ModeAgrees s) : ModeAgrees (State.applyDrafts s) := by
  simp only [State.applyDrafts]
  repeat (first
    | with_reducible exact h | with_reducible refine State.onAdu_mode _ _ ?_
    | with_reducible refine foldl_mode _ (fun _ _ h => ?_) _ _ ?_ | split)

theorem State.applyNotices_mode (s : State) (h : ModeAgrees s) : ModeAgrees (State.applyNotices s) := by
  simp only [State.applyNotices]
  repeat (first
    | with_reducible exact h | with_reducible refine State.applyReports_mode _ _ ?_
    | with_reducible refine State.applyReturn_mode _ _ ?_ | with_reducible refine State.applyDrafts_mode _ ?_
    | with_reducible refine foldl_mode _ (fun _ _ h => ?_) _ _ ?_)

theorem State.noticesBetweenClaims_mode (s : State) (h : ModeAgrees s) :
    ModeAgrees (State.noticesBetweenClaims s) := by
  unfold State.noticesBetweenClaims
  split
  · exact State.applyNotices_mode _ h
  · exact h

theorem State.applyNotices_ctu (s : State) : s.applyNotices.ctu = s.ctu := by
  have hm : ∀ (s : State) (r : Room) (f : PoolEntry → PoolEntry), (s.mapBookings r f).ctu = s.ctu := by
    intro s r f
    exact List.foldlRecOn (motive := fun u : State => u.ctu = s.ctu) _ _ rfl fun u hu b _ => hu
  have hr : ∀ (s : State) (r : Room), (s.applyReturn r).ctu = s.ctu := by
    intro s r
    unfold State.applyReturn
    exact List.foldlRecOn (motive := fun u : State => u.ctu = s.ctu) _ _ rfl fun u hu b _ => (hm _ _ _).trans hu
  have hp : ∀ (s : State) (r : Room), (s.applyReports r).ctu = s.ctu := by
    intro s r
    unfold State.applyReports
    exact List.foldlRecOn (motive := fun u : State => u.ctu = s.ctu) _ _ rfl fun u hu b _ => (hm _ _ _).trans hu
  unfold State.applyNotices
  refine List.foldlRecOn (motive := fun u : State => u.ctu = s.ctu) _ _ ?_ fun u hu b _ => (hp u b).trans hu
  exact List.foldlRecOn (motive := fun u : State => u.ctu = s.ctu) _ _ rfl fun u hu b _ => (hr u b).trans hu

theorem State.noticesBetweenClaims_ctu (s : State) : s.noticesBetweenClaims.ctu = s.ctu := by
  unfold State.noticesBetweenClaims
  split
  · exact State.applyNotices_ctu s
  · rfl

theorem State.take_mode (s : State) (c : ClaimSource) (h : ModeAgrees s) : ModeAgrees (State.take s c) := by
  have hn := State.applyNotices_mode s h
  unfold State.take
  generalize s.applyNotices = u at hn
  refine ModeAgrees.of_eq ?_ ?_ ?_ ?_ ?_ ?_ ?_ hn <;> cases c <;> rfl

theorem State.endClaim_mode (s : State) (h : ModeAgrees s) : ModeAgrees (State.endClaim s) := by
  simp only [State.endClaim]
  repeat (first
    | with_reducible exact h | with_reducible refine State.onAdu_mode _ _ ?_
    | with_reducible refine State.applyNotices_mode _ ?_
    | with_reducible refine State.walkOn_mode _ ?_ | with_reducible refine State.workExpiries_mode _ ?_
    | with_reducible refine State.workWindows_mode _ ?_
    | split)

theorem State.presentTail_mode (s : State) (h : ModeAgrees s) : ModeAgrees (State.presentTail s) := by
  simp only [State.presentTail]
  repeat (first
    | with_reducible exact h | with_reducible refine State.present_mode _ _ ?_ | split)

theorem State.presentClaim_mode (s : State) (h : ModeAgrees s) : ModeAgrees (State.presentClaim s) := by
  simp only [State.presentClaim]
  repeat (first
    | with_reducible exact h | with_reducible refine State.present_mode _ _ ?_ | split)

theorem State.leaveTail_mode (s : State) (todo : List WordWrite) (k : TailKind)
    (h : ModeAgrees s) : ModeAgrees (State.leaveTail s todo k) := by
  simp only [State.leaveTail]
  repeat (first
    | with_reducible exact h | with_reducible refine State.onAdu_mode _ _ ?_ | split)

theorem State.tailDone_mode (s : State) (error : Bool) (h : ModeAgrees s) : ModeAgrees (State.tailDone s error) := by
  simp only [State.tailDone]
  repeat (first
    | with_reducible exact h | with_reducible refine State.onAdu_mode _ _ ?_
    | with_reducible refine State.setFlags_mode _ _ ?_ | split)

theorem State.recomposeToday_mode (s : State) (b : Book) (r : Room)
    (h : ModeAgrees s) : ModeAgrees (State.recomposeToday s b r) := by
  simp only [State.recomposeToday]
  repeat (first
    | with_reducible exact h | with_reducible refine State.recompose_mode _ _ ?_ | split)

theorem State.answerPanel_mode (s : State) (r : Room) (confirmed : Bool)
    (h : ModeAgrees s) : ModeAgrees (State.answerPanel s r confirmed) := by
  simp only [State.answerPanel]
  repeat (first
    | with_reducible exact h | with_reducible refine State.onAtu_mode _ _ ?_
    | with_reducible refine State.setRoomState_mode _ _ _ ?_
    | with_reducible refine State.chimeRequest_mode _ _ _ ?_ | with_reducible refine State.recompose_mode _ _ ?_
    | split)

theorem State.beginLife_mode (s : State) (w : LifeWork) (h : ModeAgrees s) : ModeAgrees (State.beginLife s w) := by
  simp only [State.beginLife]
  repeat (first
    | with_reducible exact h | with_reducible refine State.onAdu_mode _ _ ?_ | split)

theorem State.commitLife_mode (s : State) (w : LifeWork) (h : ModeAgrees s) : ModeAgrees (State.commitLife s w) := by
  simp only [State.commitLife]
  repeat (first
    | with_reducible exact h | with_reducible refine State.setEntry_mode _ _ _ ?_
    | with_reducible refine State.freeEntry_mode _ _ ?_ | with_reducible refine State.notices_mode _ _ ?_ | split)

theorem State.endLife_mode (s : State) (w : LifeWork) (h : ModeAgrees s) : ModeAgrees (State.endLife s w) := by
  simp only [State.endLife]
  repeat (first
    | with_reducible exact h | with_reducible refine State.markChanged_mode _ _ ?_
    | with_reducible refine State.endClaim_mode _ ?_ | with_reducible refine State.recomposeToday_mode _ _ _ ?_
    | with_reducible refine State.answerPanel_mode _ _ _ ?_ | split)

theorem State.lifeWritten_mode (s : State) (w : LifeWork) (words todo : List WordWrite) (failed second error : Bool)
    (h : ModeAgrees s) : ModeAgrees (State.lifeWritten s w words todo failed second error) := by
  unfold State.lifeWritten
  have h1 : ∀ c, ModeAgrees (s.onAdu fun a => { a with claim := c }) := fun c => h
  generalize (failed || error) = f
  cases second <;> cases f <;> rcases todo.drop 1 with _ | ⟨a, _ | ⟨b, l⟩⟩ <;> dsimp only <;>
    first
      | with_reducible exact h1 _
      | with_reducible exact State.endLife_mode _ _ (State.leaveTail_mode _ _ _ (State.commitLife_mode _ _ (h1 _)))
      | with_reducible exact State.endLife_mode _ _ (State.leaveTail_mode _ _ _ (h1 _))
      | with_reducible exact State.commitLife_mode _ _ (h1 _)
      | exact State.onAdu_mode _ _ (h1 _)

theorem presentAll_mode (s : State) (h : ModeAgrees s) : ModeAgrees (presentAll s) := by
  unfold presentAll
  exact State.presentClaim_mode _ (State.presentTail_mode _ (State.presentKlc_mode _ (State.presentCqu_mode _
    (State.lookForWork_mode _ h))))

theorem settle_mode (s : State) (h : ModeAgrees s) : ModeAgrees (settle s) :=
  State.arbitrate_mode _ (presentAll_mode s h)

theorem State.release_mode (s : State) (h : ModeAgrees s) : ModeAgrees (State.release s) := by
  simp only [State.release]
  repeat (first
    | with_reducible exact h | with_reducible refine State.present_mode _ _ ?_
    | with_reducible refine State.arbitrate_mode _ ?_ | with_reducible refine State.presentTail_mode _ ?_ | split)

theorem State.drop_mode (s : State) (h : ModeAgrees s) : ModeAgrees (State.drop s) := by
  unfold State.drop
  refine State.onMps_mode _ _ ?_ h
  split <;> rfl

theorem State.endAdmission_mode (s : State) (a : Admission) (withheld confirmed : Bool)
    (h : ModeAgrees s) : ModeAgrees (State.endAdmission s a withheld confirmed) := by
  simp only [State.endAdmission]
  repeat (first
    | with_reducible exact h | with_reducible refine State.endClaim_mode _ ?_
    | with_reducible refine State.answerPanel_mode _ _ _ ?_ | with_reducible refine State.release_mode _ ?_
    | with_reducible refine State.drop_mode _ ?_ | split)

theorem State.withhold_mode (s : State) (a : Admission) (j : Judged) (kind : Kind)
    (h : ModeAgrees s) : ModeAgrees (State.withhold s a j kind) := by
  simp only [State.withhold]
  repeat (first
    | with_reducible exact h | with_reducible refine State.presentTrap_mode _ _ ?_
    | with_reducible refine State.endAdmission_mode _ _ _ _ ?_ | split)

theorem State.commitRefusal_mode (s : State) (at_ : SlotRef) (r : Reason)
    (h : ModeAgrees s) : ModeAgrees (State.commitRefusal s at_ r) := by
  simp only [State.commitRefusal]
  repeat (first
    | with_reducible exact h | with_reducible refine State.setEntry_mode _ _ _ ?_ | split)

theorem State.commit_mode (s : State) (a : Admission) (o : Judgement)
    (h : ModeAgrees s) : ModeAgrees (State.commit s a o) := by
  simp only [State.commit]
  repeat (first
    | with_reducible exact h | with_reducible refine State.takeEntry_mode _ _ ?_
    | with_reducible refine State.freeEntry_mode _ _ ?_ | with_reducible refine State.changeEntry_mode _ _ _ ?_
    | with_reducible refine State.notices_mode _ _ ?_ | with_reducible refine State.commitRefusal_mode _ _ _ ?_
    | split)

theorem State.reportTraps_mode (s : State) (a : Admission) (j : Judged) (interval : Nat × Nat)
    (h : ModeAgrees s) : ModeAgrees (State.reportTraps s a j interval) := by
  simp only [State.reportTraps]
  repeat (first
    | with_reducible exact h | with_reducible refine State.setFlags_mode _ _ ?_
    | with_reducible refine State.presentTrap_mode _ _ ?_ | split)

theorem State.finishAdmission_mode (s : State) (a : Admission) (j : Judged) (wrote : Bool) (back : List Word)
    (h : ModeAgrees s) : ModeAgrees (State.finishAdmission s a j wrote back) := by
  simp only [State.finishAdmission]
  repeat (first
    | with_reducible exact h | with_reducible refine State.markChanged_mode _ _ ?_
    | with_reducible refine State.recomposeToday_mode _ _ _ ?_
    | with_reducible refine State.endAdmission_mode _ _ _ _ ?_ | with_reducible refine State.commit_mode _ _ _ ?_
    | with_reducible refine State.reportTraps_mode _ _ _ _ ?_ | split)

theorem State.beginWriting_mode (s : State) (a : Admission) (j : Judged) (back : List Word) (second : Bool)
    (h : ModeAgrees s) : ModeAgrees (State.beginWriting s a j back second) := by
  simp only [State.beginWriting]
  repeat (first
    | with_reducible exact h | with_reducible refine State.onAdu_mode _ _ ?_
    | with_reducible refine State.finishAdmission_mode _ _ _ _ _ ?_ | split)

theorem State.decideAdmission_mode (s : State) (a : Admission) (p : Proposal)
    (h : ModeAgrees s) : ModeAgrees (State.decideAdmission s a p) := by
  simp only [State.decideAdmission]
  repeat (first
    | with_reducible exact h | with_reducible refine State.withhold_mode _ _ _ _ ?_
    | with_reducible refine State.beginWriting_mode _ _ _ _ _ ?_ | split)

theorem State.advanceAdmission_mode (s : State) (a : Admission) (got : List (Option Word))
    (h : ModeAgrees s) : ModeAgrees (State.advanceAdmission s a got) := by
  simp only [State.advanceAdmission]
  repeat (first
    | with_reducible exact h | with_reducible refine State.onAdu_mode _ _ ?_
    | with_reducible refine State.decideAdmission_mode _ _ _ ?_ | split)

theorem State.voidMemory_mode (s : State) (a : Admission) (back : List Word)
    (h : ModeAgrees s) : ModeAgrees (State.voidMemory s a back) := by
  simp only [State.voidMemory]
  repeat (first
    | with_reducible exact h | with_reducible refine State.finishAdmission_mode _ _ _ _ _ ?_
    | with_reducible refine State.beginWriting_mode _ _ _ _ _ ?_ | split)

theorem State.presentLast_mode (s : State) (rest : List WordWrite) (h : ModeAgrees s) :
    ModeAgrees (State.presentLast s rest) := by
  unfold State.presentLast
  exact State.arbitrate_mode _ (State.presentTail_mode _ (State.leaveTail_mode _ _ _ h))

theorem State.admissionWritten_mode (s : State) (a : Admission) (j : Judged) (back : List Word) (todo : List WordWrite) (second error : Bool)
    (h : ModeAgrees s) : ModeAgrees (State.admissionWritten s a j back todo second error) := by
  unfold State.admissionWritten
  dsimp only
  split
  · exact State.voidMemory_mode _ _ _ h
  · rcases todo.drop 1 with _ | ⟨a, _ | ⟨b, l⟩⟩
    · exact State.onAdu_mode _ _ h
    · exact State.finishAdmission_mode _ _ _ _ _ (State.presentLast_mode _ _ h)
    · exact State.onAdu_mode _ _ h

theorem State.backReadDone_mode (s : State) (a : Admission) (j : Judged) (got : List (Option Word))
    (h : ModeAgrees s) : ModeAgrees (State.backReadDone s a j got) := by
  unfold State.backReadDone
  split
  · exact State.beginWriting_mode _ _ _ _ _ h
  · exact State.finishAdmission_mode _ _ _ _ _ h
  · exact State.onAdu_mode _ _ h

theorem State.takeRequest_mode (s : State) (rk : RequestKind) (go : State → RequestClaim → State) (hg : ∀ s r, ModeAgrees s → ModeAgrees (go s r))
    (h : ModeAgrees s) : ModeAgrees (State.takeRequest s rk go) := by
  simp only [State.takeRequest]
  repeat (first
    | with_reducible exact h | with_reducible refine State.take_mode _ _ ?_ | with_reducible refine hg _ _ ?_
    | split)

theorem State.requestNone_mode (s : State) (r : RequestClaim)
    (h : ModeAgrees s) : ModeAgrees (State.requestNone s r) := by
  simp only [State.requestNone]
  repeat (first
    | with_reducible exact h | with_reducible refine State.setSlot_mode _ _ _ ?_
    | with_reducible refine State.endClaim_mode _ ?_ | with_reducible refine State.release_mode _ ?_ | split)

theorem State.beginRequest_mode (k : AdmissionKind) (s : State) (r : RequestClaim)
    (h : ModeAgrees s) : ModeAgrees (State.beginRequest k s r) := by
  simp only [State.beginRequest]
  repeat (first
    | with_reducible exact h | with_reducible refine State.advanceAdmission_mode _ _ _ ?_ | split)

theorem State.takePanel_mode (s : State) (b : Button) (go : State → PanelEvent → State) (hg : ∀ s e, ModeAgrees s → ModeAgrees (go s e))
    (h : ModeAgrees s) : ModeAgrees (State.takePanel s b go) := by
  simp only [State.takePanel]
  repeat (first
    | with_reducible exact h | with_reducible refine State.take_mode _ _ ?_ | with_reducible refine hg _ _ ?_
    | split)

theorem State.minuteReaches_mode (s : State) (h : ModeAgrees s) : ModeAgrees (State.minuteReaches s) := by
  simp only [State.minuteReaches]
  repeat (first
    | with_reducible exact h | with_reducible refine State.noticesBetweenClaims_mode _ ?_
    | with_reducible refine State.onPlu_mode _ _ ?_
    | with_reducible refine State.cateringMinute_mode _ ?_ | with_reducible refine State.atuMinute_mode _ ?_
    | with_reducible refine State.workWindows_mode _ ?_ | split)

theorem State.minuteExpiry_mode (s : State) (h : ModeAgrees s) : ModeAgrees (State.minuteExpiry s) := by
  simp only [State.minuteExpiry]
  repeat (first
    | with_reducible exact h | with_reducible refine State.onClock_mode _ _ rfl rfl rfl ?_
    | with_reducible refine State.minuteReaches_mode _ ?_ | split)

/-- A day-end expiry that acts does so in RUNNING (R97). -/
theorem State.dayEndActs_mode (s : State) (hr : s.ctu.phase = .running) (h : ModeAgrees s) : ModeAgrees s.dayEndActs := by
  unfold State.dayEndActs
  have hn := State.noticesBetweenClaims_mode s h
  rw [← State.noticesBetweenClaims_ctu s] at hr
  generalize s.noticesBetweenClaims = s at hn hr ⊢
  refine State.dayClose_mode _ _ ?_
  obtain ⟨hp, hc⟩ := hn
  refine ⟨?_, hc⟩
  unfold PhaseAgrees at hp ⊢
  rw [hr] at hp
  show match s.ctu.phase with | .setup => _ | .walking => _ | .running => _
  rw [hr]
  exact ⟨hp.1, hp.2.1, Or.inr rfl⟩

theorem State.dayEndExpiry_mode (s : State) (h : ModeAgrees s) : ModeAgrees (State.dayEndExpiry s) := by
  unfold State.dayEndExpiry
  split
  · exact h
  · exact State.onClock_mode _ _ rfl rfl rfl h
  · rename_i hr
    split
    · exact State.onClock_mode _ _ rfl rfl rfl h
    · exact State.dayEndActs_mode _ hr h

theorem State.carry_mode (s : State) (h : ModeAgrees s) : ModeAgrees (State.carry s) := by
  unfold State.carry
  obtain ⟨h1, h2, h3⟩ := h.2
  split
  · refine State.minuteExpiry_mode _ (State.onClock_mode_in _ _ ⟨?_, ?_, h3⟩ h)
    · exact Nat.zero_le _
    · show s.clock.minute + 1 ≤ 1439
      omega
  · refine State.minuteExpiry_mode _ (State.dayEndExpiry_mode _ (State.onClock_mode_in _ _ ⟨?_, ?_, ?_⟩ h))
    · exact Nat.zero_le _
    · exact Nat.zero_le _
    · show (s.clock.day + 1) % 65536 ≤ 65535
      omega

theorem State.pulse_mode (s : State) (h : ModeAgrees s) : ModeAgrees (State.pulse s) := by
  unfold State.pulse
  obtain ⟨h1, h2, h3⟩ := h.2
  split
  · exact h
  · split
    · refine State.onClock_mode_in _ _ ⟨?_, h2, h3⟩ h
      show s.clock.second + 1 ≤ 59
      omega
    · exact State.carry_mode _ h

/-- The deferred marks are taken in RUNNING (R96). -/
theorem State.takeDeferred_mode (s : State) (hr : s.ctu.phase = .running) (h : ModeAgrees s) :
    ModeAgrees s.takeDeferred := by
  unfold State.takeDeferred
  extract_lets t
  have h1 : ModeAgrees t := by
    show ModeAgrees (if s.clock.deferredDayEnd = true then _ else s)
    split
    · exact State.dayEndActs_mode _ hr (State.onClock_mode _ _ rfl rfl rfl h)
    · exact h
  clear_value t
  split
  · exact State.minuteReaches_mode _ (State.onClock_mode _ _ rfl rfl rfl h1)
  · exact h1

theorem State.passEnd_mode (s : State) (h : ModeAgrees s) : ModeAgrees (State.passEnd s) := by
  obtain ⟨hp, hc⟩ := h
  have hwalk : (s.bsc.pass = .clean ∨ s.bsc.pass = .keep) → s.ctu.phase = .walking := by
    intro hpass
    unfold PhaseAgrees at hp
    split at hp
    · rename_i hs
      rcases hpass with h | h <;> rw [h] at hp <;> simp at hp
    · assumption
    · rcases hpass with h | h <;> rw [h] at hp <;> simp at hp
  have hturn : s.bsc.pass = .turnover → s.ctu.phase = .running := by
    intro hpass
    unfold PhaseAgrees at hp
    split at hp
    · rw [hpass] at hp; simp at hp
    · rw [hpass] at hp; simp at hp
    · assumption
  have hend : s.ctu.phase = .running → ModeAgrees ((s.onBsc fun _ => {}).raiseScan) := by
    intro hrun
    refine ⟨?_, hc⟩
    unfold PhaseAgrees at hp ⊢
    rw [hrun] at hp
    show match s.ctu.phase with | .setup => _ | .walking => _ | .running => _
    rw [hrun]
    exact ⟨hp.1, hp.2.1, Or.inl rfl⟩
  simp only [State.passEnd]
  split
  · rename_i hpass
    have hw := hwalk (Or.inl hpass)
    refine State.takeDeferred_mode _ rfl ⟨?_, hc⟩
    unfold PhaseAgrees at hp ⊢
    rw [hw] at hp
    exact ⟨hp.1, rfl, Or.inl rfl⟩
  · rename_i hpass
    have hw := hwalk (Or.inr hpass)
    refine State.takeDeferred_mode _ rfl ⟨?_, hc⟩
    unfold PhaseAgrees at hp ⊢
    rw [hw] at hp
    exact ⟨hp.1, rfl, Or.inl rfl⟩
  · rename_i hpass
    have hrun := hturn hpass
    split
    · exact State.dayEndActs_mode _ hrun (State.onClock_mode _ _ rfl rfl rfl (hend hrun))
    · exact hend hrun
  · rename_i hpass
    refine ModeAgrees.of_eq (s := s) rfl rfl rfl ?_ rfl rfl rfl ⟨hp, hc⟩
    exact hpass.symm

theorem State.visitEnded_mode (s : State) (h : ModeAgrees s) : ModeAgrees (State.visitEnded s) := by
  unfold State.visitEnded
  have h1 := State.endClaim_mode _ h
  generalize s.endClaim = t at h1 ⊢
  dsimp only
  split
  · exact State.onBsc_mode _ _ rfl h1
  · exact State.passEnd_mode _ h1

theorem State.visitWritten_mode (s : State) (todo : List WordWrite) (again : List WordWrite → Claim)
    (h : ModeAgrees s) : ModeAgrees (State.visitWritten s todo again) := by
  unfold State.visitWritten
  rcases todo.drop 1 with _ | ⟨a, _ | ⟨b, l⟩⟩
  · exact State.onAdu_mode _ _ h
  · exact State.visitEnded_mode _ (State.leaveTail_mode _ _ _ h)
  · exact State.onAdu_mode _ _ h

theorem State.clearSlot_mode (s : State) (r : SlotRef) (h : ModeAgrees s) : ModeAgrees (State.clearSlot s r) := by
  simp only [State.clearSlot]
  repeat (first
    | with_reducible exact h | with_reducible refine State.setSlot_mode _ _ _ ?_ | split)

theorem State.beginClean_mode (s : State) (h : ModeAgrees s) : ModeAgrees (State.beginClean s) := by
  simp only [State.beginClean]
  repeat (first
    | with_reducible exact h | with_reducible refine State.onAdu_mode _ _ ?_
    | with_reducible refine State.clearSlot_mode _ _ ?_ | split)

theorem State.turnoverFree_mode (s : State) (r : SlotRef)
    (h : ModeAgrees s) : ModeAgrees (State.turnoverFree s r) := by
  simp only [State.turnoverFree]
  repeat (first
    | with_reducible exact h | with_reducible refine State.freeEntry_mode _ _ ?_
    | with_reducible refine State.markChanged_mode _ _ ?_ | with_reducible refine State.notices_mode _ _ ?_ | split)

theorem State.beginTurnover_mode (s : State) (h : ModeAgrees s) : ModeAgrees (State.beginTurnover s) := by
  simp only [State.beginTurnover]
  repeat (first
    | with_reducible exact h | with_reducible refine State.onAdu_mode _ _ ?_
    | with_reducible refine State.turnoverFree_mode _ _ ?_ | split)

theorem State.openTurnover_mode (s : State) (h : ModeAgrees s) : ModeAgrees (State.openTurnover s) := by
  simp only [State.openTurnover]
  exact State.endClaim_mode _ (State.onBsc_mode _ _ rfl (State.onAdu_mode _ _ h))

theorem State.endKeep_mode (s : State) (r : SlotRef) (rebuilt : Bool)
    (h : ModeAgrees s) : ModeAgrees (State.endKeep s r rebuilt) := by
  simp only [State.endKeep]
  repeat (first
    | with_reducible exact h | with_reducible refine State.recomposeToday_mode _ _ _ ?_
    | with_reducible refine State.visitEnded_mode _ ?_ | split)

theorem State.keepWrite_mode (s : State) (r : SlotRef) (rebuilt : Bool) (l : List WordWrite)
    (h : ModeAgrees s) : ModeAgrees (State.keepWrite s r rebuilt l) := by
  simp only [State.keepWrite]
  repeat (first
    | with_reducible exact h | with_reducible refine State.onAdu_mode _ _ ?_
    | with_reducible refine State.markChanged_mode _ _ ?_ | split)

theorem State.handOver_mode (s : State) (o : OrderIx) (fate : Fate) (st : Option OrderState) (resend : Bool)
    (e : OrderEntry) (h : ModeAgrees s) : ModeAgrees (s.handOver o fate st resend e).1 := by
  unfold State.handOver
  dsimp only
  split
  · exact h
  · rcases fate with _ | _ | _ <;> rcases st with _ | (_ | _ | _ | _ | _ | _ | _ | _ | _ | _) <;>
      (try dsimp only) <;> (try split) <;>
      first
        | with_reducible exact h
        | with_reducible exact State.queueOrder_mode _ _ _ h
        | with_reducible exact State.decideOrder_mode _ _ _ h
        | with_reducible exact State.recallOrder_mode _ _ _ _ h
        | with_reducible exact State.enqueue_mode _ _ (State.decideOrder_mode _ _ _ h)

theorem State.keepHandOver_mode (s : State) (r : SlotRef) (t : Taken) (k : KeepReads) (j : KeepJudgement)
    (h : ModeAgrees s) : ModeAgrees (s.keepHandOver r t k j).1 := by
  unfold State.keepHandOver
  split
  · exact h
  · dsimp only
    split
    · exact h
    · exact State.handOver_mode _ _ _ _ _ _ h

theorem State.judgeKeep_mode (s : State) (r : SlotRef) (t : Taken) (k : KeepReads)
    (h : ModeAgrees s) : ModeAgrees (State.judgeKeep s r t k) := by
  have hh : ∀ j, ModeAgrees (s.keepHandOver r t k j).1 := fun j => State.keepHandOver_mode s r t k j h
  simp only [State.judgeKeep]
  split
  · exact State.endKeep_mode _ _ _ h
  · split
    · exact State.keepWrite_mode _ _ _ _ (State.setFlags_mode _ _ (hh _))
    · exact State.keepWrite_mode _ _ _ _ (hh _)
    · split
      · exact State.keepWrite_mode _ _ _ _ (State.takeEntry_mode _ _ (hh _))
      · exact State.endKeep_mode _ _ _ (State.takeEntry_mode _ _ (hh _))

theorem State.advanceKeep_mode (s : State) (r : SlotRef) (t : Taken) (got : List (Option Word))
    (h : ModeAgrees s) : ModeAgrees (State.advanceKeep s r t got) := by
  simp only [State.advanceKeep]
  repeat (first
    | with_reducible exact h
    | with_reducible refine State.onAdu_mode _ _ ?_
    | with_reducible refine State.judgeKeep_mode _ _ _ _ ?_ | split)

theorem State.keepReadDone_mode (s : State) (r : SlotRef) (t : Taken) (got : List (Option Word)) (data : Word) (error : Bool)
    (h : ModeAgrees s) : ModeAgrees (State.keepReadDone s r t got data error) := by
  simp only [State.keepReadDone]
  repeat (first
    | with_reducible exact h
    | with_reducible refine State.advanceKeep_mode _ _ _ _ ?_
    | with_reducible refine State.setFlags_mode _ _ ?_
    | with_reducible refine State.keepWrite_mode _ _ _ _ ?_ | split)

theorem State.beginKeep_mode (s : State) (h : ModeAgrees s) : ModeAgrees (State.beginKeep s) := by
  simp only [State.beginKeep]
  repeat (first
    | with_reducible exact h | with_reducible refine State.onAdu_mode _ _ ?_ | split)

theorem State.claimAccessDone_mode (s : State) (data : Word) (error : Bool)
    (h : ModeAgrees s) : ModeAgrees (State.claimAccessDone s data error) := by
  unfold State.claimAccessDone
  have hf : ModeAgrees (if error = true then s.setFlags flagMemerr else s) := by
    split
    · exact State.setFlags_mode _ _ h
    · exact h
  split
  · exact h
  · split <;> (try dsimp only)
    · exact State.advanceAdmission_mode _ _ _ h
    · exact State.backReadDone_mode _ _ _ _ h
    · exact State.admissionWritten_mode _ _ _ _ _ _ _ h
    · exact State.lifeWritten_mode _ _ _ _ _ _ _ h
    · exact State.visitWritten_mode _ _ _ hf
    · exact State.visitWritten_mode _ _ _ hf
    · exact State.keepReadDone_mode _ _ _ _ _ _ h
    · split
      · exact State.endKeep_mode _ _ _ (State.leaveTail_mode _ _ _ hf)
      · exact State.onAdu_mode _ _ hf

theorem State.takeVisit_mode (s : State) (pass : PassKind) (opening : Bool) (go : State → State) (hg : ∀ s, ModeAgrees s → ModeAgrees (go s))
    (h : ModeAgrees s) : ModeAgrees (State.takeVisit s pass opening go) := by
  simp only [State.takeVisit]
  repeat (first
    | with_reducible exact h | with_reducible refine State.take_mode _ _ ?_ | with_reducible refine hg _ ?_ | split)

theorem State.beginMinute_mode (s : State) (c : MinuteClaim)
    (h : ModeAgrees s) : ModeAgrees (State.beginMinute s c) := by
  simp only [State.beginMinute]
  repeat (first
    | with_reducible exact h | with_reducible refine State.endClaim_mode _ ?_
    | with_reducible refine State.beginLife_mode _ _ ?_ | split)

theorem State.takeMinute_mode (s : State) (rows : List WalkRow)
    (h : ModeAgrees s) : ModeAgrees (State.takeMinute s rows) := by
  simp only [State.takeMinute]
  repeat (first
    | with_reducible exact h | with_reducible refine State.take_mode _ _ ?_
    | with_reducible refine State.beginMinute_mode _ _ ?_ | split)

theorem State.takeEvent_mode (s : State) (h : ModeAgrees s) : ModeAgrees (State.takeEvent s) := by
  simp only [State.takeEvent]
  repeat (first
    | with_reducible exact h | with_reducible refine State.onPlu_mode _ _ ?_
    | with_reducible refine State.onAtu_mode _ _ ?_ | split)

theorem State.beginPanelLife_mode (s : State) (b : Nat × PoolEntry) (change : LifeChange)
    (h : ModeAgrees s) : ModeAgrees (State.beginPanelLife s b change) := by
  simp only [State.beginPanelLife]
  repeat (first
    | with_reducible exact h | with_reducible refine State.beginLife_mode _ _ ?_ | split)

theorem State.beginCheckin_mode (s : State) (ev : PanelEvent)
    (h : ModeAgrees s) : ModeAgrees (State.beginCheckin s ev) := by
  simp only [State.beginCheckin]
  repeat (first
    | with_reducible exact h | with_reducible refine State.endClaim_mode _ ?_
    | with_reducible refine State.answerPanel_mode _ _ _ ?_
    | with_reducible refine State.beginPanelLife_mode _ _ _ ?_ | split)

theorem State.beginEnd_mode (s : State) (ev : PanelEvent) (h : ModeAgrees s) : ModeAgrees (State.beginEnd s ev) := by
  simp only [State.beginEnd]
  repeat (first
    | with_reducible exact h | with_reducible refine State.endClaim_mode _ ?_
    | with_reducible refine State.answerPanel_mode _ _ _ ?_
    | with_reducible refine State.beginPanelLife_mode _ _ _ ?_ | split)

theorem State.draftNotice_mode (s : State) (r : SlotRef) (h : ModeAgrees s) : ModeAgrees (State.draftNotice s r) := by
  simp only [State.draftNotice]
  repeat (first
    | with_reducible exact h | with_reducible refine State.onAdu_mode _ _ ?_ | split)

theorem State.linkGood_mode (s : State) (r : Room) (h : ModeAgrees s) : ModeAgrees (State.linkGood s r) := by
  simp only [State.linkGood]
  repeat (first
    | with_reducible exact h | with_reducible refine State.setPanel_mode _ _ _ ?_
    | with_reducible refine State.setDirty_mode _ _ ?_ | with_reducible refine State.markUninitialised_mode _ _ ?_
    | with_reducible refine State.holdReturn_mode _ _ _ ?_ | split)

theorem State.settleMarks_mode (s : State) (l : LoopNo) (r : Room)
    (h : ModeAgrees s) : ModeAgrees (State.settleMarks s l r) := by
  simp only [State.settleMarks]
  repeat (first
    | with_reducible exact h | with_reducible refine State.setPanel_mode _ _ _ ?_ | split)

theorem State.takeSample_mode (s : State) (r : Room) (count : Nat)
    (h : ModeAgrees s) : ModeAgrees (State.takeSample s r count) := by
  simp only [State.takeSample]
  repeat (first
    | with_reducible exact h | with_reducible refine State.setFilter_mode _ _ _ ?_
    | with_reducible refine State.present_mode _ _ ?_ | with_reducible refine State.makeFast_mode _ _ ?_
    | with_reducible refine State.holdReport_mode _ _ _ ?_ | split)

theorem State.handCount_mode (s : State) (r : Room) (page : Bool) (count : Nat)
    (h : ModeAgrees s) : ModeAgrees (State.handCount s r page count) := by
  simp only [State.handCount]
  repeat (first
    | with_reducible exact h | with_reducible refine State.takeSample_mode _ _ _ ?_ | split)

theorem State.buttonEvent_mode (s : State) (l : LoopNo) (r : Room) (b : Button) (arg : Nat) (tag : BitVec 3)
    (h : ModeAgrees s) : ModeAgrees (State.buttonEvent s l r b arg tag) := by
  simp only [State.buttonEvent]
  repeat (first
    | with_reducible exact h | with_reducible refine State.onPlu_mode _ _ ?_
    | with_reducible refine State.setPanel_mode _ _ _ ?_ | with_reducible refine State.makeFast_mode _ _ ?_ | split)

theorem State.goodReply_mode (s : State) (l : LoopNo) (x : Exchange) (bs : List Byte)
    (h : ModeAgrees s) : ModeAgrees (State.goodReply s l x bs) := by
  simp only [State.goodReply]
  repeat (first
    | with_reducible exact h | with_reducible refine settle_mode _ ?_
    | with_reducible refine State.linkGood_mode _ _ ?_ | with_reducible refine State.settleMarks_mode _ _ _ ?_
    | with_reducible refine State.handCount_mode _ _ _ _ ?_
    | with_reducible refine State.buttonEvent_mode _ _ _ _ _ _ ?_ | split)

theorem State.reply_mode (s : State) (l : LoopNo) (bs : List Byte)
    (h : ModeAgrees s) : ModeAgrees (State.reply s l bs) := by
  simp only [State.reply]
  repeat (first
    | with_reducible exact h | with_reducible refine State.endExchange_mode _ _ ?_
    | with_reducible refine State.missExchange_mode _ _ ?_ | with_reducible refine State.goodReply_mode _ _ _ _ ?_
    | split)

theorem State.hardwareReset_mode (straps : BitVec 3) (s : State) : ModeAgrees (State.hardwareReset straps s) :=
  ⟨⟨rfl, rfl, rfl⟩, ⟨Nat.zero_le _, Nat.zero_le _, Nat.zero_le _⟩⟩

theorem State.endOfReset_mode (s : State) (h : ModeAgrees s) : ModeAgrees (State.endOfReset s) := by
  unfold State.endOfReset
  split
  · exact State.onMps_mode _ _ rfl h
  · exact h

theorem State.restart_mode (s : State) (h : ModeAgrees s) : ModeAgrees (State.restart s) := by
  have hk := State.restartKlc_mode s h
  exact ⟨⟨rfl, rfl, rfl⟩, hk.2⟩

theorem State.loadClock_mode (s : State) (w : Word) (h : ModeAgrees s) : ModeAgrees (State.loadClock s w) := by
  unfold State.loadClock
  split
  · rename_i hr
    refine State.onCtu_mode _ _ rfl rfl (State.onClock_mode_in _ _ ⟨?_, ?_, ?_⟩ h)
    · simp only [clockInRange, Bool.and_eq_true, decide_eq_true_eq] at hr
      exact hr.2
    · simp only [clockInRange, Bool.and_eq_true, decide_eq_true_eq] at hr
      exact hr.1
    · show bits w 31 17 ≤ 65535
      have := Nat.mod_lt (w.toNat / 2 ^ 17) (show 0 < 2 ^ (31 + 1 - 17) by decide)
      unfold bits
      omega
  · exact State.onCtu_mode _ _ rfl rfl h

theorem State.loadBank_mode (s : State) (w : Word) (h : ModeAgrees s) : ModeAgrees (State.loadBank s w) := by
  simp only [State.loadBank]
  repeat (first
    | with_reducible exact h | with_reducible refine State.onClock_mode _ _ rfl rfl rfl ?_ | split)

theorem State.storeSetting_mode (s : State) (n : Nat) (data : Word) (lanes : Lanes)
    (h : ModeAgrees s) : ModeAgrees (State.storeSetting s n data lanes) := by
  simp only [State.storeSetting]
  repeat (first
    | with_reducible exact h | with_reducible refine State.onCtu_mode _ _ rfl rfl ?_
    | with_reducible refine State.loadClock_mode _ _ ?_ | with_reducible refine State.loadBank_mode _ _ ?_ | split)

theorem State.setCommand_mode (s : State) (w : Word) (st : CommandStatus) (r : CommandReason)
    (h : ModeAgrees s) : ModeAgrees (State.setCommand s w st r) := by
  simp only [State.setCommand]
  repeat (first
    | with_reducible exact h | with_reducible refine State.onCtu_mode _ _ rfl rfl ?_ | split)

/-- START is accepted in SETUP (R23). -/
theorem State.start_mode (s : State) (k : StartKind) (h : ModeAgrees s) : ModeAgrees (s.start k) := by
  simp only [State.start]
  refine State.startAtu_mode _ (State.onOcf_mode _ _ (State.startPlu_mode _ ?_))
  refine ⟨?_, h.2⟩
  unfold PhaseAgrees
  show _ ∧ _ ∧ _
  cases k
  · exact ⟨rfl, rfl, Or.inl rfl⟩
  · exact ⟨rfl, rfl, Or.inr rfl⟩

theorem State.rebase_mode (s : State) (w : Word) (h : ModeAgrees s) : ModeAgrees (State.rebase s w) := by
  simp only [State.rebase]
  repeat (first
    | with_reducible exact h | with_reducible refine State.markUninitialised_mode _ _ ?_
    | with_reducible refine foldl_mode _ (fun _ _ h => ?_) _ _ ?_ | split)

theorem State.carryOut_mode (s : State) (c : CommandCode) (w : Word)
    (h : ModeAgrees s) : ModeAgrees (State.carryOut s c w) := by
  simp only [State.carryOut]
  repeat (first
    | with_reducible exact h | with_reducible refine State.kitchenClear_mode _ ?_
    | with_reducible refine State.swapPositions_mode _ _ _ _ ?_ | with_reducible refine State.restart_mode _ ?_
    | with_reducible refine State.start_mode _ _ ?_ | with_reducible refine State.rebase_mode _ _ ?_ | split)

theorem State.commandWrite_mode (s : State) (w : Word) (h : ModeAgrees s) : ModeAgrees (State.commandWrite s w) := by
  unfold State.commandWrite
  split
  · exact State.setCommand_mode _ _ _ _ h
  · exact State.setCommand_mode _ _ _ _ (State.carryOut_mode _ _ _ h)

theorem State.trapTaken_mode (s : State) (h : ModeAgrees s) : ModeAgrees (State.trapTaken s) := by
  simp only [State.trapTaken]
  repeat (first
    | with_reducible exact h | with_reducible refine State.onCtu_mode _ _ rfl rfl ?_ | split)

theorem State.clearCauses_mode (s : State) (w : Word) (h : ModeAgrees s) : ModeAgrees (State.clearCauses s w) := by
  simp only [State.clearCauses]
  repeat (first
    | with_reducible exact h | with_reducible refine State.onCtu_mode _ _ rfl rfl ?_ | split)

theorem State.act_mode (s : State) (n : Nat) (w : Word) (h : ModeAgrees s) : ModeAgrees (State.act s n w) := by
  simp only [State.act]
  repeat (first
    | with_reducible exact h | with_reducible refine State.clearFlags_mode _ _ ?_
    | with_reducible refine State.commandWrite_mode _ _ ?_ | with_reducible refine State.trapTaken_mode _ ?_
    | with_reducible refine State.clearCauses_mode _ _ ?_ | split)

theorem State.frameSent_mode (s : State) (h : ModeAgrees s) : ModeAgrees (State.frameSent s) := by
  simp only [State.frameSent]
  repeat (first
    | with_reducible exact h | with_reducible refine State.onKlc_mode _ _ ?_ | split)

theorem State.kitchenAnswer_mode (s : State) (sync station orderNumber ticketIndex verdict checksum : Word)
    (h : ModeAgrees s) : ModeAgrees (State.kitchenAnswer s sync station orderNumber ticketIndex verdict checksum) := by
  simp only [State.kitchenAnswer]
  repeat (first
    | with_reducible exact h | with_reducible refine State.validAnswer_mode _ _ _ _ _ ?_ | split)

theorem State.frameResend_mode (s : State) (h : ModeAgrees s) : ModeAgrees (State.frameResend s) := by
  simp only [State.frameResend]
  repeat (first
    | with_reducible exact h | with_reducible refine State.onKlc_mode _ _ ?_ | split)

theorem State.answerWaitExpiry_mode (s : State) (h : ModeAgrees s) : ModeAgrees (State.answerWaitExpiry s) := by
  simp only [State.answerWaitExpiry]
  repeat (first
    | with_reducible exact h | with_reducible refine State.onKlc_mode _ _ ?_
    | with_reducible refine State.linkIdle_mode _ ?_ | with_reducible refine State.haltLink_mode _ _ ?_ | split)

theorem State.nextFrameGapEnd_mode (s : State) (h : ModeAgrees s) : ModeAgrees (State.nextFrameGapEnd s) := by
  simp only [State.nextFrameGapEnd]
  repeat (first
    | with_reducible exact h | with_reducible refine State.onKlc_mode _ _ ?_ | split)

theorem State.toMemory_mode (s : State) (a : HostAccess) (h : ModeAgrees s) : ModeAgrees (State.toMemory s a) := by
  simp only [State.toMemory]
  repeat (first
    | with_reducible exact h | with_reducible refine State.onMps_mode _ _ rfl ?_
    | with_reducible refine State.present_mode _ _ ?_ | split)

theorem State.completeHost_mode (s : State) (data : Option Word) (error : Bool)
    (h : ModeAgrees s) : ModeAgrees (State.completeHost s data error) := by
  simp only [State.completeHost]
  repeat (first
    | with_reducible exact h | with_reducible refine State.onMps_mode _ _ rfl ?_ | split)

theorem State.withholdWrite_mode (s : State) (h : ModeAgrees s) : ModeAgrees (State.withholdWrite s) := by
  simp only [State.withholdWrite]
  repeat (first
    | with_reducible exact h | with_reducible refine State.setFlags_mode _ _ ?_
    | with_reducible refine State.completeHost_mode _ _ _ ?_ | split)

theorem State.readControl_mode (s : State) (n : Nat) (lanes : Lanes)
    (h : ModeAgrees s) : ModeAgrees (State.readControl s n lanes) := by
  simp only [State.readControl]
  repeat (first
    | with_reducible exact h | with_reducible refine State.onCtu_mode _ _ rfl rfl ?_
    | with_reducible refine State.completeHost_mode _ _ _ ?_ | split)

theorem State.writeControl_mode (s : State) (n : Nat) (a : HostAccess)
    (h : ModeAgrees s) : ModeAgrees (State.writeControl s n a) := by
  simp only [State.writeControl]
  repeat (first
    | with_reducible exact h | with_reducible refine State.setFlags_mode _ _ ?_
    | with_reducible refine State.storeSetting_mode _ _ _ _ ?_ | with_reducible refine State.act_mode _ _ _ ?_
    | with_reducible refine State.toMemory_mode _ _ ?_ | with_reducible refine State.withholdWrite_mode _ ?_ | split)

theorem State.noteDraft_mode (s : State) (r : SlotRef) (h : ModeAgrees s) : ModeAgrees (State.noteDraft s r) := by
  simp only [State.noteDraft]
  repeat (first
    | with_reducible exact h | with_reducible refine State.onAdu_mode _ _ ?_ | split)

theorem State.holdRequest_mode (s : State) (r : SlotRef) (a : HostAccess)
    (h : ModeAgrees s) : ModeAgrees (State.holdRequest s r a) := by
  simp only [State.holdRequest]
  repeat (first
    | with_reducible exact h | with_reducible refine State.onMps_mode _ _ rfl ?_
    | with_reducible refine State.onAdu_mode _ _ ?_ | split)

theorem State.writeSlot_mode (s : State) (r : SlotRef) (n : Nat) (a : HostAccess)
    (h : ModeAgrees s) : ModeAgrees (State.writeSlot s r n a) := by
  simp only [State.writeSlot]
  repeat (first
    | with_reducible exact h | with_reducible refine State.setFlags_mode _ _ ?_
    | with_reducible refine State.toMemory_mode _ _ ?_ | with_reducible refine State.withholdWrite_mode _ ?_
    | with_reducible refine State.noteDraft_mode _ _ ?_ | with_reducible refine State.holdRequest_mode _ _ _ ?_
    | split)

theorem State.writeOrder_mode (s : State) (o : OrderIx) (n : Nat) (a : HostAccess)
    (h : ModeAgrees s) : ModeAgrees (State.writeOrder s o n a) := by
  simp only [State.writeOrder]
  repeat (first
    | with_reducible exact h | with_reducible refine State.toMemory_mode _ _ ?_
    | with_reducible refine State.withholdWrite_mode _ ?_ | split)

theorem State.captureLine_mode (s : State) (r : Room) (n : Nat) (data : Word) (lanes : Lanes)
    (h : ModeAgrees s) : ModeAgrees (State.captureLine s r n data lanes) := by
  simp only [State.captureLine]
  repeat (first
    | with_reducible exact h | with_reducible refine State.setPanel_mode _ _ _ ?_
    | with_reducible refine State.setDirty_mode _ _ ?_ | split)

theorem State.writePage_mode (s : State) (r : Room) (n : Nat) (a : HostAccess)
    (h : ModeAgrees s) : ModeAgrees (State.writePage s r n a) := by
  simp only [State.writePage]
  repeat (first
    | with_reducible exact h | with_reducible refine State.toMemory_mode _ _ ?_
    | with_reducible refine State.captureLine_mode _ _ _ _ _ ?_ | split)

theorem State.captureDirectory_mode (s : State) (r : Room) (n : Nat) (data : Word) (lanes : Lanes)
    (h : ModeAgrees s) : ModeAgrees (State.captureDirectory s r n data lanes) := by
  simp only [State.captureDirectory]
  repeat (first
    | with_reducible exact h | with_reducible refine State.onCtu_mode _ _ rfl rfl ?_ | split)

theorem State.hostWrite_mode (s : State) (a : HostAccess) (h : ModeAgrees s) : ModeAgrees (State.hostWrite s a) := by
  simp only [State.hostWrite]
  repeat (first
    | with_reducible exact h | with_reducible refine State.toMemory_mode _ _ ?_
    | with_reducible refine State.withholdWrite_mode _ ?_ | with_reducible refine State.writeControl_mode _ _ _ ?_
    | with_reducible refine State.writeSlot_mode _ _ _ _ ?_ | with_reducible refine State.writeOrder_mode _ _ _ _ ?_
    | with_reducible refine State.writePage_mode _ _ _ _ ?_
    | with_reducible refine State.captureDirectory_mode _ _ _ _ _ ?_ | split)

theorem State.hostRead_mode (s : State) (a : HostAccess) (h : ModeAgrees s) : ModeAgrees (State.hostRead s a) := by
  simp only [State.hostRead]
  repeat (first
    | with_reducible exact h | with_reducible refine State.toMemory_mode _ _ ?_
    | with_reducible refine State.completeHost_mode _ _ _ ?_ | with_reducible refine State.readControl_mode _ _ _ ?_
    | split)

theorem State.hostTreat_mode (s : State) (a : HostAccess) (h : ModeAgrees s) : ModeAgrees (State.hostTreat s a) := by
  simp only [State.hostTreat]
  repeat (first
    | with_reducible exact h | with_reducible refine State.hostWrite_mode _ _ ?_
    | with_reducible refine State.hostRead_mode _ _ ?_ | split)

theorem State.deliver_mode (s : State) (a : Access) (data : Word) (error : Bool)
    (h : ModeAgrees s) : ModeAgrees (State.deliver s a data error) := by
  unfold State.deliver
  split
  · exact State.completeHost_mode _ _ _ h
  · exact State.onMps_mode _ _ rfl (State.completeHost_mode _ _ _ h)
  · exact State.claimAccessDone_mode _ _ _ h
  · exact State.claimAccessDone_mode _ _ _ h
  · exact State.tailDone_mode _ _ h
  · exact State.cquDone_mode _ _ h
  · exact State.assemblyRead_mode _ _ _ h
  · exact State.finalDone_mode _ _ h
  all_goals first | exact h | (split <;> exact h)

theorem State.accessComplete_mode (s : State) (error nextFirst : Bool)
    (h : ModeAgrees s) : ModeAgrees (State.accessComplete s error nextFirst) := by
  unfold State.accessComplete
  split
  · exact h
  · refine State.deliver_mode _ _ _ _ ?_
    split
    · exact h
    · exact State.arbitrate_mode _ (State.onMps_mode _ _ rfl h)

theorem settleAfter_mode (before after : State) (nextFirst : Bool)
    (h : ModeAgrees after) : ModeAgrees (settleAfter before after nextFirst) := by
  unfold settleAfter
  dsimp only
  split
  · exact presentAll_mode _ h
  · exact State.arbitrate_mode _ (presentAll_mode _ h)

end Sys2Proof.Machine
end

