-- ==== Sys2Proof/Laws/Bookings.lean ====
section
/-! SUPPORT. The law of the bookings (`BookingsAgree`) under the three changes a booking can see: taken, changed, freed. -/

namespace Sys2Proof.Machine

/-! ### The law over plain functions -/

/-- The start by which an index stands. -/
def startIn (entry : Nat → Option PoolEntry) (i : Nat) : Nat :=
  match entry i with
  | some e => e.start
  | none => 0

/-- `BookingsAgree` over the functions it reads. -/
structure Booked (slot : SlotRef → SlotState) (entry : Nat → Option PoolEntry) (sched : Book → Room → List Nat)
    (bind : OrderIx → Option Nat) : Prop where
  slots    : ∀ r i, slot r = .live i ↔ ∃ e, entry i = some e ∧ e.at_ = r
  listed   : ∀ b r i, i ∈ sched b r ↔ ∃ e, entry i = some e ∧ e.at_.book = b ∧ e.at_.room = r
  once     : ∀ b r, (sched b r).Nodup
  sorted   : ∀ b r, (sched b r).Pairwise fun i j => startIn entry i ≤ startIn entry j
  apart    : ∀ i j e d, entry i = some e → entry j = some d → i ≠ j → e.at_.book = d.at_.book → e.at_.room = d.at_.room →
    ¬ Overlaps e.start e.stop d.start d.stop
  interval : ∀ i e, entry i = some e → e.start < e.stop
  bound    : ∀ o i, bind o = some i ↔ ∃ e, entry i = some e ∧ e.order = some o

theorem mem_insertByStart (f : Nat → Nat) (i j : Nat) (l : List Nat) : j ∈ insertByStart f i l ↔ j = i ∨ j ∈ l := by
  induction l with
  | nil => simp [insertByStart]
  | cons k l ih =>
    simp only [insertByStart]
    split
    · simp
    · simp only [List.mem_cons, ih]
      constructor
      · rintro (h | h | h) <;> simp [h]
      · rintro (h | h | h) <;> simp [h]

theorem insertByStart_nodup (f : Nat → Nat) (i : Nat) (l : List Nat) (h : l.Nodup) (hi : i ∉ l) :
    (insertByStart f i l).Nodup := by
  induction l with
  | nil => simp [insertByStart]
  | cons k l ih =>
    simp only [insertByStart]
    have hk := List.nodup_cons.1 h
    simp only [List.mem_cons, not_or] at hi
    split
    · exact List.nodup_cons.2 ⟨by simp [hi.1, hi.2], h⟩
    · refine List.nodup_cons.2 ⟨?_, ih hk.2 hi.2⟩
      rw [mem_insertByStart]
      rintro (h1 | h1)
      · exact hi.1 h1.symm
      · exact hk.1 h1

theorem insertByStart_sorted (f : Nat → Nat) (i : Nat) (l : List Nat) (h : l.Pairwise fun j k => f j ≤ f k) :
    (insertByStart f i l).Pairwise fun j k => f j ≤ f k := by
  induction l with
  | nil => simp [insertByStart]
  | cons k l ih =>
    simp only [insertByStart]
    have hk := List.pairwise_cons.1 h
    split
    · rename_i hik
      refine List.pairwise_cons.2 ⟨fun j hj => ?_, h⟩
      rcases List.mem_cons.1 hj with rfl | hj
      · omega
      · have := hk.1 j hj
        omega
    · rename_i hik
      refine List.pairwise_cons.2 ⟨fun j hj => ?_, ih hk.2⟩
      rcases (mem_insertByStart f i j l).1 hj with rfl | hj
      · omega
      · exact hk.1 j hj

/-- The order of a schedule rests on the starts of the entries it lists. -/
theorem sorted_congr (f g : Nat → Nat) (l : List Nat) (hfg : ∀ j ∈ l, f j = g j) (h : l.Pairwise fun j k => f j ≤ f k) :
    l.Pairwise fun j k => g j ≤ g k := by
  refine List.Pairwise.imp_of_mem (fun hj hk hjk => ?_) h
  rw [← hfg _ hj, ← hfg _ hk]
  exact hjk

section Changes
variable {slot slot' : SlotRef → SlotState} {entry entry' : Nat → Option PoolEntry} {sched sched' : Book → Room → List Nat}
  {bind bind' : OrderIx → Option Nat}

/-- A free entry is taken for a booking whose slot is not LIVE, whose interval meets no other of its room, and whose order is
unbound. -/
theorem Booked.take (h : Booked slot entry sched bind) (i : Nat) (e : PoolEntry) (hi : entry i = none)
    (hslot : ∀ j, slot e.at_ ≠ .live j) (hint : e.start < e.stop)
    (hap : ∀ j d, entry j = some d → d.at_.book = e.at_.book → d.at_.room = e.at_.room →
      ¬ Overlaps e.start e.stop d.start d.stop)
    (hord : ∀ o, e.order = some o → bind o = none)
    (hs : ∀ r, slot' r = if r = e.at_ then .live i else slot r)
    (he : ∀ j, entry' j = if j = i then some e else entry j)
    (hl : ∀ b r, sched' b r =
      if b = e.at_.book ∧ r = e.at_.room then insertByStart (startIn entry') i (sched b r) else sched b r)
    (hb : ∀ o, bind' o = if e.order = some o then some i else bind o) : Booked slot' entry' sched' bind' := by
  have hnot : ∀ b r, i ∉ sched b r := by
    intro b r hm
    obtain ⟨d, hd, _⟩ := (h.listed b r i).1 hm
    rw [hi] at hd
    cases hd
  have hstart : ∀ b r, ∀ j ∈ sched b r, startIn entry j = startIn entry' j := by
    intro b r j hj
    have : j ≠ i := fun h0 => hnot b r (h0 ▸ hj)
    unfold startIn
    rw [he, if_neg this]
  constructor
  · intro r j
    rw [hs]
    by_cases hr : r = e.at_
    · rw [if_pos hr]
      constructor
      · intro h0
        cases h0
        exact ⟨e, by rw [he, if_pos rfl], hr.symm⟩
      · rintro ⟨d, hd, hdr⟩
        rw [he] at hd
        by_cases hj : j = i
        · rw [hj]
        · rw [if_neg hj] at hd
          exact absurd ((h.slots r j).2 ⟨d, hd, hdr⟩) (hr ▸ hslot j)
    · rw [if_neg hr, h.slots]
      constructor
      · rintro ⟨d, hd, hdr⟩
        refine ⟨d, ?_, hdr⟩
        rw [he, if_neg]
        · exact hd
        · intro h0
          rw [h0, hi] at hd
          cases hd
      · rintro ⟨d, hd, hdr⟩
        rw [he] at hd
        by_cases hj : j = i
        · rw [if_pos hj] at hd
          cases hd
          exact absurd hdr.symm hr
        · rw [if_neg hj] at hd
          exact ⟨d, hd, hdr⟩
  · intro b r j
    have hold := h.listed b r j
    have hiff : (∃ d, entry' j = some d ∧ d.at_.book = b ∧ d.at_.room = r) ↔
        (j = i ∧ b = e.at_.book ∧ r = e.at_.room) ∨ j ∈ sched b r := by
      rw [hold]
      constructor
      · rintro ⟨d, hd, h1, h2⟩
        rw [he] at hd
        by_cases hj : j = i
        · rw [if_pos hj] at hd
          cases hd
          exact .inl ⟨hj, h1.symm, h2.symm⟩
        · rw [if_neg hj] at hd
          exact .inr ⟨d, hd, h1, h2⟩
      · rintro (⟨hj, h1, h2⟩ | ⟨d, hd, h1, h2⟩)
        · exact ⟨e, by rw [he, if_pos hj], h1.symm, h2.symm⟩
        · refine ⟨d, ?_, h1, h2⟩
          rw [he, if_neg]
          · exact hd
          · intro h0
            rw [h0, hi] at hd
            cases hd
    rw [hl, hiff]
    split
    · rename_i hbr
      rw [mem_insertByStart]
      simp [hbr]
    · rename_i hbr
      constructor
      · exact .inr
      · rintro (⟨_, h1⟩ | h1)
        · exact absurd h1 hbr
        · exact h1
  · intro b r
    rw [hl]
    split
    · exact insertByStart_nodup _ _ _ (h.once b r) (hnot b r)
    · exact h.once b r
  · intro b r
    have := sorted_congr _ (startIn entry') _ (hstart b r) (h.sorted b r)
    rw [hl]
    split
    · exact insertByStart_sorted _ _ _ this
    · exact this
  · intro j k d f hd hf hjk hbk hrm
    rw [he] at hd hf
    by_cases hj : j = i
    · rw [if_pos hj] at hd
      cases hd
      rw [if_neg (fun h0 => hjk (hj.trans h0.symm))] at hf
      exact hap k f hf hbk.symm hrm.symm
    · rw [if_neg hj] at hd
      by_cases hk : k = i
      · rw [if_pos hk] at hf
        cases hf
        intro ho
        exact hap j d hd hbk hrm ⟨ho.2, ho.1⟩
      · rw [if_neg hk] at hf
        exact h.apart j k d f hd hf hjk hbk hrm
  · intro j d hd
    rw [he] at hd
    split at hd
    · cases hd
      exact hint
    · exact h.interval j d hd
  · intro o j
    rw [hb]
    split
    · rename_i ho
      constructor
      · intro h0
        cases h0
        exact ⟨e, by rw [he, if_pos rfl], ho⟩
      · rintro ⟨d, hd, hdo⟩
        rw [he] at hd
        by_cases hj : j = i
        · rw [hj]
        · rw [if_neg hj] at hd
          have := (h.bound o j).2 ⟨d, hd, hdo⟩
          rw [hord o ho] at this
          cases this
    · rename_i ho
      rw [h.bound]
      constructor
      · rintro ⟨d, hd, hdo⟩
        refine ⟨d, ?_, hdo⟩
        rw [he, if_neg]
        · exact hd
        · intro h0
          rw [h0, hi] at hd
          cases hd
      · rintro ⟨d, hd, hdo⟩
        rw [he] at hd
        by_cases hj : j = i
        · rw [if_pos hj] at hd
          cases hd
          exact absurd hdo ho
        · rw [if_neg hj] at hd
          exact ⟨d, hd, hdo⟩

/-- A booking's entry is freed. -/
theorem Booked.free (h : Booked slot entry sched bind) (i : Nat) (e : PoolEntry) (hi : entry i = some e)
    (hs : ∀ r, slot' r = if r = e.at_ then .free else slot r)
    (he : ∀ j, entry' j = if j = i then none else entry j)
    (hl : ∀ b r, sched' b r =
      if b = e.at_.book ∧ r = e.at_.room then (sched b r).filter (· != i) else sched b r)
    (hb : ∀ o, bind' o = if e.order = some o then none else bind o) : Booked slot' entry' sched' bind' := by
  have hstart : ∀ j, j ≠ i → startIn entry j = startIn entry' j := by
    intro j hj
    unfold startIn
    rw [he, if_neg hj]
  have hin : ∀ b r, i ∈ sched b r → b = e.at_.book ∧ r = e.at_.room := by
    intro b r hm
    obtain ⟨d, hd, h1, h2⟩ := (h.listed b r i).1 hm
    rw [hi] at hd
    cases hd
    exact ⟨h1.symm, h2.symm⟩
  have hlist : ∀ b r j, j ∈ sched' b r ↔ j ∈ sched b r ∧ j ≠ i := by
    intro b r j
    rw [hl]
    split
    · simp
    · rename_i hbr
      exact ⟨fun hj => ⟨hj, fun h0 => hbr (hin b r (h0 ▸ hj))⟩, fun hj => hj.1⟩
  constructor
  · intro r j
    rw [hs]
    by_cases hr : r = e.at_
    · rw [if_pos hr]
      constructor
      · intro h0; cases h0
      · rintro ⟨d, hd, hdr⟩
        rw [he] at hd
        by_cases hj : j = i
        · rw [if_pos hj] at hd; cases hd
        · rw [if_neg hj] at hd
          have h1 := (h.slots r j).2 ⟨d, hd, hdr⟩
          have h2 := (h.slots r i).2 ⟨e, hi, hr.symm⟩
          rw [h1] at h2
          cases h2
          exact absurd rfl hj
    · rw [if_neg hr, h.slots]
      constructor
      · rintro ⟨d, hd, hdr⟩
        refine ⟨d, ?_, hdr⟩
        rw [he, if_neg]
        · exact hd
        · intro h0
          rw [h0, hi] at hd
          cases hd
          exact hr hdr.symm
      · rintro ⟨d, hd, hdr⟩
        rw [he] at hd
        split at hd
        · cases hd
        · exact ⟨d, hd, hdr⟩
  · intro b r j
    rw [hlist, h.listed]
    constructor
    · rintro ⟨⟨d, hd, hdr⟩, hj⟩
      exact ⟨d, by rw [he, if_neg hj]; exact hd, hdr⟩
    · rintro ⟨d, hd, hdr⟩
      rw [he] at hd
      split at hd
      · cases hd
      · rename_i hj
        exact ⟨⟨d, hd, hdr⟩, hj⟩
  · intro b r
    rw [hl]
    split
    · exact (h.once b r).filter _
    · exact h.once b r
  · intro b r
    refine sorted_congr (startIn entry) _ _ (fun j hj => hstart j ((hlist b r j).1 hj).2) ?_
    rw [hl]
    split
    · exact (h.sorted b r).filter _
    · exact h.sorted b r
  · intro j k d f hd hf
    rw [he] at hd hf
    split at hd
    · cases hd
    · split at hf
      · cases hf
      · exact h.apart j k d f hd hf
  · intro j d hd
    rw [he] at hd
    split at hd
    · cases hd
    · exact h.interval j d hd
  · intro o j
    rw [hb]
    split
    · rename_i ho
      constructor
      · intro h0; cases h0
      · rintro ⟨d, hd, hdo⟩
        rw [he] at hd
        split at hd
        · cases hd
        · rename_i hj
          have h1 := (h.bound o j).2 ⟨d, hd, hdo⟩
          have h2 := (h.bound o i).2 ⟨e, hi, ho⟩
          rw [h1] at h2
          cases h2
          exact absurd rfl hj
    · rename_i ho
      rw [h.bound]
      constructor
      · rintro ⟨d, hd, hdo⟩
        refine ⟨d, ?_, hdo⟩
        rw [he, if_neg]
        · exact hd
        · intro h0
          rw [h0, hi] at hd
          cases hd
          exact ho hdo
      · rintro ⟨d, hd, hdo⟩
        rw [he] at hd
        split at hd
        · cases hd
        · exact ⟨d, hd, hdo⟩

/-- A booking's entry changes in place: its slot stays, its new interval meets no other of its room, and its new order is
unbound or its own. -/
theorem Booked.change (h : Booked slot entry sched bind) (i : Nat) (old e : PoolEntry) (hi : entry i = some old)
    (hat : e.at_ = old.at_) (hint : e.start < e.stop)
    (hap : ∀ j d, entry j = some d → d.at_.book = e.at_.book → d.at_.room = e.at_.room → j ≠ i →
      ¬ Overlaps e.start e.stop d.start d.stop)
    (hord : ∀ o, e.order = some o → bind o = none ∨ bind o = some i)
    (hs : ∀ r, slot' r = slot r)
    (he : ∀ j, entry' j = if j = i then some e else entry j)
    (hl : ∀ b r, sched' b r =
      if old.start ≠ e.start ∧ b = e.at_.book ∧ r = e.at_.room then
        insertByStart (startIn entry') i ((sched b r).filter (· != i))
      else sched b r)
    (hb : ∀ o, bind' o = if e.order = some o then some i else if old.order = some o then none else bind o) :
    Booked slot' entry' sched' bind' := by
  have hiff : ∀ (p : PoolEntry → Prop), (p e ↔ p old) →
      ∀ j, (∃ d, entry' j = some d ∧ p d) ↔ ∃ d, entry j = some d ∧ p d := by
    intro p hp j
    rw [he]
    by_cases hj : j = i
    · rw [if_pos hj, hj, hi]
      simp [hp]
    · rw [if_neg hj]
  have hin : ∀ b r, i ∈ sched b r ↔ b = e.at_.book ∧ r = e.at_.room := by
    intro b r
    rw [h.listed, hi, hat]
    constructor
    · rintro ⟨d, hd, h1, h2⟩
      cases hd
      exact ⟨h1.symm, h2.symm⟩
    · rintro ⟨h1, h2⟩
      exact ⟨old, rfl, h1.symm, h2.symm⟩
  have hstart : ∀ j, (j ≠ i ∨ old.start = e.start) → startIn entry j = startIn entry' j := by
    intro j hj
    unfold startIn
    rw [he]
    by_cases h0 : j = i
    · rw [if_pos h0, h0, hi]
      rcases hj with hj | hj
      · exact absurd h0 hj
      · exact hj
    · rw [if_neg h0]
  constructor
  · intro r j
    rw [hs, h.slots, hiff (fun d => d.at_ = r) (by rw [hat])]
  · intro b r j
    rw [hiff (fun d => d.at_.book = b ∧ d.at_.room = r) (by rw [hat]), ← h.listed, hl]
    split
    · rename_i hc
      rw [mem_insertByStart]
      simp only [List.mem_filter, bne_iff_ne, ne_eq]
      constructor
      · rintro (h0 | h0)
        · rw [h0]
          exact (hin b r).2 hc.2
        · exact h0.1
      · intro h0
        by_cases hj : j = i
        · exact .inl hj
        · exact .inr ⟨h0, hj⟩
    · exact Iff.rfl
  · intro b r
    rw [hl]
    split
    · refine insertByStart_nodup _ _ _ ((h.once b r).filter _) ?_
      simp
    · exact h.once b r
  · intro b r
    rw [hl]
    split
    · refine insertByStart_sorted _ _ _ (sorted_congr (startIn entry) _ _ (fun j hj => hstart j (.inl ?_)) ((h.sorted b r).filter _))
      simp only [List.mem_filter, bne_iff_ne, ne_eq] at hj
      exact hj.2
    · rename_i hc
      refine sorted_congr (startIn entry) _ _ (fun j hj => hstart j ?_) (h.sorted b r)
      by_cases hj0 : j = i
      · right
        exact Decidable.byContradiction fun h0 => hc ⟨h0, (hin b r).1 (hj0 ▸ hj)⟩
      · exact .inl hj0
  · intro j k d f hd hf hjk hbk hrm
    rw [he] at hd hf
    by_cases hj : j = i
    · rw [if_pos hj] at hd
      cases hd
      rw [if_neg (fun h0 => hjk (hj.trans h0.symm))] at hf
      exact hap k f hf hbk.symm hrm.symm (fun h0 => hjk (hj.trans h0.symm))
    · rw [if_neg hj] at hd
      by_cases hk : k = i
      · rw [if_pos hk] at hf
        cases hf
        intro ho
        exact hap j d hd hbk hrm hj ⟨ho.2, ho.1⟩
      · rw [if_neg hk] at hf
        exact h.apart j k d f hd hf hjk hbk hrm
  · intro j d hd
    rw [he] at hd
    split at hd
    · cases hd
      exact hint
    · exact h.interval j d hd
  · intro o j
    rw [hb]
    split
    · rename_i ho
      constructor
      · intro h0
        cases h0
        exact ⟨e, by rw [he, if_pos rfl], ho⟩
      · rintro ⟨d, hd, hdo⟩
        rw [he] at hd
        by_cases hj : j = i
        · rw [hj]
        · rw [if_neg hj] at hd
          have h1 := (h.bound o j).2 ⟨d, hd, hdo⟩
          rcases hord o ho with h2 | h2
          · rw [h1] at h2; cases h2
          · rw [h1] at h2
            exact h2.symm
    · rename_i ho
      split
      · rename_i hold
        constructor
        · intro h0; cases h0
        · rintro ⟨d, hd, hdo⟩
          rw [he] at hd
          by_cases hj : j = i
          · rw [if_pos hj] at hd
            cases hd
            exact absurd hdo ho
          · rw [if_neg hj] at hd
            have h1 := (h.bound o j).2 ⟨d, hd, hdo⟩
            have h2 := (h.bound o i).2 ⟨old, hi, hold⟩
            rw [h1] at h2
            cases h2
            exact absurd rfl hj
      · rename_i hold
        rw [h.bound]
        exact (hiff (fun d => d.order = some o) (by constructor <;> intro h0 <;> contradiction) j).symm

end Changes

/-! ### The law over a state, with what may stand open between two updates of one command -/

/-- Every bound order is HELD, but for the one whose attach notice is still to come. -/
def BoundHeld (pend : Option OrderIx) (s : State) : Prop := ∀ o, s.binding o ≠ none → s.orderEntry o ≠ none ∨ pend = some o

/-- `PassAgrees`, but that the cursor's own slot may be LIVE only with `ex`, and then whatever the claim. -/
def PassBut (ex : Bool) (s : State) : Prop :=
  s.bsc.pass = .clean ∨ s.bsc.pass = .keep →
    (∀ r i, s.slotState r = .live i → SlotBehind s r ∨ (r = s.bsc.cursor ∧ ex = true))
    ∧ (∀ a stage, s.adu.claim = some (.admission a stage) → CursorHasPassed s a.book a.room)
    ∧ ∀ ev, s.atu.panelEvent = some ev → CursorHasPassed s s.clock.today ev.room

/-- The booking side agrees, but for what `ex`, `cl` and `pend` leave open; with `out`, outside SETUP. -/
structure Side (out ex cl : Bool) (pend : Option OrderIx) (s : State) : Prop where
  tidy   : Tidy s
  booked : Booked s.slotState s.entry s.schedule s.binding
  held   : BoundHeld pend s
  claim  : cl = true → ClaimAgrees s
  pass   : PassBut ex s
  setup  : SetupAgrees s
  events : PanelEventsAgree s
  out    : out = true → s.ctu.phase ≠ .setup

/-- A KEEP visit is writing. -/
def KeepWriting (s : State) : Prop := ∃ q rebuilt todo, s.adu.claim = some (.keepWriting q rebuilt todo)

theorem Side.agrees {out ex : Bool} {s : State} (h : Side out ex true none s) (hx : ex = true → KeepWriting s) :
    BookingSideAgrees s := by
  have hb := h.booked
  refine ⟨⟨hb.slots, hb.listed, fun b r => ⟨hb.once b r, hb.sorted b r⟩, hb.apart, hb.interval, hb.bound, fun o ho => ?_⟩,
    h.claim rfl, fun hp => ⟨fun r i hr => ?_, (h.pass hp).2⟩, h.setup, h.events⟩
  · exact (h.held o ho).elim id fun h0 => by cases h0
  · exact ((h.pass hp).1 r i hr).imp id fun ⟨h1, h2⟩ => ⟨h1, hx h2⟩

theorem Side.of_agrees {ex : Bool} {s : State} (ht : Tidy s) (h : BookingSideAgrees s) (hx : KeepWriting s → ex = true) :
    Side false ex true none s := by
  obtain ⟨⟨h1, h2, h3, h4, h5, h6, h7⟩, hc, hp, hs, he⟩ := h
  refine ⟨ht, ⟨h1, h2, fun b r => (h3 b r).1, fun b r => (h3 b r).2, h4, h5, h6⟩, fun o ho => .inl (h7 o ho), fun _ => hc,
    fun hpass => ⟨fun r i hr => ?_, (hp hpass).2⟩, hs, he, fun h0 => by cases h0⟩
  exact ((hp hpass).1 r i hr).imp id fun ⟨h1, h2⟩ => ⟨h1, hx h2⟩

/-- What stands open may grow. -/
theorem Side.mono {out ex ex' cl cl' : Bool} {pend : Option OrderIx} {s : State} (h : Side out ex cl none s)
    (he : ex = true → ex' = true) (hc : cl' = true → cl = true) : Side out ex' cl' pend s where
  tidy := h.tidy
  booked := h.booked
  held o ho := (h.held o ho).elim .inl fun h0 => by cases h0
  claim h0 := h.claim (hc h0)
  pass hp := ⟨fun r i hr => ((h.pass hp).1 r i hr).imp id fun ⟨h1, h2⟩ => ⟨h1, he h2⟩, (h.pass hp).2⟩
  setup := h.setup
  events := h.events
  out := h.out

/-- The attach notice has come. -/
theorem Side.attached {out ex cl : Bool} {pend : Option OrderIx} {s : State} (h : Side out ex cl pend s)
    (ho : ∀ o, pend = some o → s.orderEntry o ≠ none) : Side out ex cl none s :=
  { h with held := fun o h0 => (h.held o h0).elim .inl fun h1 => .inl (ho o h1) }

/-- The claim in progress agrees again. -/
theorem Side.reclaim {out ex cl : Bool} {pend : Option OrderIx} {s : State} (h : Side out ex cl pend s) (hc : ClaimAgrees s) :
    Side out ex true pend s :=
  { h with claim := fun _ => hc }

theorem State.liveIndex_eq (s : State) (r : SlotRef) (i : Nat) : s.liveIndex r = some i ↔ s.slotState r = .live i := by
  unfold State.liveIndex
  split <;> simp_all

theorem State.liveIndex_none (s : State) (r : SlotRef) : s.liveIndex r = none ↔ ∀ i, s.slotState r ≠ .live i := by
  unfold State.liveIndex
  split <;> simp_all

/-! ### Operations that leave the bookings alone -/

section KeepsSide
variable {base t : State}

theorem Keeps.entry (k : Keeps base t) (i : Nat) (e : PoolEntry) (h : t.entry i = some e) :
    ∃ d, base.entry i = some d ∧ d.at_ = e.at_ ∧ d.start = e.start ∧ d.stop = e.stop ∧ d.order = e.order := by
  have := k.shape i
  rw [h] at this
  cases hd : base.entry i with
  | none => rw [hd] at this; simp at this
  | some d =>
    rw [hd] at this
    simp only [Option.map_some, Option.some.injEq, PoolEntry.shape, Prod.mk.injEq] at this
    exact ⟨d, rfl, this.1.symm, this.2.1.symm, this.2.2.1.symm, this.2.2.2.symm⟩

theorem Keeps.entry_back (k : Keeps base t) (i : Nat) (e : PoolEntry) (h : base.entry i = some e) :
    ∃ d, t.entry i = some d ∧ d.at_ = e.at_ ∧ d.start = e.start ∧ d.stop = e.stop ∧ d.order = e.order := by
  have := k.shape i
  rw [h] at this
  cases hd : t.entry i with
  | none => rw [hd] at this; simp at this
  | some d =>
    rw [hd] at this
    simp only [Option.map_some, Option.some.injEq, PoolEntry.shape, Prod.mk.injEq] at this
    exact ⟨d, rfl, this.1, this.2.1, this.2.2.1, this.2.2.2⟩

theorem Keeps.liveIndex (k : Keeps base t) (r : SlotRef) : t.liveIndex r = base.liveIndex r := by
  cases h : base.liveIndex r with
  | none =>
    rw [State.liveIndex_none] at h ⊢
    exact fun i hi => h i ((k.live r i).1 hi)
  | some i =>
    rw [State.liveIndex_eq] at h ⊢
    exact (k.live r i).2 h

theorem Keeps.schedule (k : Keeps base t) : t.schedule = base.schedule := by
  funext b r
  unfold State.schedule
  rw [k.schedules]

theorem Keeps.binding (k : Keeps base t) : t.binding = base.binding := by
  funext o
  unfold State.binding
  rw [k.bindings]

theorem Keeps.startOf (k : Keeps base t) (i : Nat) : startIn t.entry i = startIn base.entry i := by
  unfold startIn
  cases h : t.entry i with
  | none =>
    cases h1 : base.entry i with
    | none => rfl
    | some e =>
      obtain ⟨d, hd, _⟩ := k.entry_back i e h1
      rw [h] at hd
      cases hd
  | some e =>
    obtain ⟨d, hd, _, hs, _⟩ := k.entry i e h
    rw [hd]
    exact hs.symm

theorem Keeps.booked (k : Keeps base t) (h : Booked base.slotState base.entry base.schedule base.binding) :
    Booked t.slotState t.entry t.schedule t.binding := by
  rw [k.schedule, k.binding]
  constructor
  · intro r i
    rw [k.live, h.slots]
    constructor
    · rintro ⟨e, he, hr⟩
      obtain ⟨d, hd, h1, _⟩ := k.entry_back i e he
      exact ⟨d, hd, h1.trans hr⟩
    · rintro ⟨e, he, hr⟩
      obtain ⟨d, hd, h1, _⟩ := k.entry i e he
      exact ⟨d, hd, h1.trans hr⟩
  · intro b r i
    rw [h.listed]
    constructor
    · rintro ⟨e, he, hr⟩
      obtain ⟨d, hd, h1, _⟩ := k.entry_back i e he
      exact ⟨d, hd, h1 ▸ hr⟩
    · rintro ⟨e, he, hr⟩
      obtain ⟨d, hd, h1, _⟩ := k.entry i e he
      exact ⟨d, hd, h1 ▸ hr⟩
  · exact h.once
  · intro b r
    exact sorted_congr _ _ _ (fun j _ => (k.startOf j).symm) (h.sorted b r)
  · intro i j e d he hd hij hb hr
    obtain ⟨e', he', h1, h2, h3, _⟩ := k.entry i e he
    obtain ⟨d', hd', h4, h5, h6, _⟩ := k.entry j d hd
    rw [← h2, ← h3, ← h5, ← h6]
    exact h.apart i j e' d' he' hd' hij (by rw [h1, h4]; exact hb) (by rw [h1, h4]; exact hr)
  · intro i e he
    obtain ⟨d, hd, _, h2, h3, _⟩ := k.entry i e he
    rw [← h2, ← h3]
    exact h.interval i d hd
  · intro o i
    rw [h.bound]
    constructor
    · rintro ⟨e, he, hr⟩
      obtain ⟨d, hd, _, _, _, h1⟩ := k.entry_back i e he
      exact ⟨d, hd, h1.trans hr⟩
    · rintro ⟨e, he, hr⟩
      obtain ⟨d, hd, _, _, _, h1⟩ := k.entry i e he
      exact ⟨d, hd, h1.trans hr⟩

theorem Keeps.outcome (k : Keeps base t) (a : Admission) (o : Judgement) (h : OutcomeAgrees base a o) :
    OutcomeAgrees t a o := by
  unfold OutcomeAgrees at h ⊢
  split
  · trivial
  · trivial
  · rename_i e ns
    simp only at h
    refine ⟨h.1, h.2.1, fun i d hd hb hr hne => ?_, fun o ho => ?_⟩
    · obtain ⟨d', hd', h1, h2, h3, _⟩ := k.entry i d hd
      rw [← h2, ← h3]
      exact h.2.2.1 i d' hd' (by rw [h1]; exact hb) (by rw [h1]; exact hr) (by rw [← k.liveIndex]; exact hne)
    · rw [k.binding, k.liveIndex]
      exact h.2.2.2 o ho

theorem Keeps.claimAgrees (k : Keeps base t) (h : ClaimAgrees base) : ClaimAgrees t := by
  unfold ClaimAgrees at h ⊢
  rw [k.claim, k.pass, k.cursor]
  cases hc : base.adu.claim with
  | none => trivial
  | some c =>
    rw [hc] at h
    cases c with
    | admission a stage =>
      cases stage with
      | proposal got => exact h
      | readBack j got => exact k.outcome a _ h
      | writing j back todo second => exact k.outcome a _ h
    | keepReading r taken got => exact h
    | _ => trivial

/-- An operation that leaves the bookings alone keeps the booking side. -/
theorem Keeps.side {out ex cl : Bool} {pend : Option OrderIx} (k : Keeps base t) (h : Side out ex cl pend base) :
    Side out ex cl pend t where
  out h0 := by rw [k.phase]; exact h.out h0
  tidy := k.tidy
  booked := k.booked h.booked
  held o ho := by
    rw [k.binding] at ho
    exact (h.held o ho).imp (k.held o) id
  claim hc := k.claimAgrees (h.claim hc)
  pass hp := by
    rw [k.pass] at hp
    obtain ⟨h1, h2, h3⟩ := h.pass hp
    unfold SlotBehind CursorHasPassed at *
    rw [k.pass, k.cursor, k.claim]
    refine ⟨fun r i hr => h1 r i ((k.live r i).1 hr), h2, fun ev hev => ?_⟩
    rcases k.event with h4 | h4
    · rw [h4] at hev
      cases hev
    · rw [h4] at hev
      rcases k.today with h5 | h5
      · rw [h5]
        exact h3 ev hev
      · have := (h.setup h5).2.1.2.2.2.1
        rw [this] at hev
        cases hev
  setup hp := by
    rw [k.phase] at hp
    obtain ⟨h1, ⟨h2, h3, h4, h5, h6⟩, h7⟩ := h.setup hp
    refine ⟨fun r i hr => h1 r i ((k.live r i).1 hr), ⟨k.claim.trans h2, k.request hp h3, k.minute hp h4, ?_, k.noEvents hp h6⟩,
      fun l => k.idle hp l (h7 l)⟩
    rcases k.event with h8 | h8
    · exact h8
    · exact h8.trans h5
  events ev hev hb := by
    rcases hev with hev | hev
    · rcases k.events ev hev with h1 | h1
      · exact h.events ev (.inl h1) hb
      · exact h1 hb
    · rcases k.event with h8 | h8
      · rw [h8] at hev
        cases hev
      · rw [h8] at hev
        exact h.events ev (.inr hev) hb

end KeepsSide

/-- The claim in progress changes. -/
theorem Side.withClaim {ex cl cl' : Bool} {pend : Option OrderIx} {s : State} (c : Option Claim) (h : Side true ex cl pend s)
    (hc : cl' = true → ClaimAgrees (s.onAdu fun a => { a with claim := c }))
    (ha : s.bsc.pass = .clean ∨ s.bsc.pass = .keep → ∀ a stage, c = some (.admission a stage) → CursorHasPassed s a.book a.room) :
    Side true ex cl' pend (s.onAdu fun a => { a with claim := c }) where
  tidy := ⟨h.tidy.pool, h.tidy.schedules, h.tidy.slotMap, h.tidy.bindings, h.tidy.entries, h.tidy.loops⟩
  booked := h.booked
  held := h.held
  claim := hc
  pass hpass := ⟨(h.pass hpass).1, ha hpass, (h.pass hpass).2.2⟩
  setup h0 := absurd h0 (h.out rfl)
  events := h.events
  out := h.out

/-! ### The three changes of a booking -/

theorem scheduleKey_inj (b c : Book) (r q : Room) : scheduleKey b r = scheduleKey c q ↔ b = c ∧ r = q := by
  have h1 := r.isLt
  have h2 := q.isLt
  constructor
  · intro h
    unfold scheduleKey at h
    cases b <;> cases c <;> simp only at h <;>
      first
        | exact ⟨rfl, Fin.ext (by omega)⟩
        | omega
  · rintro ⟨rfl, rfl⟩
    rfl

/-- The bindings after a change of the order of entry `i`. -/
def rebound (t : Table (Option Nat)) (i : Nat) (old new : Option OrderIx) : Table (Option Nat) :=
  let t := match old with | none => t | some o => Table.set none t o.val none
  match new with | none => t | some o => Table.set none t o.val (some i)

theorem State.takeEntry_eq (s : State) (e : PoolEntry) (i : Nat) (rest : List Nat) (hf : s.adu.freeList = i :: rest) :
    s.takeEntry e =
      s.onAdu fun a =>
        { a with
          freeList := rest
          pool := Table.set none a.pool i (some e)
          schedules :=
            Table.set [] a.schedules (scheduleKey e.at_.book e.at_.room)
              (insertByStart (startIn (Table.get none (Table.set none a.pool i (some e)))) i
                (Table.get [] a.schedules (scheduleKey e.at_.book e.at_.room)))
          slotMap := Table.set .free a.slotMap e.at_.key (.live i)
          bindings := rebound a.bindings i none e.order } := by
  unfold State.takeEntry rebound
  rw [hf]
  dsimp only
  cases e.order <;> rfl

theorem State.freeEntry_eq (s : State) (i : Nat) (e : PoolEntry) (hi : s.entry i = some e) :
    s.freeEntry i =
      s.onAdu fun a =>
        { a with
          freeList := a.freeList ++ [i]
          pool := Table.set none a.pool i none
          schedules :=
            Table.set [] a.schedules (scheduleKey e.at_.book e.at_.room)
              ((Table.get [] a.schedules (scheduleKey e.at_.book e.at_.room)).filter (· != i))
          slotMap := Table.set .free a.slotMap e.at_.key .free
          bindings := rebound a.bindings i e.order none } := by
  unfold State.freeEntry rebound
  rw [hi]
  dsimp only
  cases e.order <;> rfl

theorem State.changeEntry_eq (s : State) (i : Nat) (old e : PoolEntry) (hi : s.entry i = some old) :
    s.changeEntry i e =
      s.onAdu fun a =>
        { a with
          pool := Table.set none a.pool i (some e)
          schedules :=
            if old.start = e.start then a.schedules
            else
              Table.set [] a.schedules (scheduleKey e.at_.book e.at_.room)
                (insertByStart (startIn (Table.get none (Table.set none a.pool i (some e)))) i
                  ((Table.get [] a.schedules (scheduleKey e.at_.book e.at_.room)).filter (· != i)))
          bindings := rebound a.bindings i old.order e.order } := by
  unfold State.changeEntry rebound
  rw [hi]
  dsimp only
  by_cases h : old.start = e.start
  · rw [if_pos h]
    cases old.order <;> cases e.order <;> simp only [h, if_true] <;> rfl
  · rw [if_neg h]
    cases old.order <;> cases e.order <;> simp only [h, if_false] <;> rfl

section Tables
variable {s : State} (ht : Tidy s)
include ht

theorem Tidy.free_none (i : Nat) (rest : List Nat) (hf : s.adu.freeList = i :: rest) : s.entry i = none :=
  ((ht.pool.2.2.1 i).1 (by rw [hf]; exact List.mem_cons_self ..)).2

theorem Tidy.slot_set (r q : SlotRef) (v : SlotState) :
    Table.get .free (Table.set .free s.adu.slotMap r.key v) q.key = if q = r then v else s.slotState q := by
  rw [Table.get_set _ _ _ _ _ ht.slotMap]
  by_cases h : q = r
  · rw [if_pos h, if_pos (by rw [h])]
  · rw [if_neg h, if_neg (fun h0 => h (SlotRef.key_inj q r h0))]
    rfl

theorem Tidy.entry_set (i j : Nat) (v : Option PoolEntry) :
    Table.get none (Table.set none s.adu.pool i v) j = if j = i then v else s.entry j :=
  Table.get_set _ _ _ _ _ ht.pool.1

theorem Tidy.schedule_set (b c : Book) (r q : Room) (l : List Nat) :
    Table.get [] (Table.set [] s.adu.schedules (scheduleKey b r) l) (scheduleKey c q) =
      if c = b ∧ q = r then l else s.schedule c q := by
  rw [Table.get_set _ _ _ _ _ ht.schedules]
  by_cases h : c = b ∧ q = r
  · rw [if_pos h, if_pos ((scheduleKey_inj ..).2 h)]
  · rw [if_neg h, if_neg (fun h0 => h ((scheduleKey_inj ..).1 h0))]
    rfl

theorem Tidy.rebound_wf (i : Nat) (old new : Option OrderIx) : Table.wf none (rebound s.adu.bindings i old new) = true := by
  unfold rebound
  cases old <;> cases new <;> dsimp only
  · exact ht.bindings
  · exact Table.wf_set _ _ _ _ ht.bindings
  · exact Table.wf_set _ _ _ _ ht.bindings
  · exact Table.wf_set _ _ _ _ (Table.wf_set _ _ _ _ ht.bindings)

theorem Tidy.rebound_get (i : Nat) (old new : Option OrderIx) (p : OrderIx) :
    Table.get none (rebound s.adu.bindings i old new) p.val =
      if new = some p then some i else if old = some p then none else s.binding p := by
  have hset : ∀ (t : Table (Option Nat)) (o : OrderIx) v, Table.wf none t = true →
      Table.get none (Table.set none t o.val v) p.val = if some o = some p then v else Table.get none t p.val := by
    intro t o v hw
    rw [Table.get_set _ _ _ _ _ hw]
    by_cases h : o = p
    · rw [if_pos (by rw [h]), if_pos (by rw [h])]
    · rw [if_neg (fun h0 => h (Fin.ext h0.symm)), if_neg (fun h0 => h (Option.some.inj h0))]
  unfold rebound
  cases old <;> cases new <;> dsimp only
  · simp only [reduceCtorEq, if_false]
    rfl
  · rw [hset _ _ _ ht.bindings]
    simp only [reduceCtorEq, if_false]
    rfl
  · rw [hset _ _ _ ht.bindings]
    simp only [reduceCtorEq, if_false]
    rfl
  · rw [hset _ _ _ (Table.wf_set _ _ _ _ ht.bindings), hset _ _ _ ht.bindings]
    rfl

end Tables

/-- A booking is taken. -/
theorem Side.takeEntry {ex ex' cl : Bool} {s : State} (e : PoolEntry) (h : Side true ex cl none s)
    (hslot : ∀ j, s.slotState e.at_ ≠ .live j) (hint : e.start < e.stop)
    (hap : ∀ j d, s.entry j = some d → d.at_.book = e.at_.book → d.at_.room = e.at_.room →
      ¬ Overlaps e.start e.stop d.start d.stop)
    (hord : ∀ o, e.order = some o → s.binding o = none) (hex : ex = true → ex' = true)
    (hpass : s.bsc.pass = .clean ∨ s.bsc.pass = .keep → SlotBehind s e.at_ ∨ (e.at_ = s.bsc.cursor ∧ ex' = true)) :
    Side true ex' false e.order (s.takeEntry e) := by
  cases hf : s.adu.freeList with
  | nil =>
    have : s.takeEntry e = s := by unfold State.takeEntry; rw [hf]
    rw [this]
    exact h.mono hex (by simp)
  | cons i rest =>
    have hpool := State.takeEntry_pool s e h.tidy.pool
    rw [State.takeEntry_eq s e i rest hf] at hpool ⊢
    have hi := h.tidy.free_none i rest hf
    have hwb := h.tidy.rebound_wf i none e.order
    have hsl := h.tidy.slot_set e.at_
    have hbind : ∀ o, Table.get none (rebound s.adu.bindings i none e.order) o.val = if e.order = some o then some i else s.binding o :=
      fun o => by simpa using h.tidy.rebound_get i none e.order o
    refine
      { tidy := ⟨hpool, Table.wf_set _ _ _ _ h.tidy.schedules, Table.wf_set _ _ _ _ h.tidy.slotMap, hwb, h.tidy.entries, h.tidy.loops⟩
        booked := h.booked.take i e hi hslot hint hap hord (fun r => hsl r _) (fun j => h.tidy.entry_set i j _)
          (fun b r => ?_) hbind
        held := fun o ho => ?_
        claim := fun h0 => by cases h0
        pass := fun hps => ?_
        setup := fun h0 => absurd h0 (h.out rfl)
        events := h.events
        out := h.out }
    · refine (h.tidy.schedule_set e.at_.book b e.at_.room r _).trans ?_
      split
      · rename_i hbr
        rw [hbr.1, hbr.2]
        rfl
      · rfl
    · have ho' : (if e.order = some o then some i else s.binding o) ≠ none := by rw [← hbind]; exact ho
      split at ho'
      · rename_i h0
        exact .inr h0
      · exact .inl ((h.held o ho').elim id fun h0 => by cases h0)
    · obtain ⟨h1, h2, h3⟩ := h.pass hps
      refine ⟨fun r j hr => ?_, h2, h3⟩
      have hr' : (if r = e.at_ then SlotState.live i else s.slotState r) = .live j := by rw [← hsl]; exact hr
      split at hr'
      · rename_i h0
        rw [h0]
        exact hpass hps
      · exact (h1 r j hr').imp id fun ⟨h4, h5⟩ => ⟨h4, hex h5⟩

/-- A booking dies. -/
theorem Side.freeEntry {out ex cl : Bool} {pend : Option OrderIx} {s : State} (i : Nat) (h : Side out ex cl pend s) :
    Side out ex false pend (s.freeEntry i) := by
  cases hi : s.entry i with
  | none =>
    have : s.freeEntry i = s := by unfold State.freeEntry; rw [hi]
    rw [this]
    exact { h with claim := fun h0 => by cases h0 }
  | some e =>
    have hpool := State.freeEntry_pool s i h.tidy.pool
    rw [State.freeEntry_eq s i e hi] at hpool ⊢
    have hwb := h.tidy.rebound_wf i e.order none
    have hsl := h.tidy.slot_set e.at_
    have hbind : ∀ o, Table.get none (rebound s.adu.bindings i e.order none) o.val = if e.order = some o then none else s.binding o :=
      fun o => by simpa using h.tidy.rebound_get i e.order none o
    have hlive : ∀ r j, Table.get .free (Table.set .free s.adu.slotMap e.at_.key .free) r.key = .live j → s.slotState r = .live j := by
      intro r j hr
      have hr' := (hsl r _).symm.trans hr
      split at hr'
      · cases hr'
      · exact hr'
    refine
      { tidy := ⟨hpool, Table.wf_set _ _ _ _ h.tidy.schedules, Table.wf_set _ _ _ _ h.tidy.slotMap, hwb, h.tidy.entries, h.tidy.loops⟩
        booked := h.booked.free i e hi (fun r => hsl r _) (fun j => h.tidy.entry_set i j _) (fun b r => ?_) hbind
        held := fun o ho => ?_
        claim := fun h0 => by cases h0
        pass := fun hps => ⟨fun r j hr => (h.pass hps).1 r j (hlive r j hr), (h.pass hps).2⟩
        setup := fun hs => ⟨fun r j hr => (h.setup hs).1 r j (hlive r j hr), (h.setup hs).2⟩
        events := h.events
        out := h.out }
    · refine (h.tidy.schedule_set e.at_.book b e.at_.room r _).trans ?_
      split
      · rename_i hbr
        rw [hbr.1, hbr.2]
        rfl
      · rfl
    · have ho' : (if e.order = some o then none else s.binding o) ≠ none := by rw [← hbind]; exact ho
      split at ho'
      · exact absurd rfl ho'
      · exact h.held o ho'

/-- A booking changes in place. -/
theorem Side.changeEntry {out ex cl : Bool} {s : State} (i : Nat) (old e : PoolEntry) (h : Side out ex cl none s)
    (hi : s.entry i = some old)
    (hat : e.at_ = old.at_) (hint : e.start < e.stop)
    (hap : ∀ j d, s.entry j = some d → d.at_.book = e.at_.book → d.at_.room = e.at_.room → j ≠ i →
      ¬ Overlaps e.start e.stop d.start d.stop)
    (hord : ∀ o, e.order = some o → s.binding o = none ∨ s.binding o = some i) :
    Side out ex false e.order (s.changeEntry i e) := by
  have hpool := State.changeEntry_pool s i e h.tidy.pool
  rw [State.changeEntry_eq s i old e hi] at hpool ⊢
  have hwb := h.tidy.rebound_wf i old.order e.order
  have hbind := h.tidy.rebound_get i old.order e.order
  have hws : Table.wf [] (if old.start = e.start then s.adu.schedules
      else Table.set [] s.adu.schedules (scheduleKey e.at_.book e.at_.room)
        (insertByStart (startIn (Table.get none (Table.set none s.adu.pool i (some e)))) i
          ((Table.get [] s.adu.schedules (scheduleKey e.at_.book e.at_.room)).filter (· != i)))) = true := by
    split
    · exact h.tidy.schedules
    · exact Table.wf_set _ _ _ _ h.tidy.schedules
  refine
    { tidy := ⟨hpool, hws, h.tidy.slotMap, hwb, h.tidy.entries, h.tidy.loops⟩
      booked := h.booked.change i old e hi hat hint hap hord (fun r => rfl) (fun j => h.tidy.entry_set i j _) (fun b r => ?_) hbind
      held := fun o ho => ?_
      claim := fun h0 => by cases h0
      pass := h.pass
      setup := h.setup
      events := h.events
      out := h.out }
  · show Table.get [] (if old.start = e.start then s.adu.schedules else _) (scheduleKey b r) = _
    by_cases h0 : old.start = e.start
    · rw [if_pos h0, if_neg (fun h2 => h2.1 h0)]
      rfl
    · rw [if_neg h0, h.tidy.schedule_set e.at_.book b e.at_.room r]
      by_cases hbr : b = e.at_.book ∧ r = e.at_.room
      · rw [if_pos hbr, if_pos ⟨h0, hbr⟩, hbr.1, hbr.2]
        rfl
      · rw [if_neg hbr, if_neg (fun h2 => hbr h2.2)]
  · have ho' : (if e.order = some o then some i else if old.order = some o then none else s.binding o) ≠ none := by
      rw [← hbind]; exact ho
    split at ho'
    · rename_i h0
      exact .inr h0
    · split at ho'
      · exact absurd rfl ho'
      · exact .inl ((h.held o ho').elim id fun h0 => by cases h0)

end Sys2Proof.Machine
end

