-- ==== Sys2Proof/Laws/Canonical.lean ====
section
/-! SUPPORT. Every operation keeps the tables in their canonical form (`TablesCanonical`). One lemma per operation. -/

namespace Sys2Proof.Machine

/-- A fold of operations that keep the tables canonical keeps them so. -/
theorem foldl_tables {β : Type} (f : State → β → State) (hf : ∀ s b, TablesCanonical s → TablesCanonical (f s b))
    (l : List β) (s : State) (h : TablesCanonical s) : TablesCanonical (l.foldl f s) := by
  induction l generalizing s with
  | nil => exact h
  | cons b l ih => exact ih _ (hf s b h)

/-- The tables after reset are canonical. -/
theorem TablesCanonical.reset : TablesCanonical State.reset := by
  simp [TablesCanonical, State.reset, Table.wf, Table.wfFrom]

theorem State.onMps_tables (s : State) (f : Mps → Mps) (hl : (f s.mps).locked = s.mps.locked) (h : TablesCanonical s) :
    TablesCanonical (s.onMps f) := by
  unfold TablesCanonical at h ⊢
  rw [State.onMps_mps, hl]
  exact h

theorem State.onCtu_tables (s : State) (f : Ctu → Ctu) (hd : (f s.ctu).directory = s.ctu.directory)
    (h : TablesCanonical s) : TablesCanonical (s.onCtu f) := by
  unfold TablesCanonical at h ⊢
  rw [State.onCtu_ctu, hd]
  exact h

theorem State.onAdu_tables (s : State) (f : Adu → Adu) (h1 : (f s.adu).pool = s.adu.pool)
    (h2 : (f s.adu).schedules = s.adu.schedules) (h3 : (f s.adu).slotMap = s.adu.slotMap)
    (h4 : (f s.adu).bindings = s.adu.bindings) (h5 : (f s.adu).drafts = s.adu.drafts) (h : TablesCanonical s) :
    TablesCanonical (s.onAdu f) := by
  unfold TablesCanonical at h ⊢
  rw [State.onAdu_adu, h1, h2, h3, h4, h5]
  exact h

theorem State.onPlu_tables (s : State) (f : Plu → Plu) (h1 : (f s.plu).loops = s.plu.loops)
    (h2 : (f s.plu).panels = s.plu.panels) (h : TablesCanonical s) : TablesCanonical (s.onPlu f) := by
  unfold TablesCanonical at h ⊢
  rw [State.onPlu_plu, h1, h2]
  exact h

theorem State.onOcf_tables (s : State) (f : Ocf → Ocf) (h1 : (f s.ocf).filters = s.ocf.filters)
    (h : TablesCanonical s) : TablesCanonical (s.onOcf f) := by
  unfold TablesCanonical at h ⊢
  rw [State.onOcf_ocf, h1]
  exact h

theorem State.onAtu_tables (s : State) (f : Atu → Atu) (h1 : (f s.atu).rooms = s.atu.rooms)
    (h2 : (f s.atu).reports = s.atu.reports) (h3 : (f s.atu).returns = s.atu.returns) (h : TablesCanonical s) :
    TablesCanonical (s.onAtu f) := by
  unfold TablesCanonical at h ⊢
  rw [State.onAtu_atu, h1, h2, h3]
  exact h

theorem State.onCqu_tables (s : State) (f : Cqu → Cqu) (h1 : (f s.cqu).entries = s.cqu.entries)
    (h : TablesCanonical s) : TablesCanonical (s.onCqu f) := by
  unfold TablesCanonical at h ⊢
  rw [State.onCqu_cqu, h1]
  exact h

/-- A table whose entries are filtered stays canonical. -/
theorem Table.wfFrom_filter {α : Type} [DecidableEq α] (d : α) (p : Nat × α → Bool) (t : Table α) (lo : Option Nat)
    (h : Table.wfFrom d lo t = true) : Table.wfFrom d lo (t.filter p) = true := by
  induction t generalizing lo with
  | nil => exact h
  | cons x t ih =>
    obtain ⟨k, v⟩ := x
    have h' := (Table.wfFrom_cons d lo k v t).1 h
    rw [List.filter_cons]
    split
    · exact (Table.wfFrom_cons d lo k v _).2 ⟨h'.1, h'.2.1, ih (some k) h'.2.2⟩
    · refine ih lo (Table.wfFrom_weaken d (some k) lo t h'.2.2 ?_)
      intro l hl
      exact ⟨k, rfl, Nat.le_of_lt (h'.1 l hl)⟩

/-- Applying a draft notice keeps the two tables canonical. -/
theorem Adu.applyDraft_wf (a : Adu) (k : Nat) (h1 : Table.wf .free a.slotMap = true) (h2 : Table.wf false a.drafts = true) :
    Table.wf .free (a.applyDraft k).slotMap = true ∧ Table.wf false (a.applyDraft k).drafts = true :=
  ⟨Table.wf_set _ _ _ _ h1, Table.wf_set _ _ _ _ h2⟩

theorem State.onClock_tables (s : State) (f : Clock → Clock) (h : TablesCanonical s) : TablesCanonical (s.onClock f) := h
theorem State.onBsc_tables (s : State) (f : Bsc → Bsc) (h : TablesCanonical s) : TablesCanonical (s.onBsc f) := h
theorem State.onKlc_tables (s : State) (f : Klc → Klc) (h : TablesCanonical s) : TablesCanonical (s.onKlc f) := h

/-- Arbitration leaves the locked-order set. -/
theorem Mps.arbitrate_locked (m : Mps) : m.arbitrate.locked = m.locked := by
  unfold Mps.arbitrate
  split
  · rfl
  · split <;> rfl

theorem State.arbitrate_tables (s : State) (h : TablesCanonical s) : TablesCanonical (s.onMps Mps.arbitrate) :=
  State.onMps_tables _ _ (Mps.arbitrate_locked _) h


theorem State.setSlot_tables (s : State) (r : SlotRef) (v : SlotState)
    (h : TablesCanonical s) : TablesCanonical (State.setSlot s r v) := by
  obtain ⟨hl, hd, ⟨h1, h2, h3, h4, h5⟩, ⟨h6, h7⟩, h8, ⟨h9, h10, h11⟩, h12⟩ := h
  exact ⟨hl, hd, ⟨h1, h2, Table.wf_set _ _ _ _ h3, h4, h5⟩, ⟨h6, h7⟩, h8, ⟨h9, h10, h11⟩, h12⟩

theorem State.setEntry_tables (s : State) (i : Nat) (e : Option PoolEntry)
    (h : TablesCanonical s) : TablesCanonical (State.setEntry s i e) := by
  obtain ⟨hl, hd, ⟨h1, h2, h3, h4, h5⟩, ⟨h6, h7⟩, h8, ⟨h9, h10, h11⟩, h12⟩ := h
  exact ⟨hl, hd, ⟨Table.wf_set _ _ _ _ h1, h2, h3, h4, h5⟩, ⟨h6, h7⟩, h8, ⟨h9, h10, h11⟩, h12⟩

theorem State.setSchedule_tables (s : State) (b : Book) (r : Room) (l : List Nat)
    (h : TablesCanonical s) : TablesCanonical (State.setSchedule s b r l) := by
  obtain ⟨hl, hd, ⟨h1, h2, h3, h4, h5⟩, ⟨h6, h7⟩, h8, ⟨h9, h10, h11⟩, h12⟩ := h
  exact ⟨hl, hd, ⟨h1, Table.wf_set _ _ _ _ h2, h3, h4, h5⟩, ⟨h6, h7⟩, h8, ⟨h9, h10, h11⟩, h12⟩

theorem State.setBinding_tables (s : State) (o : OrderIx) (v : Option Nat)
    (h : TablesCanonical s) : TablesCanonical (State.setBinding s o v) := by
  obtain ⟨hl, hd, ⟨h1, h2, h3, h4, h5⟩, ⟨h6, h7⟩, h8, ⟨h9, h10, h11⟩, h12⟩ := h
  exact ⟨hl, hd, ⟨h1, h2, h3, Table.wf_set _ _ _ _ h4, h5⟩, ⟨h6, h7⟩, h8, ⟨h9, h10, h11⟩, h12⟩

theorem State.unbind_tables (s : State) (x : Option OrderIx)
    (h : TablesCanonical s) : TablesCanonical (State.unbind s x) := by
  cases x <;> simp only [State.unbind] <;> first | exact h | exact State.setBinding_tables _ _ _ h

theorem State.bind_tables (s : State) (i : Nat) (x : Option OrderIx)
    (h : TablesCanonical s) : TablesCanonical (State.bind s i x) := by
  cases x <;> simp only [State.bind] <;> first | exact h | exact State.setBinding_tables _ _ _ h

theorem State.takeEntry_tables (s : State) (e : PoolEntry)
    (h : TablesCanonical s) : TablesCanonical (State.takeEntry s e) := by
  simp only [State.takeEntry]
  repeat (first
    | with_reducible exact h | with_reducible refine State.onAdu_tables _ _ rfl rfl rfl rfl rfl ?_
    | with_reducible refine State.setSlot_tables _ _ _ ?_ | with_reducible refine State.setEntry_tables _ _ _ ?_
    | with_reducible refine State.setSchedule_tables _ _ _ _ ?_ | with_reducible refine State.bind_tables _ _ _ ?_
    | split)

theorem State.freeEntry_tables (s : State) (i : Nat)
    (h : TablesCanonical s) : TablesCanonical (State.freeEntry s i) := by
  simp only [State.freeEntry]
  repeat (first
    | with_reducible exact h | with_reducible refine State.onAdu_tables _ _ rfl rfl rfl rfl rfl ?_
    | with_reducible refine State.setSlot_tables _ _ _ ?_ | with_reducible refine State.setEntry_tables _ _ _ ?_
    | with_reducible refine State.setSchedule_tables _ _ _ _ ?_ | with_reducible refine State.unbind_tables _ _ ?_
    | split)

theorem State.changeEntry_tables (s : State) (i : Nat) (e : PoolEntry)
    (h : TablesCanonical s) : TablesCanonical (State.changeEntry s i e) := by
  simp only [State.changeEntry]
  repeat (first
    | with_reducible exact h | with_reducible refine State.setEntry_tables _ _ _ ?_
    | with_reducible refine State.setSchedule_tables _ _ _ _ ?_ | with_reducible refine State.unbind_tables _ _ ?_
    | with_reducible refine State.bind_tables _ _ _ ?_ | split)

theorem State.setLoop_tables (s : State) (l : LoopNo) (v : Loop)
    (h : TablesCanonical s) : TablesCanonical (State.setLoop s l v) := by
  obtain ⟨hl, hd, ⟨h1, h2, h3, h4, h5⟩, ⟨h6, h7⟩, h8, ⟨h9, h10, h11⟩, h12⟩ := h
  exact ⟨hl, hd, ⟨h1, h2, h3, h4, h5⟩, ⟨Table.wf_set _ _ _ _ h6, h7⟩, h8, ⟨h9, h10, h11⟩, h12⟩

theorem State.setPanel_tables (s : State) (r : Room) (v : Panel)
    (h : TablesCanonical s) : TablesCanonical (State.setPanel s r v) := by
  obtain ⟨hl, hd, ⟨h1, h2, h3, h4, h5⟩, ⟨h6, h7⟩, h8, ⟨h9, h10, h11⟩, h12⟩ := h
  exact ⟨hl, hd, ⟨h1, h2, h3, h4, h5⟩, ⟨h6, Table.wf_set _ _ _ _ h7⟩, h8, ⟨h9, h10, h11⟩, h12⟩

theorem State.setFilter_tables (s : State) (r : Room) (v : Filter)
    (h : TablesCanonical s) : TablesCanonical (State.setFilter s r v) := by
  obtain ⟨hl, hd, ⟨h1, h2, h3, h4, h5⟩, ⟨h6, h7⟩, h8, ⟨h9, h10, h11⟩, h12⟩ := h
  exact ⟨hl, hd, ⟨h1, h2, h3, h4, h5⟩, ⟨h6, h7⟩, Table.wf_set _ _ _ _ h8, ⟨h9, h10, h11⟩, h12⟩

theorem State.setRoomState_tables (s : State) (r : Room) (v : RoomState)
    (h : TablesCanonical s) : TablesCanonical (State.setRoomState s r v) := by
  obtain ⟨hl, hd, ⟨h1, h2, h3, h4, h5⟩, ⟨h6, h7⟩, h8, ⟨h9, h10, h11⟩, h12⟩ := h
  exact ⟨hl, hd, ⟨h1, h2, h3, h4, h5⟩, ⟨h6, h7⟩, h8, ⟨Table.wf_set _ _ _ _ h9, h10, h11⟩, h12⟩

theorem State.setOrderEntry_tables (s : State) (o : OrderIx) (v : Option OrderEntry)
    (h : TablesCanonical s) : TablesCanonical (State.setOrderEntry s o v) := by
  obtain ⟨hl, hd, ⟨h1, h2, h3, h4, h5⟩, ⟨h6, h7⟩, h8, ⟨h9, h10, h11⟩, h12⟩ := h
  exact ⟨hl, hd, ⟨h1, h2, h3, h4, h5⟩, ⟨h6, h7⟩, h8, ⟨h9, h10, h11⟩, Table.wf_set _ _ _ _ h12⟩

theorem State.present_tables (s : State) (a : Access)
    (h : TablesCanonical s) : TablesCanonical (State.present s a) := by
  simp only [State.present]
  repeat (first
    | with_reducible exact h | with_reducible refine State.onMps_tables _ _ rfl ?_ | split)

theorem State.setFlags_tables (s : State) (w : Word)
    (h : TablesCanonical s) : TablesCanonical (State.setFlags s w) := by
  simp only [State.setFlags]
  repeat (first
    | with_reducible exact h | with_reducible refine State.onCtu_tables _ _ rfl ?_ | split)

theorem State.clearFlags_tables (s : State) (w : Word)
    (h : TablesCanonical s) : TablesCanonical (State.clearFlags s w) := by
  simp only [State.clearFlags]
  repeat (first
    | with_reducible exact h | with_reducible refine State.onCtu_tables _ _ rfl ?_ | split)

theorem State.presentTrap_tables (s : State) (r : TrapRecord)
    (h : TablesCanonical s) : TablesCanonical (State.presentTrap s r) := by
  simp only [State.presentTrap]
  repeat (first
    | with_reducible exact h | with_reducible refine State.onCtu_tables _ _ rfl ?_
    | with_reducible refine State.setFlags_tables _ _ ?_ | split)

theorem State.markChanged_tables (s : State) (r : Room)
    (h : TablesCanonical s) : TablesCanonical (State.markChanged s r) := by
  simp only [State.markChanged]
  repeat (first
    | with_reducible exact h | with_reducible refine State.onCtu_tables _ _ rfl ?_ | split)

theorem State.raiseKitchen_tables (s : State) (h : TablesCanonical s) : TablesCanonical (State.raiseKitchen s) := by
  simp only [State.raiseKitchen]
  repeat (first
    | with_reducible exact h | with_reducible refine State.onCtu_tables _ _ rfl ?_ | split)

theorem State.raiseScan_tables (s : State) (h : TablesCanonical s) : TablesCanonical (State.raiseScan s) := by
  simp only [State.raiseScan]
  repeat (first
    | with_reducible exact h | with_reducible refine State.onCtu_tables _ _ rfl ?_ | split)

theorem State.lockNotice_tables (s : State) (o : OrderIx) (st : OrderState)
    (h : TablesCanonical s) : TablesCanonical (State.lockNotice s o st) := by
  obtain ⟨hl, hd, ⟨h1, h2, h3, h4, h5⟩, ⟨h6, h7⟩, h8, ⟨h9, h10, h11⟩, h12⟩ := h
  exact ⟨Table.wf_set _ _ _ _ hl, hd, ⟨h1, h2, h3, h4, h5⟩, ⟨h6, h7⟩, h8, ⟨h9, h10, h11⟩, h12⟩

theorem State.listWrite_tables (s : State) (o : OrderIx)
    (h : TablesCanonical s) : TablesCanonical (State.listWrite s o) := by
  simp only [State.listWrite]
  repeat (first
    | with_reducible exact h | with_reducible refine State.onCqu_tables _ _ rfl ?_ | split)

theorem State.decideOrder_tables (s : State) (o : OrderIx) (e : OrderEntry)
    (h : TablesCanonical s) : TablesCanonical (State.decideOrder s o e) := by
  simp only [State.decideOrder]
  repeat (first
    | with_reducible exact h | with_reducible refine State.setOrderEntry_tables _ _ _ ?_
    | with_reducible refine State.raiseKitchen_tables _ ?_ | with_reducible refine State.lockNotice_tables _ _ _ ?_
    | with_reducible refine State.listWrite_tables _ _ ?_ | split)

theorem State.unqueue_tables (s : State) (o : OrderIx)
    (h : TablesCanonical s) : TablesCanonical (State.unqueue s o) := by
  simp only [State.unqueue]
  repeat (first
    | with_reducible exact h | with_reducible refine State.onCqu_tables _ _ rfl ?_ | split)

theorem State.leaveContext_tables (s : State) (o : OrderIx)
    (h : TablesCanonical s) : TablesCanonical (State.leaveContext s o) := by
  simp only [State.leaveContext]
  repeat (first
    | with_reducible exact h
    | with_reducible refine State.onMps_tables _ _ rfl ?_
    | with_reducible refine State.onKlc_tables _ _ ?_ | split)

theorem State.unplace_tables (s : State) (o : OrderIx)
    (h : TablesCanonical s) : TablesCanonical (State.unplace s o) := by
  simp only [State.unplace]
  repeat (first
    | with_reducible exact h
    | with_reducible refine State.leaveContext_tables _ _ ?_
    | with_reducible refine State.onCqu_tables _ _ rfl ?_
    | with_reducible refine State.unqueue_tables _ _ ?_ | split)

theorem State.enqueue_tables (s : State) (o : OrderIx)
    (h : TablesCanonical s) : TablesCanonical (State.enqueue s o) := by
  simp only [State.enqueue]
  repeat (first
    | with_reducible exact h
    | with_reducible refine State.onCqu_tables _ _ rfl ?_
    | with_reducible refine State.unplace_tables _ _ ?_ | split)

theorem State.recall_tables (s : State) (o : OrderIx)
    (h : TablesCanonical s) : TablesCanonical (State.recall s o) := by
  simp only [State.recall]
  repeat (first
    | with_reducible exact h
    | with_reducible refine State.onCqu_tables _ _ rfl ?_
    | with_reducible refine State.unplace_tables _ _ ?_ | split)

theorem State.queueOrder_tables (s : State) (o : OrderIx) (e : OrderEntry)
    (h : TablesCanonical s) : TablesCanonical (State.queueOrder s o e) := by
  simp only [State.queueOrder]
  repeat (first
    | with_reducible exact h | with_reducible refine State.decideOrder_tables _ _ _ ?_
    | with_reducible refine State.enqueue_tables _ _ ?_ | split)

theorem State.recallOrder_tables (s : State) (o : OrderIx) (e : OrderEntry) (resend : Bool)
    (h : TablesCanonical s) : TablesCanonical (State.recallOrder s o e resend) := by
  simp only [State.recallOrder]
  repeat (first
    | with_reducible exact h | with_reducible refine State.decideOrder_tables _ _ _ ?_
    | with_reducible refine State.recall_tables _ _ ?_ | split)

theorem State.markContext_tables (s : State) (o : OrderIx) (m : Disposition)
    (h : TablesCanonical s) : TablesCanonical (State.markContext s o m) := by
  simp only [State.markContext]
  repeat (first
    | with_reducible exact h | with_reducible refine State.onKlc_tables _ _ ?_ | split)

theorem State.noticeAttach_tables (s : State) (o : OrderIx) (role : Role) (at_ : SlotRef) (start due : Nat)
    (h : TablesCanonical s) : TablesCanonical (State.noticeAttach s o role at_ start due) := by
  simp only [State.noticeAttach]
  repeat (first
    | with_reducible exact h | with_reducible refine State.queueOrder_tables _ _ _ ?_ | split)

theorem State.noticeMove_tables (s : State) (o : OrderIx) (start due : Nat)
    (h : TablesCanonical s) : TablesCanonical (State.noticeMove s o start due) := by
  simp only [State.noticeMove]
  repeat (first
    | with_reducible exact h | with_reducible refine State.decideOrder_tables _ _ _ ?_
    | with_reducible refine State.queueOrder_tables _ _ _ ?_
    | with_reducible refine State.recallOrder_tables _ _ _ _ ?_
    | with_reducible refine State.markContext_tables _ _ _ ?_ | split)

theorem State.noticeShortDetach_tables (s : State) (o : OrderIx)
    (h : TablesCanonical s) : TablesCanonical (State.noticeShortDetach s o) := by
  simp only [State.noticeShortDetach]
  repeat (first
    | with_reducible exact h | with_reducible refine State.decideOrder_tables _ _ _ ?_
    | with_reducible refine State.unqueue_tables _ _ ?_ | with_reducible refine State.recallOrder_tables _ _ _ _ ?_
    | with_reducible refine State.markContext_tables _ _ _ ?_ | split)

theorem State.noticeDeath_tables (s : State) (o : OrderIx) (k : DeathKind)
    (h : TablesCanonical s) : TablesCanonical (State.noticeDeath s o k) := by
  simp only [State.noticeDeath]
  repeat (first
    | with_reducible exact h | with_reducible refine State.decideOrder_tables _ _ _ ?_
    | with_reducible refine State.unqueue_tables _ _ ?_ | with_reducible refine State.recallOrder_tables _ _ _ _ ?_
    | with_reducible refine State.markContext_tables _ _ _ ?_ | split)

theorem State.notice_tables (s : State) (x : Notice)
    (h : TablesCanonical s) : TablesCanonical (State.notice s x) := by
  cases x <;> simp only [State.notice] <;> first | exact h | exact State.noticeAttach_tables _ _ _ _ _ _ h | exact State.noticeMove_tables _ _ _ _ h | exact State.noticeShortDetach_tables _ _ h | exact State.noticeDeath_tables _ _ _ h

theorem State.notices_tables (s : State) (l : List Notice)
    (h : TablesCanonical s) : TablesCanonical (State.notices s l) := by
  simp only [State.notices]
  repeat (first
    | with_reducible exact h | with_reducible refine State.notice_tables _ _ ?_
    | with_reducible refine foldl_tables _ (fun _ _ h => ?_) _ _ ?_ | split)

theorem State.dispose_tables (s : State) (o : OrderIx) (m : Disposition)
    (h : TablesCanonical s) : TablesCanonical (State.dispose s o m) := by
  simp only [State.dispose]
  repeat (first
    | with_reducible exact h | with_reducible refine State.decideOrder_tables _ _ _ ?_
    | with_reducible refine State.queueOrder_tables _ _ _ ?_
    | with_reducible refine State.recallOrder_tables _ _ _ _ ?_ | split)

theorem State.makeDue_tables (s : State) (o : OrderIx)
    (h : TablesCanonical s) : TablesCanonical (State.makeDue s o) := by
  simp only [State.makeDue]
  repeat (first
    | with_reducible exact h | with_reducible refine State.decideOrder_tables _ _ _ ?_ | split)

theorem State.cateringMinute_tables (s : State)
    (h : TablesCanonical s) : TablesCanonical (State.cateringMinute s) := by
  simp only [State.cateringMinute]
  repeat (first
    | with_reducible exact h | with_reducible refine State.makeDue_tables _ _ ?_
    | with_reducible refine foldl_tables _ (fun _ _ h => ?_) _ _ ?_ | split)

theorem State.closeQueued_tables (b : Book) (s : State) (o : OrderIx)
    (h : TablesCanonical s) : TablesCanonical (State.closeQueued b s o) := by
  simp only [State.closeQueued]
  repeat (first
    | with_reducible exact h | with_reducible refine State.decideOrder_tables _ _ _ ?_
    | with_reducible refine State.unqueue_tables _ _ ?_ | split)

theorem State.closeAccepted_tables (b : Book) (s : State) (o : OrderIx)
    (h : TablesCanonical s) : TablesCanonical (State.closeAccepted b s o) := by
  simp only [State.closeAccepted]
  repeat (first
    | with_reducible exact h | with_reducible refine State.decideOrder_tables _ _ _ ?_ | split)

theorem State.dayClose_tables (s : State) (b : Book)
    (h : TablesCanonical s) : TablesCanonical (State.dayClose s b) := by
  simp only [State.dayClose]
  repeat (first
    | with_reducible exact h | with_reducible refine State.closeQueued_tables _ _ _ ?_
    | with_reducible refine State.closeAccepted_tables _ _ _ ?_
    | with_reducible refine foldl_tables _ (fun _ _ h => ?_) _ _ ?_ | split)

theorem State.presentCqu_tables (s : State) (h : TablesCanonical s) : TablesCanonical (State.presentCqu s) := by
  simp only [State.presentCqu]
  repeat (first
    | with_reducible exact h | with_reducible refine State.onCqu_tables _ _ rfl ?_
    | with_reducible refine State.present_tables _ _ ?_ | split)

theorem State.cquDone_tables (s : State) (error : Bool)
    (h : TablesCanonical s) : TablesCanonical (State.cquDone s error) := by
  simp only [State.cquDone]
  repeat (first
    | with_reducible exact h | with_reducible refine State.onCqu_tables _ _ rfl ?_
    | with_reducible refine State.setFlags_tables _ _ ?_ | split)

theorem State.assemble_tables (s : State) (c : Context)
    (h : TablesCanonical s) : TablesCanonical (State.assemble s c) := by
  simp only [State.assemble]
  repeat (first
    | with_reducible exact h | with_reducible refine State.onKlc_tables _ _ ?_ | split)

theorem State.linkIdle_tables (s : State) (h : TablesCanonical s) : TablesCanonical (State.linkIdle s) := by
  simp only [State.linkIdle]
  repeat (first
    | with_reducible exact h | with_reducible refine State.onKlc_tables _ _ ?_ | split)

theorem State.haltLink_tables (s : State) (r : HaltReason)
    (h : TablesCanonical s) : TablesCanonical (State.haltLink s r) := by
  simp only [State.haltLink]
  repeat (first
    | with_reducible exact h | with_reducible refine State.onKlc_tables _ _ ?_
    | with_reducible refine State.raiseKitchen_tables _ ?_ | split)

theorem State.recordTotal_tables (s : State) (o : OrderIx) (total : Nat)
    (h : TablesCanonical s) : TablesCanonical (State.recordTotal s o total) := by
  simp only [State.recordTotal]
  repeat (first
    | with_reducible exact h | with_reducible refine State.decideOrder_tables _ _ _ ?_ | split)

theorem State.assemblyRead_tables (s : State) (data : Word) (error : Bool)
    (h : TablesCanonical s) : TablesCanonical (State.assemblyRead s data error) := by
  simp only [State.assemblyRead]
  repeat (first
    | with_reducible exact h | with_reducible refine State.onKlc_tables _ _ ?_
    | with_reducible refine State.haltLink_tables _ _ ?_ | with_reducible refine State.recordTotal_tables _ _ _ ?_
    | split)

theorem State.lookForWork_tables (s : State) (h : TablesCanonical s) : TablesCanonical (State.lookForWork s) := by
  simp only [State.lookForWork]
  repeat (first
    | with_reducible exact h | with_reducible refine State.onCqu_tables _ _ rfl ?_
    | with_reducible refine State.decideOrder_tables _ _ _ ?_ | with_reducible refine State.unqueue_tables _ _ ?_
    | with_reducible refine State.recall_tables _ _ ?_ | with_reducible refine State.assemble_tables _ _ ?_ | split)

theorem State.ticketAccepted_tables (s : State) (c : Context) (e : OrderEntry)
    (h : TablesCanonical s) : TablesCanonical (State.ticketAccepted s c e) := by
  simp only [State.ticketAccepted]
  repeat (first
    | with_reducible exact h | with_reducible refine State.decideOrder_tables _ _ _ ?_
    | with_reducible refine State.dispose_tables _ _ _ ?_ | with_reducible refine State.assemble_tables _ _ ?_
    | with_reducible refine State.linkIdle_tables _ ?_ | split)

theorem State.recallAccepted_tables (s : State) (c : Context) (e : OrderEntry)
    (h : TablesCanonical s) : TablesCanonical (State.recallAccepted s c e) := by
  simp only [State.recallAccepted]
  repeat (first
    | with_reducible exact h | with_reducible refine State.decideOrder_tables _ _ _ ?_
    | with_reducible refine State.queueOrder_tables _ _ _ ?_ | with_reducible refine State.linkIdle_tables _ ?_
    | split)

theorem State.resend_tables (s : State) (c : Context)
    (h : TablesCanonical s) : TablesCanonical (State.resend s c) := by
  simp only [State.resend]
  repeat (first
    | with_reducible exact h | with_reducible refine State.onKlc_tables _ _ ?_ | split)

theorem State.softFault_tables (s : State) (c : Context) (e : OrderEntry)
    (h : TablesCanonical s) : TablesCanonical (State.softFault s c e) := by
  simp only [State.softFault]
  repeat (first
    | with_reducible exact h | with_reducible refine State.onKlc_tables _ _ ?_
    | with_reducible refine State.decideOrder_tables _ _ _ ?_ | with_reducible refine State.dispose_tables _ _ _ ?_
    | with_reducible refine State.linkIdle_tables _ ?_ | with_reducible refine State.haltLink_tables _ _ ?_
    | with_reducible refine State.resend_tables _ _ ?_ | split)

theorem State.mismatch_tables (s : State) (c : Context)
    (h : TablesCanonical s) : TablesCanonical (State.mismatch s c) := by
  simp only [State.mismatch]
  repeat (first
    | with_reducible exact h | with_reducible refine State.onKlc_tables _ _ ?_
    | with_reducible refine State.haltLink_tables _ _ ?_ | with_reducible refine State.resend_tables _ _ ?_ | split)

theorem State.validAnswer_tables (s : State) (station orderNumber ticketIndex : Word) (v : KitchenVerdict)
    (h : TablesCanonical s) : TablesCanonical (State.validAnswer s station orderNumber ticketIndex v) := by
  simp only [State.validAnswer]
  repeat (first
    | with_reducible exact h | with_reducible refine State.onKlc_tables _ _ ?_
    | with_reducible refine State.recall_tables _ _ ?_ | with_reducible refine State.linkIdle_tables _ ?_
    | with_reducible refine State.ticketAccepted_tables _ _ _ ?_
    | with_reducible refine State.recallAccepted_tables _ _ _ ?_
    | with_reducible refine State.softFault_tables _ _ _ ?_ | with_reducible refine State.mismatch_tables _ _ ?_
    | split)

theorem State.presentKlc_tables (s : State) (h : TablesCanonical s) : TablesCanonical (State.presentKlc s) := by
  simp only [State.presentKlc]
  repeat (first
    | with_reducible exact h | with_reducible refine State.present_tables _ _ ?_ | split)

theorem State.finalDone_tables (s : State) (error : Bool)
    (h : TablesCanonical s) : TablesCanonical (State.finalDone s error) := by
  simp only [State.finalDone]
  repeat (first
    | with_reducible exact h | with_reducible refine State.onKlc_tables _ _ ?_
    | with_reducible refine State.setFlags_tables _ _ ?_ | split)

theorem State.kitchenClear_tables (s : State) (h : TablesCanonical s) : TablesCanonical (State.kitchenClear s) := by
  simp only [State.kitchenClear]
  repeat (first
    | with_reducible exact h | with_reducible refine State.onKlc_tables _ _ ?_
    | with_reducible refine State.decideOrder_tables _ _ _ ?_ | with_reducible refine State.recall_tables _ _ ?_
    | with_reducible refine State.dispose_tables _ _ _ ?_ | with_reducible refine State.assemble_tables _ _ ?_
    | with_reducible refine State.linkIdle_tables _ ?_ | split)

theorem State.restartKlc_tables (s : State) (h : TablesCanonical s) : TablesCanonical (State.restartKlc s) := by
  simp only [State.restartKlc]
  repeat (first
    | with_reducible exact h | with_reducible refine State.onKlc_tables _ _ ?_
    | with_reducible refine State.linkIdle_tables _ ?_ | split)

theorem State.onExchangeWith_tables (s : State) (r : Room) (f : Exchange → Exchange)
    (h : TablesCanonical s) : TablesCanonical (State.onExchangeWith s r f) := by
  simp only [State.onExchangeWith]
  repeat (first
    | with_reducible exact h | with_reducible refine State.setLoop_tables _ _ _ ?_ | split)

theorem State.setDirty_tables (s : State) (r : Room)
    (h : TablesCanonical s) : TablesCanonical (State.setDirty s r) := by
  simp only [State.setDirty]
  repeat (first
    | with_reducible exact h | with_reducible refine State.setPanel_tables _ _ _ ?_
    | with_reducible refine State.onExchangeWith_tables _ _ _ ?_ | split)

theorem State.chimeRequest_tables (s : State) (r : Room) (c : Chime)
    (h : TablesCanonical s) : TablesCanonical (State.chimeRequest s r c) := by
  simp only [State.chimeRequest]
  repeat (first
    | with_reducible exact h | with_reducible refine State.setPanel_tables _ _ _ ?_
    | with_reducible refine State.onExchangeWith_tables _ _ _ ?_
    | with_reducible refine State.setDirty_tables _ _ ?_ | split)

theorem State.startRound_tables (s : State) (l : LoopNo)
    (h : TablesCanonical s) : TablesCanonical (State.startRound s l) := by
  simp only [State.startRound]
  repeat (first
    | with_reducible exact h | with_reducible refine State.setLoop_tables _ _ _ ?_ | split)

theorem State.makeFast_tables (s : State) (l : LoopNo)
    (h : TablesCanonical s) : TablesCanonical (State.makeFast s l) := by
  simp only [State.makeFast]
  repeat (first
    | with_reducible exact h | with_reducible refine State.setLoop_tables _ _ _ ?_ | split)

theorem State.endRound_tables (s : State) (l : LoopNo)
    (h : TablesCanonical s) : TablesCanonical (State.endRound s l) := by
  simp only [State.endRound]
  repeat (first
    | with_reducible exact h | with_reducible refine State.setLoop_tables _ _ _ ?_
    | with_reducible refine State.startRound_tables _ _ ?_ | split)

theorem State.loopMinute_tables (s : State) (l : LoopNo)
    (h : TablesCanonical s) : TablesCanonical (State.loopMinute s l) := by
  simp only [State.loopMinute]
  repeat (first
    | with_reducible exact h | with_reducible refine State.setLoop_tables _ _ _ ?_
    | with_reducible refine State.makeFast_tables _ _ ?_ | split)

theorem State.pluMinute_tables (s : State) (h : TablesCanonical s) : TablesCanonical (State.pluMinute s) := by
  simp only [State.pluMinute]
  repeat (first
    | with_reducible exact h | with_reducible refine State.loopMinute_tables _ _ ?_
    | with_reducible refine foldl_tables _ (fun _ _ h => ?_) _ _ ?_ | split)

theorem State.startLoop_tables (s : State) (l : LoopNo)
    (h : TablesCanonical s) : TablesCanonical (State.startLoop s l) := by
  simp only [State.startLoop]
  repeat (first
    | with_reducible exact h | with_reducible refine State.setLoop_tables _ _ _ ?_
    | with_reducible refine State.startRound_tables _ _ ?_ | split)

theorem State.startPanel_tables (s : State) (r : Room)
    (h : TablesCanonical s) : TablesCanonical (State.startPanel s r) := by
  simp only [State.startPanel]
  repeat (first
    | with_reducible exact h | with_reducible refine State.setPanel_tables _ _ _ ?_ | split)

theorem State.startPlu_tables (s : State) (h : TablesCanonical s) : TablesCanonical (State.startPlu s) := by
  unfold State.startPlu
  refine foldl_tables _ (fun s l h => State.startLoop_tables _ _ h) _ _ ?_
  refine foldl_tables _ (fun s r h => State.startPanel_tables _ _ h) _ _ ?_
  obtain ⟨hl, hd, ⟨h1, h2, h3, h4, h5⟩, ⟨h6, h7⟩, h8, ⟨h9, h10, h11⟩, h12⟩ := h
  exact ⟨hl, hd, ⟨h1, h2, h3, h4, h5⟩, ⟨rfl, rfl⟩, h8, ⟨h9, h10, h11⟩, h12⟩

theorem State.sendPoll_tables (s : State) (l : LoopNo)
    (h : TablesCanonical s) : TablesCanonical (State.sendPoll s l) := by
  simp only [State.sendPoll]
  repeat (first
    | with_reducible exact h | with_reducible refine State.setLoop_tables _ _ _ ?_ | split)

theorem State.exchangeStep_tables (s : State) (l : LoopNo) (before after : ExchangeStage)
    (h : TablesCanonical s) : TablesCanonical (State.exchangeStep s l before after) := by
  simp only [State.exchangeStep]
  repeat (first
    | with_reducible exact h | with_reducible refine State.setLoop_tables _ _ _ ?_ | split)

theorem State.endExchange_tables (s : State) (l : LoopNo)
    (h : TablesCanonical s) : TablesCanonical (State.endExchange s l) := by
  simp only [State.endExchange]
  repeat (first
    | with_reducible exact h | with_reducible refine State.setLoop_tables _ _ _ ?_ | split)

theorem State.missExchange_tables (s : State) (l : LoopNo)
    (h : TablesCanonical s) : TablesCanonical (State.missExchange s l) := by
  simp only [State.missExchange]
  repeat (first
    | with_reducible exact h | with_reducible refine State.setPanel_tables _ _ _ ?_
    | with_reducible refine State.endExchange_tables _ _ ?_ | split)

theorem State.swapPositions_tables (s : State) (l : LoopNo) (a b : Nat)
    (h : TablesCanonical s) : TablesCanonical (State.swapPositions s l a b) := by
  simp only [State.swapPositions]
  repeat (first
    | with_reducible exact h | with_reducible refine State.setLoop_tables _ _ _ ?_ | split)

theorem State.markUninitialised_tables (s : State) (r : Room)
    (h : TablesCanonical s) : TablesCanonical (State.markUninitialised s r) := by
  simp only [State.markUninitialised]
  repeat (first
    | with_reducible exact h | with_reducible refine State.setFilter_tables _ _ _ ?_ | split)

theorem State.recompose_tables (s : State) (r : Room)
    (h : TablesCanonical s) : TablesCanonical (State.recompose s r) := by
  simp only [State.recompose]
  repeat (first
    | with_reducible exact h | with_reducible refine State.setRoomState_tables _ _ _ ?_
    | with_reducible refine State.setDirty_tables _ _ ?_ | split)

theorem State.recomposeAll_tables (s : State) (h : TablesCanonical s) : TablesCanonical (State.recomposeAll s) := by
  simp only [State.recomposeAll]
  repeat (first
    | with_reducible exact h | with_reducible refine State.recompose_tables _ _ ?_
    | with_reducible refine foldl_tables _ (fun _ _ h => ?_) _ _ ?_ | split)

theorem State.mapBookings_tables (s : State) (r : Room) (f : PoolEntry → PoolEntry)
    (h : TablesCanonical s) : TablesCanonical (State.mapBookings s r f) := by
  simp only [State.mapBookings]
  repeat (first
    | with_reducible exact h | with_reducible refine State.setEntry_tables _ _ _ ?_
    | with_reducible refine foldl_tables _ (fun _ _ h => ?_) _ _ ?_ | split)

theorem State.applyReport_tables (r : Room) (s : State) (t : Stamp)
    (h : TablesCanonical s) : TablesCanonical (State.applyReport r s t) := by
  simp only [State.applyReport]
  repeat (first
    | with_reducible exact h | with_reducible refine State.setRoomState_tables _ _ _ ?_
    | with_reducible refine State.mapBookings_tables _ _ _ ?_ | split)

theorem State.holdReport_tables (s : State) (r : Room) (t : Stamp)
    (h : TablesCanonical s) : TablesCanonical (State.holdReport s r t) := by
  obtain ⟨hl, hd, ⟨h1, h2, h3, h4, h5⟩, ⟨h6, h7⟩, h8, ⟨h9, h10, h11⟩, h12⟩ := h
  exact ⟨hl, hd, ⟨h1, h2, h3, h4, h5⟩, ⟨h6, h7⟩, h8, ⟨h9, Table.wf_set _ _ _ _ h10, h11⟩, h12⟩

theorem State.applyReports_tables (s : State) (r : Room)
    (h : TablesCanonical s) : TablesCanonical (State.applyReports s r) := by
  unfold State.applyReports
  refine foldl_tables _ (fun s t h => State.applyReport_tables _ _ _ h) _ _ ?_
  obtain ⟨hl, hd, ⟨h1, h2, h3, h4, h5⟩, ⟨h6, h7⟩, h8, ⟨h9, h10, h11⟩, h12⟩ := h
  exact ⟨hl, hd, ⟨h1, h2, h3, h4, h5⟩, ⟨h6, h7⟩, h8, ⟨h9, Table.wf_set _ _ _ _ h10, h11⟩, h12⟩

theorem State.holdReturn_tables (s : State) (r : Room) (t : Stamp)
    (h : TablesCanonical s) : TablesCanonical (State.holdReturn s r t) := by
  obtain ⟨hl, hd, ⟨h1, h2, h3, h4, h5⟩, ⟨h6, h7⟩, h8, ⟨h9, h10, h11⟩, h12⟩ := h
  exact ⟨hl, hd, ⟨h1, h2, h3, h4, h5⟩, ⟨h6, h7⟩, h8, ⟨h9, h10, Table.wf_set _ _ _ _ h11⟩, h12⟩

theorem State.applyReturned_tables (r : Room) (s : State) (t : Stamp)
    (h : TablesCanonical s) : TablesCanonical (State.applyReturned r s t) :=
  State.setFilter_tables _ _ _ (State.mapBookings_tables _ _ _ h)

theorem State.applyReturn_tables (s : State) (r : Room)
    (h : TablesCanonical s) : TablesCanonical (State.applyReturn s r) := by
  unfold State.applyReturn
  refine foldl_tables _ (fun s t h => State.applyReturned_tables _ _ _ h) _ _ ?_
  obtain ⟨hl, hd, ⟨h1, h2, h3, h4, h5⟩, ⟨h6, h7⟩, h8, ⟨h9, h10, h11⟩, h12⟩ := h
  exact ⟨hl, hd, ⟨h1, h2, h3, h4, h5⟩, ⟨h6, h7⟩, h8, ⟨h9, h10, Table.wf_set _ _ _ _ h11⟩, h12⟩

theorem State.walkOn_tables (s : State)
    (h : TablesCanonical s) : TablesCanonical (State.walkOn s) := by
  simp only [State.walkOn]
  repeat (first
    | with_reducible exact h | with_reducible refine State.onAtu_tables _ _ rfl rfl rfl ?_ | split)

theorem State.clearRefusals_tables (s : State) (h : TablesCanonical s) : TablesCanonical (State.clearRefusals s) := by
  simp only [State.clearRefusals]
  repeat (first
    | with_reducible exact h | with_reducible refine State.setRoomState_tables _ _ _ ?_
    | with_reducible refine foldl_tables _ (fun _ _ h => ?_) _ _ ?_ | split)

theorem State.sweepRoom_tables (s : State) (r : Room)
    (h : TablesCanonical s) : TablesCanonical (State.sweepRoom s r) := by
  simp only [State.sweepRoom]
  repeat (first
    | with_reducible exact h | with_reducible refine State.mapBookings_tables _ _ _ ?_ | split)

theorem State.warnRoom_tables (now : Nat) (s : State) (r : Room)
    (h : TablesCanonical s) : TablesCanonical (State.warnRoom now s r) := by
  simp only [State.warnRoom]
  repeat (first
    | with_reducible exact h | with_reducible refine State.chimeRequest_tables _ _ _ ?_ | split)

theorem State.workExpiry_tables (s : State) (t : Nat)
    (h : TablesCanonical s) : TablesCanonical (State.workExpiry s t) := by
  simp only [State.workExpiry]
  repeat (first
    | with_reducible exact h | with_reducible refine State.onAtu_tables _ _ rfl rfl rfl ?_
    | with_reducible refine State.recomposeAll_tables _ ?_ | with_reducible refine State.clearRefusals_tables _ ?_
    | with_reducible refine State.sweepRoom_tables _ _ ?_ | with_reducible refine State.warnRoom_tables _ _ _ ?_
    | with_reducible refine foldl_tables _ (fun _ _ h => ?_) _ _ ?_ | split)

theorem State.workExpiries_tables (s : State) (h : TablesCanonical s) : TablesCanonical (State.workExpiries s) := by
  simp only [State.workExpiries]
  repeat (first
    | with_reducible exact h | with_reducible refine State.onAtu_tables _ _ rfl rfl rfl ?_
    | with_reducible refine State.walkOn_tables _ ?_ | with_reducible refine State.workExpiry_tables _ _ ?_
    | with_reducible refine foldl_tables _ (fun _ _ h => ?_) _ _ ?_ | split)

theorem State.atuMinute_tables (s : State) (h : TablesCanonical s) : TablesCanonical (State.atuMinute s) := by
  simp only [State.atuMinute]
  repeat (first
    | with_reducible exact h | with_reducible refine State.onAtu_tables _ _ rfl rfl rfl ?_
    | with_reducible refine State.workExpiries_tables _ ?_ | split)

theorem State.workWindows_tables (s : State) (h : TablesCanonical s) : TablesCanonical (State.workWindows s) := by
  simp only [State.workWindows]
  repeat (first
    | with_reducible exact h | with_reducible refine State.onPlu_tables _ _ rfl rfl ?_
    | with_reducible refine State.pluMinute_tables _ ?_ | split)

theorem State.startAtu_tables (s : State) (h : TablesCanonical s) : TablesCanonical (State.startAtu s) := by
  unfold State.startAtu
  refine State.recomposeAll_tables _ ?_
  obtain ⟨hl, hd, ⟨h1, h2, h3, h4, h5⟩, ⟨h6, h7⟩, h8, ⟨h9, h10, h11⟩, h12⟩ := h
  exact ⟨hl, hd, ⟨h1, h2, h3, h4, h5⟩, ⟨h6, h7⟩, h8, ⟨rfl, rfl, rfl⟩, h12⟩

theorem State.applyDrafts_tables (s : State) (h : TablesCanonical s) : TablesCanonical (State.applyDrafts s) := by
  unfold State.applyDrafts
  have hk : ∀ (l : List Nat) (a : Adu), Table.wf .free a.slotMap = true → Table.wf false a.drafts = true →
      (l.foldl Adu.applyDraft a).pool = a.pool ∧ (l.foldl Adu.applyDraft a).schedules = a.schedules
        ∧ (l.foldl Adu.applyDraft a).bindings = a.bindings
        ∧ Table.wf .free (l.foldl Adu.applyDraft a).slotMap = true
        ∧ Table.wf false (l.foldl Adu.applyDraft a).drafts = true := by
    intro l
    induction l with
    | nil => exact fun a h1 h2 => ⟨rfl, rfl, rfl, h1, h2⟩
    | cons k l ih =>
      intro a h1 h2
      have hw := Adu.applyDraft_wf a k h1 h2
      exact ih (a.applyDraft k) hw.1 hw.2
  obtain ⟨hl, hd, ⟨h1, h2, h3, h4, h5⟩, ⟨h6, h7⟩, h8, ⟨h9, h10, h11⟩, h12⟩ := h
  obtain ⟨e1, e2, e3, e4, e5⟩ := hk (s.adu.drafts.map (·.1)) s.adu h3 h5
  refine ⟨hl, hd, ⟨?_, ?_, e4, ?_, e5⟩, ⟨h6, h7⟩, h8, ⟨h9, h10, h11⟩, h12⟩
  · rw [State.onAdu_adu, e1]; exact h1
  · rw [State.onAdu_adu, e2]; exact h2
  · rw [State.onAdu_adu, e3]; exact h4

theorem State.applyNotices_tables (s : State) (h : TablesCanonical s) : TablesCanonical (State.applyNotices s) := by
  simp only [State.applyNotices]
  repeat (first
    | with_reducible exact h | with_reducible refine State.applyReports_tables _ _ ?_
    | with_reducible refine State.applyReturn_tables _ _ ?_ | with_reducible refine State.applyDrafts_tables _ ?_
    | with_reducible refine foldl_tables _ (fun _ _ h => ?_) _ _ ?_)

theorem State.noticesBetweenClaims_tables (s : State) (h : TablesCanonical s) :
    TablesCanonical (State.noticesBetweenClaims s) := by
  unfold State.noticesBetweenClaims
  split
  · exact State.applyNotices_tables _ h
  · exact h

theorem State.take_tables (s : State) (c : ClaimSource)
    (h : TablesCanonical s) : TablesCanonical (State.take s c) := by
  simp only [State.take]
  repeat (first
    | with_reducible exact h | with_reducible refine State.applyNotices_tables _ ?_
    | with_reducible refine State.onAdu_tables _ _ rfl rfl rfl rfl rfl ?_
    | with_reducible refine State.onBsc_tables _ _ ?_ | with_reducible refine State.onAtu_tables _ _ rfl rfl rfl ?_
    | split)

theorem State.endClaim_tables (s : State) (h : TablesCanonical s) : TablesCanonical (State.endClaim s) := by
  simp only [State.endClaim]
  repeat (first
    | with_reducible exact h | with_reducible refine State.onAdu_tables _ _ rfl rfl rfl rfl rfl ?_
    | with_reducible refine State.applyNotices_tables _ ?_
    | with_reducible refine State.walkOn_tables _ ?_ | with_reducible refine State.workExpiries_tables _ ?_
    | with_reducible refine State.workWindows_tables _ ?_
    | split)

theorem State.presentTail_tables (s : State) (h : TablesCanonical s) : TablesCanonical (State.presentTail s) := by
  simp only [State.presentTail]
  repeat (first
    | with_reducible exact h | with_reducible refine State.present_tables _ _ ?_ | split)

theorem State.presentClaim_tables (s : State) (h : TablesCanonical s) : TablesCanonical (State.presentClaim s) := by
  simp only [State.presentClaim]
  repeat (first
    | with_reducible exact h | with_reducible refine State.present_tables _ _ ?_ | split)

theorem State.leaveTail_tables (s : State) (todo : List WordWrite) (k : TailKind)
    (h : TablesCanonical s) : TablesCanonical (State.leaveTail s todo k) := by
  simp only [State.leaveTail]
  repeat (first
    | with_reducible exact h | with_reducible refine State.onAdu_tables _ _ rfl rfl rfl rfl rfl ?_ | split)

theorem State.tailDone_tables (s : State) (error : Bool)
    (h : TablesCanonical s) : TablesCanonical (State.tailDone s error) := by
  simp only [State.tailDone]
  repeat (first
    | with_reducible exact h | with_reducible refine State.onAdu_tables _ _ rfl rfl rfl rfl rfl ?_
    | with_reducible refine State.setFlags_tables _ _ ?_ | split)

theorem State.recomposeToday_tables (s : State) (b : Book) (r : Room)
    (h : TablesCanonical s) : TablesCanonical (State.recomposeToday s b r) := by
  simp only [State.recomposeToday]
  repeat (first
    | with_reducible exact h | with_reducible refine State.recompose_tables _ _ ?_ | split)

theorem State.answerPanel_tables (s : State) (r : Room) (confirmed : Bool)
    (h : TablesCanonical s) : TablesCanonical (State.answerPanel s r confirmed) := by
  simp only [State.answerPanel]
  repeat (first
    | with_reducible exact h | with_reducible refine State.onAtu_tables _ _ rfl rfl rfl ?_
    | with_reducible refine State.setRoomState_tables _ _ _ ?_
    | with_reducible refine State.chimeRequest_tables _ _ _ ?_ | with_reducible refine State.recompose_tables _ _ ?_
    | split)

theorem State.beginLife_tables (s : State) (w : LifeWork)
    (h : TablesCanonical s) : TablesCanonical (State.beginLife s w) := by
  simp only [State.beginLife]
  repeat (first
    | with_reducible exact h | with_reducible refine State.onAdu_tables _ _ rfl rfl rfl rfl rfl ?_ | split)

theorem State.commitLife_tables (s : State) (w : LifeWork)
    (h : TablesCanonical s) : TablesCanonical (State.commitLife s w) := by
  simp only [State.commitLife]
  repeat (first
    | with_reducible exact h | with_reducible refine State.setEntry_tables _ _ _ ?_
    | with_reducible refine State.freeEntry_tables _ _ ?_ | with_reducible refine State.notices_tables _ _ ?_
    | split)

theorem State.endLife_tables (s : State) (w : LifeWork)
    (h : TablesCanonical s) : TablesCanonical (State.endLife s w) := by
  simp only [State.endLife]
  repeat (first
    | with_reducible exact h | with_reducible refine State.markChanged_tables _ _ ?_
    | with_reducible refine State.endClaim_tables _ ?_ | with_reducible refine State.recomposeToday_tables _ _ _ ?_
    | with_reducible refine State.answerPanel_tables _ _ _ ?_ | split)

theorem State.lifeWritten_tables (s : State) (w : LifeWork) (words todo : List WordWrite) (failed second error : Bool)
    (h : TablesCanonical s) : TablesCanonical (State.lifeWritten s w words todo failed second error) := by
  unfold State.lifeWritten
  have h1 : ∀ c, TablesCanonical (s.onAdu fun a => { a with claim := c }) := fun c =>
    State.onAdu_tables _ _ rfl rfl rfl rfl rfl h
  generalize (failed || error) = f
  cases second <;> cases f <;> rcases todo.drop 1 with _ | ⟨a, _ | ⟨b, l⟩⟩ <;> dsimp only <;>
    first
      | with_reducible exact h1 _
      | with_reducible exact State.endLife_tables _ _ (State.leaveTail_tables _ _ _ (State.commitLife_tables _ _ (h1 _)))
      | with_reducible exact State.endLife_tables _ _ (State.leaveTail_tables _ _ _ (h1 _))
      | with_reducible exact State.commitLife_tables _ _ (h1 _)
      | exact State.onAdu_tables _ _ rfl rfl rfl rfl rfl (h1 _)

theorem presentAll_tables (s : State) (h : TablesCanonical s) : TablesCanonical (presentAll s) := by
  unfold presentAll
  exact State.presentClaim_tables _ (State.presentTail_tables _ (State.presentKlc_tables _ (State.presentCqu_tables _
    (State.lookForWork_tables _ h))))

theorem settle_tables (s : State) (h : TablesCanonical s) : TablesCanonical (settle s) :=
  State.arbitrate_tables _ (presentAll_tables s h)

theorem State.release_tables (s : State) (h : TablesCanonical s) : TablesCanonical (State.release s) := by
  simp only [State.release]
  repeat (first
    | with_reducible exact h | with_reducible refine State.present_tables _ _ ?_
    | with_reducible refine State.arbitrate_tables _ ?_ | with_reducible refine State.presentTail_tables _ ?_ | split)

theorem State.drop_tables (s : State) (h : TablesCanonical s) : TablesCanonical (State.drop s) := by
  unfold State.drop
  refine State.onMps_tables _ _ ?_ h
  split <;> rfl

theorem State.endAdmission_tables (s : State) (a : Admission) (withheld confirmed : Bool)
    (h : TablesCanonical s) : TablesCanonical (State.endAdmission s a withheld confirmed) := by
  simp only [State.endAdmission]
  repeat (first
    | with_reducible exact h | with_reducible refine State.endClaim_tables _ ?_
    | with_reducible refine State.answerPanel_tables _ _ _ ?_ | with_reducible refine State.release_tables _ ?_
    | with_reducible refine State.drop_tables _ ?_ | split)

theorem State.withhold_tables (s : State) (a : Admission) (j : Judged) (kind : Kind)
    (h : TablesCanonical s) : TablesCanonical (State.withhold s a j kind) := by
  simp only [State.withhold]
  repeat (first
    | with_reducible exact h | with_reducible refine State.presentTrap_tables _ _ ?_
    | with_reducible refine State.endAdmission_tables _ _ _ _ ?_ | split)

theorem State.commitRefusal_tables (s : State) (at_ : SlotRef) (r : Reason)
    (h : TablesCanonical s) : TablesCanonical (State.commitRefusal s at_ r) := by
  simp only [State.commitRefusal]
  repeat (first
    | with_reducible exact h | with_reducible refine State.setEntry_tables _ _ _ ?_ | split)

theorem State.commit_tables (s : State) (a : Admission) (o : Judgement)
    (h : TablesCanonical s) : TablesCanonical (State.commit s a o) := by
  simp only [State.commit]
  repeat (first
    | with_reducible exact h | with_reducible refine State.takeEntry_tables _ _ ?_
    | with_reducible refine State.freeEntry_tables _ _ ?_ | with_reducible refine State.changeEntry_tables _ _ _ ?_
    | with_reducible refine State.notices_tables _ _ ?_ | with_reducible refine State.commitRefusal_tables _ _ _ ?_
    | split)

theorem State.reportTraps_tables (s : State) (a : Admission) (j : Judged) (interval : Nat × Nat)
    (h : TablesCanonical s) : TablesCanonical (State.reportTraps s a j interval) := by
  simp only [State.reportTraps]
  repeat (first
    | with_reducible exact h | with_reducible refine State.setFlags_tables _ _ ?_
    | with_reducible refine State.presentTrap_tables _ _ ?_ | split)

theorem State.finishAdmission_tables (s : State) (a : Admission) (j : Judged) (wrote : Bool) (back : List Word)
    (h : TablesCanonical s) : TablesCanonical (State.finishAdmission s a j wrote back) := by
  simp only [State.finishAdmission]
  repeat (first
    | with_reducible exact h | with_reducible refine State.markChanged_tables _ _ ?_
    | with_reducible refine State.recomposeToday_tables _ _ _ ?_
    | with_reducible refine State.endAdmission_tables _ _ _ _ ?_
    | with_reducible refine State.commit_tables _ _ _ ?_ | with_reducible refine State.reportTraps_tables _ _ _ _ ?_
    | split)

theorem State.beginWriting_tables (s : State) (a : Admission) (j : Judged) (back : List Word) (second : Bool)
    (h : TablesCanonical s) : TablesCanonical (State.beginWriting s a j back second) := by
  simp only [State.beginWriting]
  repeat (first
    | with_reducible exact h | with_reducible refine State.onAdu_tables _ _ rfl rfl rfl rfl rfl ?_
    | with_reducible refine State.finishAdmission_tables _ _ _ _ _ ?_ | split)

theorem State.decideAdmission_tables (s : State) (a : Admission) (p : Proposal)
    (h : TablesCanonical s) : TablesCanonical (State.decideAdmission s a p) := by
  simp only [State.decideAdmission]
  repeat (first
    | with_reducible exact h | with_reducible refine State.withhold_tables _ _ _ _ ?_
    | with_reducible refine State.beginWriting_tables _ _ _ _ _ ?_ | split)

theorem State.advanceAdmission_tables (s : State) (a : Admission) (got : List (Option Word))
    (h : TablesCanonical s) : TablesCanonical (State.advanceAdmission s a got) := by
  simp only [State.advanceAdmission]
  repeat (first
    | with_reducible exact h | with_reducible refine State.onAdu_tables _ _ rfl rfl rfl rfl rfl ?_
    | with_reducible refine State.decideAdmission_tables _ _ _ ?_ | split)

theorem State.voidMemory_tables (s : State) (a : Admission) (back : List Word)
    (h : TablesCanonical s) : TablesCanonical (State.voidMemory s a back) := by
  simp only [State.voidMemory]
  repeat (first
    | with_reducible exact h | with_reducible refine State.finishAdmission_tables _ _ _ _ _ ?_
    | with_reducible refine State.beginWriting_tables _ _ _ _ _ ?_ | split)

theorem State.presentLast_tables (s : State) (rest : List WordWrite) (h : TablesCanonical s) :
    TablesCanonical (State.presentLast s rest) := by
  unfold State.presentLast
  exact State.arbitrate_tables _ (State.presentTail_tables _ (State.leaveTail_tables _ _ _ h))

theorem State.admissionWritten_tables (s : State) (a : Admission) (j : Judged) (back : List Word) (todo : List WordWrite) (second error : Bool)
    (h : TablesCanonical s) : TablesCanonical (State.admissionWritten s a j back todo second error) := by
  unfold State.admissionWritten
  dsimp only
  split
  · exact State.voidMemory_tables _ _ _ h
  · rcases todo.drop 1 with _ | ⟨a, _ | ⟨b, l⟩⟩
    · exact State.onAdu_tables _ _ rfl rfl rfl rfl rfl h
    · exact State.finishAdmission_tables _ _ _ _ _ (State.presentLast_tables _ _ h)
    · exact State.onAdu_tables _ _ rfl rfl rfl rfl rfl h

theorem State.backReadDone_tables (s : State) (a : Admission) (j : Judged) (got : List (Option Word))
    (h : TablesCanonical s) : TablesCanonical (State.backReadDone s a j got) := by
  unfold State.backReadDone
  split
  · exact State.beginWriting_tables _ _ _ _ _ h
  · exact State.finishAdmission_tables _ _ _ _ _ h
  · exact State.onAdu_tables _ _ rfl rfl rfl rfl rfl h

theorem State.takeRequest_tables (s : State) (rk : RequestKind) (go : State → RequestClaim → State) (hg : ∀ s r, TablesCanonical s → TablesCanonical (go s r))
    (h : TablesCanonical s) : TablesCanonical (State.takeRequest s rk go) := by
  simp only [State.takeRequest]
  repeat (first
    | with_reducible exact h | with_reducible refine State.take_tables _ _ ?_ | with_reducible refine hg _ _ ?_
    | split)

theorem State.requestNone_tables (s : State) (r : RequestClaim)
    (h : TablesCanonical s) : TablesCanonical (State.requestNone s r) := by
  simp only [State.requestNone]
  repeat (first
    | with_reducible exact h | with_reducible refine State.setSlot_tables _ _ _ ?_
    | with_reducible refine State.endClaim_tables _ ?_ | with_reducible refine State.release_tables _ ?_ | split)

theorem State.beginRequest_tables (k : AdmissionKind) (s : State) (r : RequestClaim)
    (h : TablesCanonical s) : TablesCanonical (State.beginRequest k s r) := by
  simp only [State.beginRequest]
  repeat (first
    | with_reducible exact h | with_reducible refine State.advanceAdmission_tables _ _ _ ?_ | split)

theorem State.takePanel_tables (s : State) (b : Button) (go : State → PanelEvent → State) (hg : ∀ s e, TablesCanonical s → TablesCanonical (go s e))
    (h : TablesCanonical s) : TablesCanonical (State.takePanel s b go) := by
  simp only [State.takePanel]
  repeat (first
    | with_reducible exact h | with_reducible refine State.take_tables _ _ ?_ | with_reducible refine hg _ _ ?_
    | split)

theorem State.minuteReaches_tables (s : State) (h : TablesCanonical s) : TablesCanonical (State.minuteReaches s) := by
  simp only [State.minuteReaches]
  repeat (first
    | with_reducible exact h | with_reducible refine State.noticesBetweenClaims_tables _ ?_
    | with_reducible refine State.onPlu_tables _ _ rfl rfl ?_
    | with_reducible refine State.cateringMinute_tables _ ?_ | with_reducible refine State.atuMinute_tables _ ?_
    | with_reducible refine State.workWindows_tables _ ?_ | split)

theorem State.minuteExpiry_tables (s : State) (h : TablesCanonical s) : TablesCanonical (State.minuteExpiry s) := by
  simp only [State.minuteExpiry]
  repeat (first
    | with_reducible exact h | with_reducible refine State.onClock_tables _ _ ?_
    | with_reducible refine State.minuteReaches_tables _ ?_ | split)

theorem State.dayEndActs_tables (s : State) (h : TablesCanonical s) : TablesCanonical (State.dayEndActs s) := by
  simp only [State.dayEndActs]
  repeat (first
    | with_reducible exact h | with_reducible refine State.noticesBetweenClaims_tables _ ?_
    | with_reducible refine State.onClock_tables _ _ ?_
    | with_reducible refine State.onBsc_tables _ _ ?_ | with_reducible refine State.dayClose_tables _ _ ?_ | split)

theorem State.dayEndExpiry_tables (s : State) (h : TablesCanonical s) : TablesCanonical (State.dayEndExpiry s) := by
  simp only [State.dayEndExpiry]
  repeat (first
    | with_reducible exact h | with_reducible refine State.onClock_tables _ _ ?_
    | with_reducible refine State.dayEndActs_tables _ ?_ | split)

theorem State.carry_tables (s : State) (h : TablesCanonical s) : TablesCanonical (State.carry s) := by
  simp only [State.carry]
  repeat (first
    | with_reducible exact h | with_reducible refine State.onClock_tables _ _ ?_
    | with_reducible refine State.minuteExpiry_tables _ ?_ | with_reducible refine State.dayEndExpiry_tables _ ?_
    | split)

theorem State.pulse_tables (s : State) (h : TablesCanonical s) : TablesCanonical (State.pulse s) := by
  simp only [State.pulse]
  repeat (first
    | with_reducible exact h | with_reducible refine State.onClock_tables _ _ ?_
    | with_reducible refine State.carry_tables _ ?_ | split)

theorem State.takeDeferred_tables (s : State) (h : TablesCanonical s) : TablesCanonical (State.takeDeferred s) := by
  simp only [State.takeDeferred]
  repeat (first
    | with_reducible exact h | with_reducible refine State.onClock_tables _ _ ?_
    | with_reducible refine State.minuteReaches_tables _ ?_ | with_reducible refine State.dayEndActs_tables _ ?_
    | split)

theorem State.passEnd_tables (s : State) (h : TablesCanonical s) : TablesCanonical (State.passEnd s) := by
  simp only [State.passEnd]
  repeat (first
    | with_reducible exact h | with_reducible refine State.onCtu_tables _ _ rfl ?_
    | with_reducible refine State.onClock_tables _ _ ?_ | with_reducible refine State.onBsc_tables _ _ ?_
    | with_reducible refine State.raiseScan_tables _ ?_ | with_reducible refine State.dayEndActs_tables _ ?_
    | with_reducible refine State.takeDeferred_tables _ ?_ | split)

theorem State.visitEnded_tables (s : State) (h : TablesCanonical s) : TablesCanonical (State.visitEnded s) := by
  unfold State.visitEnded
  dsimp only
  split
  · exact State.onBsc_tables _ _ (State.endClaim_tables _ h)
  · exact State.passEnd_tables _ (State.endClaim_tables _ h)

theorem State.visitWritten_tables (s : State) (todo : List WordWrite) (again : List WordWrite → Claim)
    (h : TablesCanonical s) : TablesCanonical (State.visitWritten s todo again) := by
  unfold State.visitWritten
  rcases todo.drop 1 with _ | ⟨a, _ | ⟨b, l⟩⟩
  · exact State.onAdu_tables _ _ rfl rfl rfl rfl rfl h
  · exact State.visitEnded_tables _ (State.leaveTail_tables _ _ _ h)
  · exact State.onAdu_tables _ _ rfl rfl rfl rfl rfl h

theorem State.clearSlot_tables (s : State) (r : SlotRef)
    (h : TablesCanonical s) : TablesCanonical (State.clearSlot s r) := by
  simp only [State.clearSlot]
  repeat (first
    | with_reducible exact h | with_reducible refine State.setSlot_tables _ _ _ ?_ | split)

theorem State.beginClean_tables (s : State) (h : TablesCanonical s) : TablesCanonical (State.beginClean s) := by
  simp only [State.beginClean]
  repeat (first
    | with_reducible exact h | with_reducible refine State.onAdu_tables _ _ rfl rfl rfl rfl rfl ?_
    | with_reducible refine State.clearSlot_tables _ _ ?_ | split)

theorem State.turnoverFree_tables (s : State) (r : SlotRef)
    (h : TablesCanonical s) : TablesCanonical (State.turnoverFree s r) := by
  simp only [State.turnoverFree]
  repeat (first
    | with_reducible exact h | with_reducible refine State.freeEntry_tables _ _ ?_
    | with_reducible refine State.markChanged_tables _ _ ?_ | with_reducible refine State.notices_tables _ _ ?_
    | split)

theorem State.beginTurnover_tables (s : State) (h : TablesCanonical s) : TablesCanonical (State.beginTurnover s) := by
  simp only [State.beginTurnover]
  repeat (first
    | with_reducible exact h | with_reducible refine State.onAdu_tables _ _ rfl rfl rfl rfl rfl ?_
    | with_reducible refine State.turnoverFree_tables _ _ ?_ | split)

theorem State.openTurnover_tables (s : State) (h : TablesCanonical s) : TablesCanonical (State.openTurnover s) := by
  simp only [State.openTurnover]
  refine State.endClaim_tables _ (State.onBsc_tables _ _ ?_)
  obtain ⟨hl, hd, ⟨h1, h2, h3, h4, h5⟩, ⟨h6, h7⟩, h8, ⟨h9, h10, h11⟩, h12⟩ := h
  exact ⟨hl, hd, ⟨h1, h2, Table.wfFrom_filter _ _ _ _ h3, h4, h5⟩, ⟨h6, h7⟩, h8, ⟨h9, h10, h11⟩, h12⟩

theorem State.endKeep_tables (s : State) (r : SlotRef) (rebuilt : Bool)
    (h : TablesCanonical s) : TablesCanonical (State.endKeep s r rebuilt) := by
  simp only [State.endKeep]
  repeat (first
    | with_reducible exact h | with_reducible refine State.recomposeToday_tables _ _ _ ?_
    | with_reducible refine State.visitEnded_tables _ ?_ | split)

theorem State.keepWrite_tables (s : State) (r : SlotRef) (rebuilt : Bool) (l : List WordWrite)
    (h : TablesCanonical s) : TablesCanonical (State.keepWrite s r rebuilt l) := by
  simp only [State.keepWrite]
  repeat (first
    | with_reducible exact h | with_reducible refine State.onAdu_tables _ _ rfl rfl rfl rfl rfl ?_
    | with_reducible refine State.markChanged_tables _ _ ?_ | split)

theorem State.handOver_tables (s : State) (o : OrderIx) (fate : Fate) (st : Option OrderState) (resend : Bool)
    (e : OrderEntry) (h : TablesCanonical s) : TablesCanonical (s.handOver o fate st resend e).1 := by
  unfold State.handOver
  dsimp only
  split
  · exact h
  · rcases fate with _ | _ | _ <;> rcases st with _ | (_ | _ | _ | _ | _ | _ | _ | _ | _ | _) <;>
      (try dsimp only) <;> (try split) <;>
      first
        | with_reducible exact h
        | with_reducible exact State.queueOrder_tables _ _ _ h
        | with_reducible exact State.decideOrder_tables _ _ _ h
        | with_reducible exact State.recallOrder_tables _ _ _ _ h
        | with_reducible exact State.enqueue_tables _ _ (State.decideOrder_tables _ _ _ h)

theorem State.keepHandOver_tables (s : State) (r : SlotRef) (t : Taken) (k : KeepReads) (j : KeepJudgement)
    (h : TablesCanonical s) : TablesCanonical (s.keepHandOver r t k j).1 := by
  unfold State.keepHandOver
  split
  · exact h
  · dsimp only
    split
    · exact h
    · exact State.handOver_tables _ _ _ _ _ _ h

theorem State.judgeKeep_tables (s : State) (r : SlotRef) (t : Taken) (k : KeepReads)
    (h : TablesCanonical s) : TablesCanonical (State.judgeKeep s r t k) := by
  have hh : ∀ j, TablesCanonical (s.keepHandOver r t k j).1 := fun j => State.keepHandOver_tables s r t k j h
  simp only [State.judgeKeep]
  split
  · exact State.endKeep_tables _ _ _ h
  · split
    · exact State.keepWrite_tables _ _ _ _ (State.setFlags_tables _ _ (hh _))
    · exact State.keepWrite_tables _ _ _ _ (hh _)
    · split
      · exact State.keepWrite_tables _ _ _ _ (State.takeEntry_tables _ _ (hh _))
      · exact State.endKeep_tables _ _ _ (State.takeEntry_tables _ _ (hh _))

theorem State.advanceKeep_tables (s : State) (r : SlotRef) (t : Taken) (got : List (Option Word))
    (h : TablesCanonical s) : TablesCanonical (State.advanceKeep s r t got) := by
  simp only [State.advanceKeep]
  repeat (first
    | with_reducible exact h
    | with_reducible refine State.onAdu_tables _ _ rfl rfl rfl rfl rfl ?_
    | with_reducible refine State.judgeKeep_tables _ _ _ _ ?_ | split)

theorem State.keepReadDone_tables (s : State) (r : SlotRef) (t : Taken) (got : List (Option Word)) (data : Word) (error : Bool)
    (h : TablesCanonical s) : TablesCanonical (State.keepReadDone s r t got data error) := by
  simp only [State.keepReadDone]
  repeat (first
    | with_reducible exact h
    | with_reducible refine State.advanceKeep_tables _ _ _ _ ?_
    | with_reducible refine State.setFlags_tables _ _ ?_
    | with_reducible refine State.keepWrite_tables _ _ _ _ ?_ | split)

theorem State.beginKeep_tables (s : State) (h : TablesCanonical s) : TablesCanonical (State.beginKeep s) := by
  simp only [State.beginKeep]
  repeat (first
    | with_reducible exact h | with_reducible refine State.onAdu_tables _ _ rfl rfl rfl rfl rfl ?_ | split)

theorem State.claimAccessDone_tables (s : State) (data : Word) (error : Bool)
    (h : TablesCanonical s) : TablesCanonical (State.claimAccessDone s data error) := by
  unfold State.claimAccessDone
  have hf : TablesCanonical (if error = true then s.setFlags flagMemerr else s) := by
    split
    · exact State.setFlags_tables _ _ h
    · exact h
  split
  · exact h
  · split <;> (try dsimp only)
    · exact State.advanceAdmission_tables _ _ _ h
    · exact State.backReadDone_tables _ _ _ _ h
    · exact State.admissionWritten_tables _ _ _ _ _ _ _ h
    · exact State.lifeWritten_tables _ _ _ _ _ _ _ h
    · exact State.visitWritten_tables _ _ _ hf
    · exact State.visitWritten_tables _ _ _ hf
    · exact State.keepReadDone_tables _ _ _ _ _ _ h
    · split
      · exact State.endKeep_tables _ _ _ (State.leaveTail_tables _ _ _ hf)
      · exact State.onAdu_tables _ _ rfl rfl rfl rfl rfl hf

theorem State.takeVisit_tables (s : State) (pass : PassKind) (opening : Bool) (go : State → State) (hg : ∀ s, TablesCanonical s → TablesCanonical (go s))
    (h : TablesCanonical s) : TablesCanonical (State.takeVisit s pass opening go) := by
  simp only [State.takeVisit]
  repeat (first
    | with_reducible exact h | with_reducible refine State.take_tables _ _ ?_ | with_reducible refine hg _ ?_
    | split)

theorem State.beginMinute_tables (s : State) (c : MinuteClaim)
    (h : TablesCanonical s) : TablesCanonical (State.beginMinute s c) := by
  simp only [State.beginMinute]
  repeat (first
    | with_reducible exact h | with_reducible refine State.endClaim_tables _ ?_
    | with_reducible refine State.beginLife_tables _ _ ?_ | split)

theorem State.takeMinute_tables (s : State) (rows : List WalkRow)
    (h : TablesCanonical s) : TablesCanonical (State.takeMinute s rows) := by
  simp only [State.takeMinute]
  repeat (first
    | with_reducible exact h | with_reducible refine State.take_tables _ _ ?_
    | with_reducible refine State.beginMinute_tables _ _ ?_ | split)

theorem State.takeEvent_tables (s : State) (h : TablesCanonical s) : TablesCanonical (State.takeEvent s) := by
  simp only [State.takeEvent]
  repeat (first
    | with_reducible exact h | with_reducible refine State.onPlu_tables _ _ rfl rfl ?_
    | with_reducible refine State.onAtu_tables _ _ rfl rfl rfl ?_ | split)

theorem State.beginPanelLife_tables (s : State) (b : Nat × PoolEntry) (change : LifeChange)
    (h : TablesCanonical s) : TablesCanonical (State.beginPanelLife s b change) := by
  simp only [State.beginPanelLife]
  repeat (first
    | with_reducible exact h | with_reducible refine State.beginLife_tables _ _ ?_ | split)

theorem State.beginCheckin_tables (s : State) (ev : PanelEvent)
    (h : TablesCanonical s) : TablesCanonical (State.beginCheckin s ev) := by
  simp only [State.beginCheckin]
  repeat (first
    | with_reducible exact h | with_reducible refine State.endClaim_tables _ ?_
    | with_reducible refine State.answerPanel_tables _ _ _ ?_
    | with_reducible refine State.beginPanelLife_tables _ _ _ ?_ | split)

theorem State.beginEnd_tables (s : State) (ev : PanelEvent)
    (h : TablesCanonical s) : TablesCanonical (State.beginEnd s ev) := by
  simp only [State.beginEnd]
  repeat (first
    | with_reducible exact h | with_reducible refine State.endClaim_tables _ ?_
    | with_reducible refine State.answerPanel_tables _ _ _ ?_
    | with_reducible refine State.beginPanelLife_tables _ _ _ ?_ | split)

theorem State.draftNotice_tables (s : State) (r : SlotRef)
    (h : TablesCanonical s) : TablesCanonical (State.draftNotice s r) := by
  unfold State.draftNotice
  split
  · obtain ⟨hl, hd, ⟨h1, h2, h3, h4, h5⟩, ⟨h6, h7⟩, h8, ⟨h9, h10, h11⟩, h12⟩ := h
    exact ⟨hl, hd, ⟨h1, h2, Table.wf_set _ _ _ _ h3, h4, Table.wf_set _ _ _ _ h5⟩, ⟨h6, h7⟩, h8, ⟨h9, h10, h11⟩, h12⟩
  · exact h

theorem State.linkGood_tables (s : State) (r : Room)
    (h : TablesCanonical s) : TablesCanonical (State.linkGood s r) := by
  simp only [State.linkGood]
  repeat (first
    | with_reducible exact h | with_reducible refine State.setPanel_tables _ _ _ ?_
    | with_reducible refine State.setDirty_tables _ _ ?_
    | with_reducible refine State.markUninitialised_tables _ _ ?_
    | with_reducible refine State.holdReturn_tables _ _ _ ?_ | split)

theorem State.settleMarks_tables (s : State) (l : LoopNo) (r : Room)
    (h : TablesCanonical s) : TablesCanonical (State.settleMarks s l r) := by
  simp only [State.settleMarks]
  repeat (first
    | with_reducible exact h | with_reducible refine State.setPanel_tables _ _ _ ?_ | split)

theorem State.takeSample_tables (s : State) (r : Room) (count : Nat)
    (h : TablesCanonical s) : TablesCanonical (State.takeSample s r count) := by
  simp only [State.takeSample]
  repeat (first
    | with_reducible exact h | with_reducible refine State.setFilter_tables _ _ _ ?_
    | with_reducible refine State.present_tables _ _ ?_ | with_reducible refine State.makeFast_tables _ _ ?_
    | with_reducible refine State.holdReport_tables _ _ _ ?_ | split)

theorem State.handCount_tables (s : State) (r : Room) (page : Bool) (count : Nat)
    (h : TablesCanonical s) : TablesCanonical (State.handCount s r page count) := by
  simp only [State.handCount]
  repeat (first
    | with_reducible exact h | with_reducible refine State.takeSample_tables _ _ _ ?_ | split)

theorem State.buttonEvent_tables (s : State) (l : LoopNo) (r : Room) (b : Button) (arg : Nat) (tag : BitVec 3)
    (h : TablesCanonical s) : TablesCanonical (State.buttonEvent s l r b arg tag) := by
  simp only [State.buttonEvent]
  repeat (first
    | with_reducible exact h | with_reducible refine State.onPlu_tables _ _ rfl rfl ?_
    | with_reducible refine State.setPanel_tables _ _ _ ?_ | with_reducible refine State.makeFast_tables _ _ ?_
    | split)

theorem State.goodReply_tables (s : State) (l : LoopNo) (x : Exchange) (bs : List Byte)
    (h : TablesCanonical s) : TablesCanonical (State.goodReply s l x bs) := by
  simp only [State.goodReply]
  repeat (first
    | with_reducible exact h | with_reducible refine settle_tables _ ?_
    | with_reducible refine State.linkGood_tables _ _ ?_ | with_reducible refine State.settleMarks_tables _ _ _ ?_
    | with_reducible refine State.handCount_tables _ _ _ _ ?_
    | with_reducible refine State.buttonEvent_tables _ _ _ _ _ _ ?_ | split)

theorem State.reply_tables (s : State) (l : LoopNo) (bs : List Byte)
    (h : TablesCanonical s) : TablesCanonical (State.reply s l bs) := by
  simp only [State.reply]
  repeat (first
    | with_reducible exact h | with_reducible refine State.endExchange_tables _ _ ?_
    | with_reducible refine State.missExchange_tables _ _ ?_
    | with_reducible refine State.goodReply_tables _ _ _ _ ?_ | split)

theorem State.hardwareReset_tables (straps : BitVec 3) (s : State) : TablesCanonical (State.hardwareReset straps s) :=
  TablesCanonical.reset

theorem State.endOfReset_tables (s : State) (h : TablesCanonical s) : TablesCanonical (State.endOfReset s) := by
  unfold State.endOfReset
  split
  · exact State.onMps_tables _ _ rfl h
  · exact h

theorem State.restart_tables (s : State) (h : TablesCanonical s) : TablesCanonical (State.restart s) := by
  have hk := State.restartKlc_tables s h
  have hr := TablesCanonical.reset
  exact ⟨rfl, hk.2.1, hr.2.2⟩

theorem State.loadClock_tables (s : State) (w : Word)
    (h : TablesCanonical s) : TablesCanonical (State.loadClock s w) := by
  simp only [State.loadClock]
  repeat (first
    | with_reducible exact h | with_reducible refine State.onCtu_tables _ _ rfl ?_
    | with_reducible refine State.onClock_tables _ _ ?_ | split)

theorem State.loadBank_tables (s : State) (w : Word)
    (h : TablesCanonical s) : TablesCanonical (State.loadBank s w) := by
  simp only [State.loadBank]
  repeat (first
    | with_reducible exact h | with_reducible refine State.onClock_tables _ _ ?_ | split)

theorem State.storeSetting_tables (s : State) (n : Nat) (data : Word) (lanes : Lanes)
    (h : TablesCanonical s) : TablesCanonical (State.storeSetting s n data lanes) := by
  simp only [State.storeSetting]
  repeat (first
    | with_reducible exact h | with_reducible refine State.onCtu_tables _ _ rfl ?_
    | with_reducible refine State.loadClock_tables _ _ ?_ | with_reducible refine State.loadBank_tables _ _ ?_
    | split)

theorem State.setCommand_tables (s : State) (w : Word) (st : CommandStatus) (r : CommandReason)
    (h : TablesCanonical s) : TablesCanonical (State.setCommand s w st r) := by
  simp only [State.setCommand]
  repeat (first
    | with_reducible exact h | with_reducible refine State.onCtu_tables _ _ rfl ?_ | split)

/-- Filters all at their reset values. -/
theorem State.clearFilters_tables (s : State) (h : TablesCanonical s) : TablesCanonical (s.onOcf fun _ => {}) := by
  obtain ⟨hl, hd, h1, h6, h8, h9⟩ := h
  exact ⟨hl, hd, h1, h6, rfl, h9⟩

theorem State.start_tables (s : State) (k : StartKind)
    (h : TablesCanonical s) : TablesCanonical (State.start s k) := by
  simp only [State.start]
  refine State.startAtu_tables _ (State.clearFilters_tables _ (State.startPlu_tables _ (State.onBsc_tables _ _
    (State.onClock_tables _ _ (State.onMps_tables _ _ ?_ (State.onCtu_tables _ _ ?_ h))))))
  all_goals rfl

theorem State.rebase_tables (s : State) (w : Word) (h : TablesCanonical s) : TablesCanonical (State.rebase s w) := by
  simp only [State.rebase]
  repeat (first
    | with_reducible exact h | with_reducible refine State.markUninitialised_tables _ _ ?_
    | with_reducible refine foldl_tables _ (fun _ _ h => ?_) _ _ ?_ | split)

theorem State.carryOut_tables (s : State) (c : CommandCode) (w : Word)
    (h : TablesCanonical s) : TablesCanonical (State.carryOut s c w) := by
  simp only [State.carryOut]
  repeat (first
    | with_reducible exact h | with_reducible refine State.kitchenClear_tables _ ?_
    | with_reducible refine State.swapPositions_tables _ _ _ _ ?_ | with_reducible refine State.restart_tables _ ?_
    | with_reducible refine State.start_tables _ _ ?_ | with_reducible refine State.rebase_tables _ _ ?_ | split)

theorem State.commandWrite_tables (s : State) (w : Word)
    (h : TablesCanonical s) : TablesCanonical (State.commandWrite s w) := by
  simp only [State.commandWrite]
  repeat (first
    | with_reducible exact h | with_reducible refine State.setCommand_tables _ _ _ _ ?_
    | with_reducible refine State.carryOut_tables _ _ _ ?_ | split)

theorem State.trapTaken_tables (s : State) (h : TablesCanonical s) : TablesCanonical (State.trapTaken s) := by
  simp only [State.trapTaken]
  repeat (first
    | with_reducible exact h | with_reducible refine State.onCtu_tables _ _ rfl ?_ | split)

theorem State.clearCauses_tables (s : State) (w : Word)
    (h : TablesCanonical s) : TablesCanonical (State.clearCauses s w) := by
  simp only [State.clearCauses]
  repeat (first
    | with_reducible exact h | with_reducible refine State.onCtu_tables _ _ rfl ?_ | split)

theorem State.act_tables (s : State) (n : Nat) (w : Word)
    (h : TablesCanonical s) : TablesCanonical (State.act s n w) := by
  simp only [State.act]
  repeat (first
    | with_reducible exact h | with_reducible refine State.clearFlags_tables _ _ ?_
    | with_reducible refine State.commandWrite_tables _ _ ?_ | with_reducible refine State.trapTaken_tables _ ?_
    | with_reducible refine State.clearCauses_tables _ _ ?_ | split)

theorem State.frameSent_tables (s : State) (h : TablesCanonical s) : TablesCanonical (State.frameSent s) := by
  simp only [State.frameSent]
  repeat (first
    | with_reducible exact h | with_reducible refine State.onKlc_tables _ _ ?_ | split)

theorem State.kitchenAnswer_tables (s : State) (sync station orderNumber ticketIndex verdict checksum : Word)
    (h : TablesCanonical s) : TablesCanonical (State.kitchenAnswer s sync station orderNumber ticketIndex verdict checksum) := by
  simp only [State.kitchenAnswer]
  repeat (first
    | with_reducible exact h | with_reducible refine State.validAnswer_tables _ _ _ _ _ ?_ | split)

theorem State.frameResend_tables (s : State) (h : TablesCanonical s) : TablesCanonical (State.frameResend s) := by
  simp only [State.frameResend]
  repeat (first
    | with_reducible exact h | with_reducible refine State.onKlc_tables _ _ ?_ | split)

theorem State.answerWaitExpiry_tables (s : State)
    (h : TablesCanonical s) : TablesCanonical (State.answerWaitExpiry s) := by
  simp only [State.answerWaitExpiry]
  repeat (first
    | with_reducible exact h | with_reducible refine State.onKlc_tables _ _ ?_
    | with_reducible refine State.linkIdle_tables _ ?_ | with_reducible refine State.haltLink_tables _ _ ?_ | split)

theorem State.nextFrameGapEnd_tables (s : State)
    (h : TablesCanonical s) : TablesCanonical (State.nextFrameGapEnd s) := by
  simp only [State.nextFrameGapEnd]
  repeat (first
    | with_reducible exact h | with_reducible refine State.onKlc_tables _ _ ?_ | split)

theorem State.toMemory_tables (s : State) (a : HostAccess)
    (h : TablesCanonical s) : TablesCanonical (State.toMemory s a) := by
  simp only [State.toMemory]
  repeat (first
    | with_reducible exact h | with_reducible refine State.onMps_tables _ _ rfl ?_
    | with_reducible refine State.present_tables _ _ ?_ | split)

theorem State.completeHost_tables (s : State) (data : Option Word) (error : Bool)
    (h : TablesCanonical s) : TablesCanonical (State.completeHost s data error) := by
  simp only [State.completeHost]
  repeat (first
    | with_reducible exact h | with_reducible refine State.onMps_tables _ _ rfl ?_ | split)

theorem State.withholdWrite_tables (s : State) (h : TablesCanonical s) : TablesCanonical (State.withholdWrite s) := by
  simp only [State.withholdWrite]
  repeat (first
    | with_reducible exact h | with_reducible refine State.setFlags_tables _ _ ?_
    | with_reducible refine State.completeHost_tables _ _ _ ?_ | split)

theorem State.readControl_tables (s : State) (n : Nat) (lanes : Lanes)
    (h : TablesCanonical s) : TablesCanonical (State.readControl s n lanes) := by
  simp only [State.readControl]
  repeat (first
    | with_reducible exact h | with_reducible refine State.onCtu_tables _ _ rfl ?_
    | with_reducible refine State.completeHost_tables _ _ _ ?_ | split)

theorem State.writeControl_tables (s : State) (n : Nat) (a : HostAccess)
    (h : TablesCanonical s) : TablesCanonical (State.writeControl s n a) := by
  simp only [State.writeControl]
  repeat (first
    | with_reducible exact h | with_reducible refine State.setFlags_tables _ _ ?_
    | with_reducible refine State.storeSetting_tables _ _ _ _ ?_ | with_reducible refine State.act_tables _ _ _ ?_
    | with_reducible refine State.toMemory_tables _ _ ?_ | with_reducible refine State.withholdWrite_tables _ ?_
    | split)

theorem State.noteDraft_tables (s : State) (r : SlotRef)
    (h : TablesCanonical s) : TablesCanonical (State.noteDraft s r) := by
  obtain ⟨hl, hd, ⟨h1, h2, h3, h4, h5⟩, ⟨h6, h7⟩, h8, ⟨h9, h10, h11⟩, h12⟩ := h
  exact ⟨hl, hd, ⟨h1, h2, h3, h4, Table.wf_set _ _ _ _ h5⟩, ⟨h6, h7⟩, h8, ⟨h9, h10, h11⟩, h12⟩

theorem State.holdRequest_tables (s : State) (r : SlotRef) (a : HostAccess)
    (h : TablesCanonical s) : TablesCanonical (State.holdRequest s r a) := by
  simp only [State.holdRequest]
  repeat (first
    | with_reducible exact h | with_reducible refine State.onMps_tables _ _ rfl ?_
    | with_reducible refine State.onAdu_tables _ _ rfl rfl rfl rfl rfl ?_ | split)

theorem State.writeSlot_tables (s : State) (r : SlotRef) (n : Nat) (a : HostAccess)
    (h : TablesCanonical s) : TablesCanonical (State.writeSlot s r n a) := by
  simp only [State.writeSlot]
  repeat (first
    | with_reducible exact h | with_reducible refine State.setFlags_tables _ _ ?_
    | with_reducible refine State.toMemory_tables _ _ ?_ | with_reducible refine State.withholdWrite_tables _ ?_
    | with_reducible refine State.noteDraft_tables _ _ ?_ | with_reducible refine State.holdRequest_tables _ _ _ ?_
    | split)

theorem State.writeOrder_tables (s : State) (o : OrderIx) (n : Nat) (a : HostAccess)
    (h : TablesCanonical s) : TablesCanonical (State.writeOrder s o n a) := by
  simp only [State.writeOrder]
  repeat (first
    | with_reducible exact h | with_reducible refine State.toMemory_tables _ _ ?_
    | with_reducible refine State.withholdWrite_tables _ ?_ | split)

theorem State.captureLine_tables (s : State) (r : Room) (n : Nat) (data : Word) (lanes : Lanes)
    (h : TablesCanonical s) : TablesCanonical (State.captureLine s r n data lanes) := by
  simp only [State.captureLine]
  repeat (first
    | with_reducible exact h | with_reducible refine State.setPanel_tables _ _ _ ?_
    | with_reducible refine State.setDirty_tables _ _ ?_ | split)

theorem State.writePage_tables (s : State) (r : Room) (n : Nat) (a : HostAccess)
    (h : TablesCanonical s) : TablesCanonical (State.writePage s r n a) := by
  simp only [State.writePage]
  repeat (first
    | with_reducible exact h | with_reducible refine State.toMemory_tables _ _ ?_
    | with_reducible refine State.captureLine_tables _ _ _ _ _ ?_ | split)

theorem State.captureDirectory_tables (s : State) (r : Room) (n : Nat) (data : Word) (lanes : Lanes)
    (h : TablesCanonical s) : TablesCanonical (State.captureDirectory s r n data lanes) := by
  obtain ⟨hl, hd, ⟨h1, h2, h3, h4, h5⟩, ⟨h6, h7⟩, h8, ⟨h9, h10, h11⟩, h12⟩ := h
  exact ⟨hl, Table.wf_set _ _ _ _ hd, ⟨h1, h2, h3, h4, h5⟩, ⟨h6, h7⟩, h8, ⟨h9, h10, h11⟩, h12⟩

theorem State.hostWrite_tables (s : State) (a : HostAccess)
    (h : TablesCanonical s) : TablesCanonical (State.hostWrite s a) := by
  simp only [State.hostWrite]
  repeat (first
    | with_reducible exact h | with_reducible refine State.toMemory_tables _ _ ?_
    | with_reducible refine State.withholdWrite_tables _ ?_
    | with_reducible refine State.writeControl_tables _ _ _ ?_
    | with_reducible refine State.writeSlot_tables _ _ _ _ ?_
    | with_reducible refine State.writeOrder_tables _ _ _ _ ?_
    | with_reducible refine State.writePage_tables _ _ _ _ ?_
    | with_reducible refine State.captureDirectory_tables _ _ _ _ _ ?_ | split)

theorem State.hostRead_tables (s : State) (a : HostAccess)
    (h : TablesCanonical s) : TablesCanonical (State.hostRead s a) := by
  simp only [State.hostRead]
  repeat (first
    | with_reducible exact h | with_reducible refine State.toMemory_tables _ _ ?_
    | with_reducible refine State.completeHost_tables _ _ _ ?_
    | with_reducible refine State.readControl_tables _ _ _ ?_ | split)

theorem State.hostTreat_tables (s : State) (a : HostAccess)
    (h : TablesCanonical s) : TablesCanonical (State.hostTreat s a) := by
  simp only [State.hostTreat]
  repeat (first
    | with_reducible exact h | with_reducible refine State.hostWrite_tables _ _ ?_
    | with_reducible refine State.hostRead_tables _ _ ?_ | split)

theorem State.deliver_tables (s : State) (a : Access) (data : Word) (error : Bool)
    (h : TablesCanonical s) : TablesCanonical (State.deliver s a data error) := by
  unfold State.deliver
  split
  · exact State.completeHost_tables _ _ _ h
  · exact State.onMps_tables _ _ rfl (State.completeHost_tables _ _ _ h)
  · exact State.claimAccessDone_tables _ _ _ h
  · exact State.claimAccessDone_tables _ _ _ h
  · exact State.tailDone_tables _ _ h
  · exact State.cquDone_tables _ _ h
  · exact State.assemblyRead_tables _ _ _ h
  · exact State.finalDone_tables _ _ h
  all_goals first | exact h | (split <;> exact h)

theorem State.accessComplete_tables (s : State) (error nextFirst : Bool)
    (h : TablesCanonical s) : TablesCanonical (State.accessComplete s error nextFirst) := by
  unfold State.accessComplete
  split
  · exact h
  · refine State.deliver_tables _ _ _ _ ?_
    split
    · exact h
    · exact State.arbitrate_tables _ (State.onMps_tables _ _ rfl h)

theorem settleAfter_tables (before after : State) (nextFirst : Bool)
    (h : TablesCanonical after) : TablesCanonical (settleAfter before after nextFirst) := by
  unfold settleAfter
  dsimp only
  split
  · exact presentAll_tables _ h
  · exact State.arbitrate_tables _ (presentAll_tables _ h)

end Sys2Proof.Machine
end

