-- ==== Sys2Proof/Laws/ClaimsAndPasses.lean ====
section
/-! SUPPORT. Every operation that begins, carries on or ends a claim or a pass keeps the booking side (`Side`). -/

namespace Sys2Proof.Machine

/-! ### The overlap test (R57) -/

/-- The interval of a candidate meets none of a list. -/
def Clear (c d : Nat) (l : List PoolEntry) : Prop := ∀ e ∈ l, ¬ Overlaps c d e.start e.stop

theorem min?_mem_le (l : List Nat) (m : Nat) (h : l.min? = some m) : m ∈ l ∧ ∀ x ∈ l, m ≤ x := by
  have := List.min?_eq_some_iff.1 h
  exact this

/-- Up to the first overlap nothing is met. -/
theorem firstOverlap_clear (l : List PoolEntry) (c d : Nat) (hl : ∀ e ∈ l, ¬ (e.start ≤ c ∧ c < e.stop)) :
    (firstOverlap l c d = none → Clear c d l)
      ∧ ∀ cut, firstOverlap l c d = some cut → c < cut ∧ cut < d ∧ Clear c cut l := by
  unfold firstOverlap
  constructor
  · intro h e he ho
    rw [List.min?_eq_none_iff, List.map_eq_nil_iff, List.filter_eq_nil_iff] at h
    have := h e he
    simp only [Bool.and_eq_true, decide_eq_true_eq] at this
    exact this ⟨ho.2, ho.1⟩
  · intro cut h
    obtain ⟨hm, hle⟩ := min?_mem_le _ _ h
    simp only [List.mem_map, List.mem_filter, Bool.and_eq_true, decide_eq_true_eq] at hm
    obtain ⟨e, ⟨he, h1, h2⟩, rfl⟩ := hm
    have hc : ∀ f ∈ l, c < f.stop → c < f.start := fun f hf h0 => by
      have := hl f hf
      omega
    refine ⟨hc e he h2, h1, fun f hf ho => ?_⟩
    have h3 := hc f hf ho.1
    have h4 : f.start < e.start := ho.2
    have h5 := hle f.start (by
      simp only [List.mem_map, List.mem_filter, Bool.and_eq_true, decide_eq_true_eq]
      exact ⟨f, ⟨hf, by omega, ho.1⟩, rfl⟩)
    omega

theorem occupiedStart_false (l : List PoolEntry) (c : Nat) (h : occupiedStart l c = false) :
    ∀ e ∈ l, ¬ (e.start ≤ c ∧ c < e.stop) := by
  intro e he h0
  unfold occupiedStart at h
  rw [List.any_eq_false] at h
  have := h e he
  simp only [Bool.and_eq_true, decide_eq_true_eq] at this
  exact this h0

theorem clashCheck_clear (l : List PoolEntry) (c d m stop : Nat) (b : Bool) (hcd : c < d)
    (h : clashCheck l c d m = some (stop, b)) : c < stop ∧ Clear c stop l := by
  unfold clashCheck at h
  split at h
  · cases h
  · rename_i ho
    have hl := occupiedStart_false l c (by simpa using ho)
    obtain ⟨h1, h2⟩ := firstOverlap_clear l c d hl
    split at h
    · rename_i hn
      cases h
      exact ⟨hcd, h1 hn⟩
    · rename_i cut hc
      split at h
      · cases h
      · cases h
        obtain ⟨h3, _, h4⟩ := h2 _ hc
        exact ⟨h3, h4⟩

/-! ### The judgement of an admission -/

section Judge
variable {s : State}

/-- The other bookings of a room. -/
theorem Booked.mem_others (h : Booked s.slotState s.entry s.schedule s.binding) (b : Book) (r : Room) (skip : Option Nat)
    (i : Nat) (d : PoolEntry) (hd : s.entry i = some d) (hb : d.at_.book = b) (hr : d.at_.room = r) (hi : skip ≠ some i) :
    d ∈ s.others b r skip := by
  unfold State.others State.bookings
  rw [List.mem_map]
  refine ⟨(i, d), ?_, rfl⟩
  rw [List.mem_filter, List.mem_filterMap]
  refine ⟨⟨i, (h.listed b r i).2 ⟨d, hd, hb, hr⟩, by rw [hd]; rfl⟩, ?_⟩
  rw [decide_eq_true_eq]
  exact fun h0 => hi h0.symm

theorem State.liveEntry_some (r : SlotRef) (e : PoolEntry) (h : s.liveEntry r = some e) :
    ∃ i, s.slotState r = .live i ∧ s.entry i = some e := by
  unfold State.liveEntry at h
  split at h
  · rename_i i hi
    exact ⟨i, (s.liveIndex_eq r i).1 hi, h⟩
  · cases h

/-- What an admission that chooses its own slot keeps to: a FREE slot, a wish of at least a minute, and a minute of the day. -/
def WalkUp (s : State) (a : Admission) : Prop :=
  a.kind = .booknow →
    (∀ n, a.slot = some n → ∀ j, s.slotState ⟨a.book, a.room, n⟩ ≠ .live j) ∧ 1 ≤ a.minutes ∧ a.taken.now ≤ 1439

variable (h : Booked s.slotState s.entry s.schedule s.binding)
include h

theorem Booked.judgeNewAmend (a : Admission) (n : SlotNo) (p : Proposal) (hs : a.slot = some n) :
    OutcomeAgrees s a (s.judgeNewAmend a ⟨a.book, a.room, n⟩ p).2 := by
  unfold State.judgeNewAmend
  dsimp only
  split
  · trivial
  · rename_i hv
    split
    · trivial
    · rename_i hoc
      split
      · trivial
      · have hlen : proposedLength p.w0 ≠ 0 := by
          intro h0
          unfold State.voidCheck at hv
          simp only [h0] at hv
          repeat (first | contradiction | split at hv)
          all_goals simp_all
        unfold State.judgeInterval
        dsimp only
        split
        · trivial
        · rename_i stop trimmed hcl
          obtain ⟨h1, h2⟩ := clashCheck_clear _ _ _ _ _ _ (by omega) hcl
          have hat : ∀ x y z u v w, (s.entryAfter a ⟨a.book, a.room, n⟩ (s.liveEntry ⟨a.book, a.room, n⟩) x y z u v).at_ = w →
              w = ⟨a.book, a.room, n⟩ := by
            intro x y z u v w hw
            rw [← hw]
            unfold State.entryAfter
            split
            · rename_i old hold
              obtain ⟨i, hi, he⟩ := s.liveEntry_some _ _ hold
              obtain ⟨d, hd, hda⟩ := (h.slots _ i).1 hi
              rw [he] at hd
              cases hd
              dsimp only
              split <;> exact hda
            · rfl
          have hst : ∀ x y z u v, (s.entryAfter a ⟨a.book, a.room, n⟩ (s.liveEntry ⟨a.book, a.room, n⟩) x y z u v).start = x
              ∧ (s.entryAfter a ⟨a.book, a.room, n⟩ (s.liveEntry ⟨a.book, a.room, n⟩) x y z u v).stop = y
              ∧ (s.entryAfter a ⟨a.book, a.room, n⟩ (s.liveEntry ⟨a.book, a.room, n⟩) x y z u v).order = u := by
            intro x y z u v
            unfold State.entryAfter
            split
            · dsimp only
              split <;> exact ⟨rfl, rfl, rfl⟩
            · exact ⟨rfl, rfl, rfl⟩
          refine ⟨?_, ?_, fun i d hd hb hr hne => ?_, fun o ho => ?_⟩
          · rw [hat _ _ _ _ _ _ rfl]
            unfold Admission.at?
            rw [hs]
            rfl
          · rw [(hst _ _ _ _ _).1, (hst _ _ _ _ _).2.1]
            exact h1
          · rw [(hst _ _ _ _ _).1, (hst _ _ _ _ _).2.1]
            refine h2 d (h.mem_others _ _ _ i d hd hb hr ?_)
            rw [hat _ _ _ _ _ _ rfl] at hne
            exact hne
          · rw [(hst _ _ _ _ _).2.2] at ho
            rw [hat _ _ _ _ _ _ rfl]
            split at ho
            · cases ho
            · rename_i hshort
              by_cases hnew : newlyAttached p (s.liveEntry ⟨a.book, a.room, n⟩) = true
              · left
                rw [if_pos hnew] at hoc
                constructor
                · unfold State.orderCheck at hoc
                  rw [ho] at hoc
                  dsimp only at hoc
                  split at hoc
                  · cases hoc
                  · split at hoc
                    · cases hoc
                    · split at hoc
                      · cases hoc
                      · split at hoc
                        · cases hoc
                        · rename_i hn
                          simpa using hn
                · have hne : (s.liveEntry ⟨a.book, a.room, n⟩).bind (·.order) ≠ some o := by
                    intro h0
                    unfold newlyAttached at hnew
                    rw [h0] at hnew
                    unfold orderOfField at ho
                    split at ho
                    · cases ho
                      simp at hnew
                    · cases ho
                  unfold admissionNotices
                  rw [ho] at hshort ⊢
                  dsimp only
                  rw [if_neg hne, if_neg hshort]
                  exact ⟨_, _, _, _, List.mem_append_right _ (List.mem_singleton.2 rfl)⟩
              · right
                unfold newlyAttached at hnew
                unfold orderOfField at ho
                split at ho
                · rename_i hlt
                  cases ho
                  simp only [Bool.and_eq_true, decide_eq_true_eq, not_and, Decidable.not_not] at hnew
                  have h3 := hnew (by omega)
                  cases hle : s.liveEntry ⟨a.book, a.room, n⟩ with
                  | none => rw [hle] at h3; simp at h3
                  | some old =>
                    rw [hle] at h3
                    simp only [Option.bind_some] at h3
                    cases hoo : old.order with
                    | none => rw [hoo] at h3; simp at h3
                    | some o' =>
                      rw [hoo] at h3
                      simp only [Option.map_some, Option.some.injEq] at h3
                      obtain ⟨i, hi, he⟩ := s.liveEntry_some _ _ hle
                      refine ⟨i, (h.bound _ i).2 ⟨old, he, ?_⟩, (s.liveIndex_eq _ i).2 hi⟩
                      rw [hoo]
                      exact congrArg some (Fin.ext h3.symm)
                · cases ho

theorem Booked.judgeBooknow (a : Admission) (hk : a.kind = .booknow) (hw : WalkUp s a) :
    OutcomeAgrees s a (s.judgeBooknow a).2 := by
  obtain ⟨h1, h2, h3⟩ := hw hk
  unfold State.judgeBooknow
  split
  · trivial
  · split
    · trivial
    · rename_i n hn
      split
      · trivial
      · dsimp only
        split
        · trivial
        · rename_i ho
          split
          · trivial
          · obtain ⟨h4, h5⟩ :=
              firstOverlap_clear _ _ (min (a.taken.now + a.minutes) 1440) (occupiedStart_false _ _ (by simpa using ho))
            have hday : a.taken.now < min (a.taken.now + a.minutes) 1440 := by omega
            generalize min (a.taken.now + a.minutes) 1440 = day at h4 h5 hday ⊢
            have key : ∀ stop, (firstOverlap (s.others a.book a.room none) a.taken.now day).getD day = stop →
                a.taken.now < stop ∧ Clear a.taken.now stop (s.others a.book a.room none) := by
              intro stop hstop
              cases hf : firstOverlap (s.others a.book a.room none) a.taken.now day with
              | none =>
                rw [hf, Option.getD_none] at hstop
                exact hstop ▸ ⟨hday, h4 hf⟩
              | some cut =>
                rw [hf, Option.getD_some] at hstop
                exact hstop ▸ ⟨(h5 cut hf).1, (h5 cut hf).2.2⟩
            refine ⟨?_, (key _ rfl).1, fun i d hd hb hr hne => ?_, fun o ho => ?_⟩
            · unfold Admission.at?
              rw [hn]
              rfl
            · exact (key _ rfl).2 d (h.mem_others _ _ _ i d hd hb hr (by simp))
            · cases ho

theorem Booked.judgeExtend (a : Admission) : OutcomeAgrees s a (s.judgeExtend a).2 := by
  unfold State.judgeExtend
  split
  · trivial
  · rename_i n hn
    dsimp only
    split
    · trivial
    · rename_i e he
      obtain ⟨i, hi, hei⟩ := s.liveEntry_some _ _ he
      obtain ⟨d, hd, hda⟩ := (h.slots _ i).1 hi
      rw [hei] at hd
      cases hd
      have hli := (s.liveIndex_eq _ i).2 hi
      split
      · trivial
      · rename_i hstop
        refine ⟨?_, ?_, fun j d hd hb hr hne => ?_, fun o ho => .inr ⟨i, (h.bound o i).2 ⟨e, hei, ho⟩, ?_⟩⟩
        · unfold Admission.at?
          rw [hn, Option.map_some]
          exact congrArg some hda.symm
        · have := h.interval i e hei
          dsimp only
          omega
        · have hji : i ≠ j := fun h0 => hne (by dsimp only; rw [hda, hli, h0])
          have hold := h.apart i j e d hei hd hji (by rw [hda, hb]) (by rw [hda, hr])
          have hint := h.interval i e hei
          have hdi := h.interval j d hd
          have hm := h.mem_others a.book a.room (some i) j d hd hb hr (fun h0 => hji (Option.some.inj h0))
          rw [hli] at hstop ⊢
          dsimp only
          intro ho
          unfold Overlaps at hold ho
          have h6 : e.stop ≤ d.start := by omega
          cases hf : firstOverlap (s.others a.book a.room (some i)) e.stop (e.stop + s.extstep) with
          | none =>
            rw [hf, Option.getD_none] at ho
            unfold firstOverlap at hf
            rw [List.min?_eq_none_iff, List.map_eq_nil_iff, List.filter_eq_nil_iff] at hf
            have := hf d hm
            simp only [Bool.and_eq_true, decide_eq_true_eq] at this
            omega
          | some cut =>
            rw [hf, Option.getD_some] at ho
            unfold firstOverlap at hf
            obtain ⟨hcm, hle⟩ := min?_mem_le _ _ hf
            simp only [List.mem_map, List.mem_filter, Bool.and_eq_true, decide_eq_true_eq] at hcm
            obtain ⟨f, ⟨_, hf1, _⟩, hf2⟩ := hcm
            have := hle d.start (by
              simp only [List.mem_map, List.mem_filter, Bool.and_eq_true, decide_eq_true_eq]
              exact ⟨d, ⟨hm, by omega, by omega⟩, rfl⟩)
            omega
        · dsimp only
          rw [hda]
          exact hli

/-- What the checks admit agrees with the bookings. -/
theorem Booked.judge (a : Admission) (p : Proposal) (hw : WalkUp s a) : OutcomeAgrees s a (s.judge a p).2 := by
  unfold State.judge
  split
  · rename_i hs
    exact h.judgeNewAmend a _ p hs
  · rename_i hs
    exact h.judgeNewAmend a _ p hs
  · unfold State.judgeCancel
    split
    · trivial
    · split <;> trivial
  · rename_i hk
    exact h.judgeBooknow a hk hw
  · exact h.judgeExtend a
  · trivial

end Judge

/-! ### The commit of an admission -/

/-- A decided order is HELD. -/
theorem State.decideOrder_held (s : State) (o : OrderIx) (e : OrderEntry) (ht : Tidy s) :
    (s.decideOrder o e).orderEntry o ≠ none := by
  have hs : (s.setOrderEntry o (some e)).orderEntry o ≠ none := by
    unfold State.orderEntry State.setOrderEntry
    rw [State.onCqu_cqu, Table.get_set _ _ _ _ _ ht.entries, if_pos rfl]
    simp
  unfold State.decideOrder
  split
  · rename_i h0
    rw [h0]
    simp
  · dsimp only
    split
    · exact hs
    · split
      · exact hs
      · exact hs

theorem State.enqueue_held (s : State) (o : OrderIx) (e : OrderEntry) (ht : Tidy s) :
    ((s.decideOrder o e).enqueue o).orderEntry o ≠ none :=
  (State.enqueue_keeps _ o (Keeps.refl (State.decideOrder_keeps s o e (Keeps.refl ht)).tidy)).held o
    (State.decideOrder_held s o e ht)

/-- An order is HELD once its attach notice is taken. -/
theorem State.notices_attach (s : State) (ns : List Notice) (o : OrderIx) (ht : Tidy s)
    (h : ∃ role at_ start due, Notice.attach o role at_ start due ∈ ns) : (s.notices ns).orderEntry o ≠ none := by
  obtain ⟨role, at_, start, due, hm⟩ := h
  induction ns generalizing s with
  | nil => cases hm
  | cons n ns ih =>
    have ht1 := (State.notice_keeps s n (Keeps.refl ht)).tidy
    have hk : Keeps (s.notice n) ((s.notice n).notices ns) := State.notices_keeps _ _ (Keeps.refl ht1)
    show ((s.notice n).notices ns).orderEntry o ≠ none
    rcases List.mem_cons.1 hm with rfl | hm
    · exact hk.held o (State.enqueue_held s o _ ht)
    · exact ih _ ht1 hm

/-- The cursor of a CLEAN or KEEP pass that has passed a room has left its slots. -/
theorem CursorHasPassed.behind {s : State} {r : SlotRef} (hp : s.bsc.pass = .clean ∨ s.bsc.pass = .keep)
    (h : CursorHasPassed s r.book r.room) : SlotBehind s r := by
  unfold CursorHasPassed at h
  unfold SlotBehind SlotRef.inBook
  have h1 := r.slot.isLt
  rcases hp with hp | hp <;> rw [hp] at h <;> dsimp only at h <;> rcases h with ⟨h2, h3⟩ | h2
  · exact .inl ⟨h2, by have : r.room.val < s.bsc.cursor.room.val := h3; omega⟩
  · exact .inr h2
  · exact .inl ⟨h2, by have : r.room.val < s.bsc.cursor.room.val := h3; omega⟩
  · exact .inr h2

theorem Admission.at?_eq {a : Admission} {r : SlotRef} (h : a.at? = some r) : r.book = a.book ∧ r.room = a.room := by
  unfold Admission.at? at h
  cases hs : a.slot with
  | none => rw [hs] at h; cases h
  | some n => rw [hs] at h; cases h; exact ⟨rfl, rfl⟩

section Commit
variable {s : State} {ex : Bool}

/-- An admission that agrees with the bookings is committed, with its notices (R70 to R73, R76). -/
theorem State.commit_side (a : Admission) (o : Judgement) (h : Side true ex true none s) (ho : OutcomeAgrees s a o)
    (ha : s.bsc.pass = .clean ∨ s.bsc.pass = .keep → CursorHasPassed s a.book a.room) :
    Side true ex false none (s.commit a o) ∧ (s.commit a o).adu.claim = s.adu.claim := by
  have hn : ∀ (t : State) ns pend, Side true ex false pend t →
      Keeps t (t.notices ns) ∧ Side true ex false pend (t.notices ns) := by
    intro t ns pend ht
    have k := State.notices_keeps t ns (Keeps.refl ht.tidy)
    exact ⟨k, k.side ht⟩
  unfold State.commit
  split
  · rename_i e ns at_ hat
    obtain ⟨h1, h2, h3, h4⟩ := ho
    rw [h1] at hat
    cases hat
    obtain ⟨hab, har⟩ := Admission.at?_eq h1
    split
    · rename_i i hi
      have hli := (s.liveIndex_eq _ i).1 hi
      obtain ⟨old, hold, hoa⟩ := (h.booked.slots _ i).1 hli
      have hc := h.changeEntry i old e hold hoa.symm h2
        (fun j d hd hb hr hj => h3 j d hd (hb.trans hab) (hr.trans har) (by rw [hi]; exact fun h0 => hj (Option.some.inj h0).symm))
        (fun o ho => (h4 o ho).imp (fun h0 => h0.1) fun ⟨k, hk, hk'⟩ => by rw [hi] at hk'; rw [hk, hk'])
      have hcl : (s.changeEntry i e).adu.claim = s.adu.claim := by rw [State.changeEntry_eq s i old e hold]; rfl
      obtain ⟨k, hs⟩ := hn _ ns _ hc
      refine ⟨hs.attached fun o ho => ?_, k.claim.trans hcl⟩
      rcases h4 o ho with ⟨_, hns⟩ | ⟨j, hj, _⟩
      · exact State.notices_attach _ ns o hc.tidy hns
      · refine k.held o ?_
        have : (s.changeEntry i e).orderEntry o = s.orderEntry o := by rw [State.changeEntry_eq s i old e hold]; rfl
        rw [this]
        exact (h.held o (by rw [hj]; simp)).elim id fun h0 => by cases h0
    · rename_i hi
      rw [State.liveIndex_none] at hi
      have hc := h.takeEntry (ex' := ex) e hi h2
        (fun j d hd hb hr => h3 j d hd (hb.trans hab) (hr.trans har) (fun h0 => hi j ((s.liveIndex_eq _ j).1 h0)))
        (fun o ho => (h4 o ho).elim (fun h0 => h0.1) fun ⟨k, _, hk'⟩ => absurd ((s.liveIndex_eq _ k).1 hk') (hi k))
        id (fun hps => .inl (CursorHasPassed.behind hps (by rw [hab, har]; exact ha hps)))
      have hcl : (s.takeEntry e).adu.claim = s.adu.claim := by
        cases hf : s.adu.freeList with
        | nil => unfold State.takeEntry; rw [hf]
        | cons i rest => rw [State.takeEntry_eq s e i rest hf]; rfl
      obtain ⟨k, hs⟩ := hn _ ns _ hc
      refine ⟨hs.attached fun o ho => ?_, k.claim.trans hcl⟩
      rcases h4 o ho with ⟨_, hns⟩ | ⟨j, _, hj⟩
      · exact State.notices_attach _ ns o hc.tidy hns
      · exact absurd ((s.liveIndex_eq _ j).1 hj) (hi j)
  · split
    · rename_i i hi
      obtain ⟨k, hs⟩ := hn _ _ _ (h.freeEntry i)
      refine ⟨hs, k.claim.trans ?_⟩
      cases he : s.entry i with
      | none => unfold State.freeEntry; rw [he]
      | some e => rw [State.freeEntry_eq s i e he]; rfl
    · exact ⟨h.mono id (by simp), rfl⟩
  · split
    · exact ⟨h.mono id (by simp), rfl⟩
    · have k := State.commitRefusal_keeps s ‹_› ‹_› (Keeps.refl h.tidy)
      exact ⟨(k.side h).mono id (by simp), k.claim⟩
  · exact ⟨h.mono id (by simp), rfl⟩

/-- A claim ends: nothing of the claim is left. -/
theorem State.endClaim_side {cl : Bool} {pend : Option OrderIx} (h : Side true ex cl pend s) :
    Side true ex true pend s.endClaim ∧ Keeps (s.onAdu fun a => { a with claim := none }) s.endClaim := by
  have hw : Side true ex true pend (s.onAdu fun a => { a with claim := none }) :=
    h.withClaim none (fun _ => trivial) (fun _ _ _ h0 => by cases h0)
  have k := State.endClaim_keeps s (hw.out rfl) (Keeps.refl hw.tidy)
  exact ⟨k.side hw, k⟩

/-- An admission ends (R87). -/
theorem State.endAdmission_side {cl : Bool} (a : Admission) (withheld confirmed : Bool) (h : Side true ex cl none s) :
    Side true ex true none (s.endAdmission a withheld confirmed) := by
  unfold State.endAdmission
  split
  · refine (State.endClaim_side (cl := cl) ?_).1
    split
    · exact (State.drop_keeps s (Keeps.refl h.tidy)).side h
    · exact (State.release_keeps s (Keeps.refl h.tidy)).side h
  · exact (State.endClaim_side ((State.answerPanel_keeps s _ _ (Keeps.refl h.tidy)).side h)).1

/-- A completed admission is committed, reported and ended (R63). -/
theorem State.finishAdmission_side (a : Admission) (j : Judged) (wrote : Bool) (back : List Word) (h :
    Side true ex true none s)
    (ho : OutcomeAgrees s a j.outcome) (ha : s.bsc.pass = .clean ∨ s.bsc.pass = .keep → CursorHasPassed s a.book a.room) :
    Side true ex true none (s.finishAdmission a j wrote back) := by
  unfold State.finishAdmission
  have hc := (State.commit_side a j.outcome h ho ha).1
  dsimp only
  generalize s.commit a j.outcome = t at hc ⊢
  refine State.endAdmission_side (cl := false) _ _ _ (Keeps.side (base := t) ?_ hc)
  have k := Keeps.refl hc.tidy
  refine State.recomposeToday_keeps _ _ _ ?_
  split
  · exact State.markChanged_keeps _ _ (State.reportTraps_keeps _ _ _ _ k)
  · exact State.reportTraps_keeps _ _ _ _ k

/-- An admission goes on to a stage that agrees. -/
theorem Side.admission {cl : Bool} (a : Admission) (stage : AdmissionStage) (h : Side true ex cl none s)
    (ha : s.bsc.pass = .clean ∨ s.bsc.pass = .keep → CursorHasPassed s a.book a.room)
    (hc : match stage with
      | .proposal _ => a.kind = .new ∨ a.kind = .amend
      | .writing j _ _ _ | .readBack j _ => OutcomeAgrees s a j.outcome) :
    Side true ex true none (s.onAdu fun u => { u with claim := some (.admission a stage) }) := by
  refine h.withClaim _ (fun _ => ?_) (fun hp b st h0 => ?_)
  · cases stage <;> exact hc
  · cases h0
    exact ha hp

theorem State.beginWriting_side (a : Admission) (j : Judged) (back : List Word) (second : Bool) (h : Side true ex true none s)
    (ho : OutcomeAgrees s a j.outcome) (ha : s.bsc.pass = .clean ∨ s.bsc.pass = .keep → CursorHasPassed s a.book a.room) :
    Side true ex true none (s.beginWriting a j back second) := by
  unfold State.beginWriting
  split
  · exact h.admission a _ ha ho
  · exact State.finishAdmission_side a j false back h ho ha
  · exact h.admission a _ ha ho

theorem State.decideAdmission_side (a : Admission) (p : Proposal) (h : Side true ex true none s) (hw : WalkUp s a)
    (ha : s.bsc.pass = .clean ∨ s.bsc.pass = .keep → CursorHasPassed s a.book a.room) :
    Side true ex true none (s.decideAdmission a p) := by
  have ho := h.booked.judge a p hw
  unfold State.decideAdmission
  generalize s.judge a p = ko at ho ⊢
  obtain ⟨k, o⟩ := ko
  dsimp only
  split
  · unfold State.withhold
    exact State.endAdmission_side _ _ _ ((State.presentTrap_keeps s _ (Keeps.refl h.tidy)).side h)
  · exact State.beginWriting_side a _ _ _ h ho ha

theorem State.advanceAdmission_side (a : Admission) (got : List (Option Word)) (h :
    Side true ex true none s) (hw : WalkUp s a)
    (ha : s.bsc.pass = .clean ∨ s.bsc.pass = .keep → CursorHasPassed s a.book a.room) :
    Side true ex true none (s.advanceAdmission a got) := by
  unfold State.advanceAdmission
  split
  · rename_i x hx
    refine h.admission a _ ha ?_
    unfold State.proposalRead at hx
    split at hx
    · rename_i hk _
      exact .inl hk
    · rename_i hk _
      exact .inr hk
    · cases hx
  · exact State.decideAdmission_side a _ h hw ha

theorem State.admissionWritten_side (a : Admission) (j : Judged) (back : List Word) (todo : List WordWrite)
    (second error : Bool) (h : Side true ex true none s) (ho : OutcomeAgrees s a j.outcome)
    (ha : s.bsc.pass = .clean ∨ s.bsc.pass = .keep → CursorHasPassed s a.book a.room) :
    Side true ex true none (s.admissionWritten a j back todo second error) := by
  unfold State.admissionWritten
  dsimp only
  split
  · unfold State.voidMemory
    dsimp only
    split
    · exact State.finishAdmission_side a _ false back h trivial ha
    · exact State.beginWriting_side a _ back true h trivial ha
  · rcases todo.drop 1 with _ | ⟨w, _ | ⟨b, l⟩⟩
    · exact h.admission a _ ha ho
    · have k := State.presentLast_keeps s [w] (Keeps.refl h.tidy)
      refine State.finishAdmission_side a j true back (k.side h) (k.outcome a _ ho) (fun hp => ?_)
      rw [k.pass] at hp
      unfold CursorHasPassed
      rw [k.pass, k.cursor]
      exact ha hp
    · exact h.admission a _ ha ho

theorem State.backReadDone_side (a : Admission) (j : Judged) (got : List (Option Word)) (h : Side true ex true none s)
    (ho : OutcomeAgrees s a j.outcome) (ha : s.bsc.pass = .clean ∨ s.bsc.pass = .keep → CursorHasPassed s a.book a.room) :
    Side true ex true none (s.backReadDone a j got) := by
  unfold State.backReadDone
  split
  · exact State.beginWriting_side a j _ false h ho ha
  · exact State.finishAdmission_side a j false [] h ho ha
  · exact h.admission a _ ha ho

/-! ### Lifecycle claims (R75) -/

/-- A claim that no rule of the bookings reads. -/
theorem Side.plainClaim {cl : Bool} {pend : Option OrderIx} (c : Claim) (h : Side true ex cl pend s)
    (hc : ∀ a stage, c ≠ .admission a stage) (hk : ∀ r t got, c ≠ .keepReading r t got) :
    Side true ex true pend (s.onAdu fun a => { a with claim := some c }) := by
  refine h.withClaim _ (fun _ => ?_) (fun _ a st h0 => absurd (Option.some.inj h0) (hc a st))
  unfold ClaimAgrees
  cases c with
  | admission a stage => exact absurd rfl (hc a stage)
  | keepReading r t got => exact absurd rfl (hk r t got)
  | _ => trivial

theorem State.commitLife_side {cl : Bool} (w : LifeWork) (h : Side true ex cl none s) :
    Side true ex false none (s.commitLife w) ∧ (s.commitLife w).adu.claim = s.adu.claim := by
  unfold State.commitLife
  split
  · exact ⟨{ h with claim := fun h0 => by cases h0 }, rfl⟩
  · rename_i e he
    have hfree : ∀ ns, Side true ex false none ((s.freeEntry w.entry).notices ns)
        ∧ ((s.freeEntry w.entry).notices ns).adu.claim = s.adu.claim := by
      intro ns
      have hf := h.freeEntry w.entry
      have k := State.notices_keeps _ ns (Keeps.refl hf.tidy)
      refine ⟨k.side hf, k.claim.trans ?_⟩
      rw [State.freeEntry_eq s _ e he]
      rfl
    split
    · rename_i src hch
      have k : Keeps s (s.setEntry w.entry (some (w.changed e))) := by
        refine State.setEntry_keeps s _ _ ?_ (Keeps.refl h.tidy)
        unfold LifeWork.changed
        rw [he, hch]
        rfl
      exact ⟨{ k.side h with claim := fun h0 => by cases h0 }, k.claim⟩
    · exact hfree _
    · exact hfree _

theorem State.endLife_side {cl : Bool} (w : LifeWork) (h : Side true ex cl none s) :
    Side true ex true none (s.endLife w) := by
  unfold State.endLife
  have k := State.recomposeToday_keeps _ w.at_.book w.at_.room (State.markChanged_keeps s w.at_.room (Keeps.refl h.tidy))
  dsimp only
  split
  · exact (State.endClaim_side ((State.answerPanel_keeps _ _ _ k).side h)).1
  · exact (State.endClaim_side (k.side h)).1

theorem State.lifeWritten_side (w : LifeWork) (words todo : List WordWrite) (failed second error : Bool)
    (h : Side true ex true none s) : Side true ex true none (s.lifeWritten w words todo failed second error) := by
  unfold State.lifeWritten
  dsimp only
  generalize (failed || error) = f
  generalize todo.drop 1 = rest
  have h1 : ∀ l x y, Side true ex true none (s.onAdu fun a => { a with claim := some (.lifecycle w words l x y) }) :=
    fun l x y => h.plainClaim _ (fun _ _ h0 => by cases h0) (fun _ _ _ h0 => by cases h0)
  have h2 := h1 rest f second
  generalize ht : (s.onAdu fun a => { a with claim := some (.lifecycle w words rest f second) }) = t at h2
  have hcl : t.adu.claim = some (.lifecycle w words rest f second) := by rw [← ht]; rfl
  clear ht h1 h
  have hcommit := State.commitLife_side w h2
  have hend := State.endLife_side w ((State.leaveTail_keeps _ rest .ignored (Keeps.refl h2.tidy)).side h2)
  cases second with
  | true =>
    cases rest with
    | nil => cases f <;> exact h2
    | cons x l =>
      cases l with
      | nil => cases f <;> exact hend
      | cons y m => cases f <;> exact h2
  | false =>
    cases rest with
    | nil =>
      cases f with
      | true => exact h2.plainClaim _ (fun _ _ h0 => by cases h0) (fun _ _ _ h0 => by cases h0)
      | false => exact h2
    | cons x l =>
      cases l with
      | nil =>
        cases f with
        | true =>
          refine hcommit.1.reclaim ?_
          unfold ClaimAgrees
          rw [hcommit.2, hcl]
          trivial
        | false => exact State.endLife_side w ((State.leaveTail_keeps _ _ _ (Keeps.refl hcommit.1.tidy)).side hcommit.1)
      | cons y m => cases f <;> exact h2

theorem State.beginLife_side (w : LifeWork) (h : Side true ex true none s) : Side true ex true none (s.beginLife w) := by
  unfold State.beginLife
  split
  · exact h
  · exact h.plainClaim _ (fun _ _ h0 => by cases h0) (fun _ _ _ h0 => by cases h0)

end Commit

/-! ### The day end and the end of a pass (R97, R106) -/

section Pass
variable {s : State}

/-- A change of pass, cursor and bank selector to no CLEAN or KEEP pass, with no KEEP visit in progress. -/
theorem Side.withPass {ex ex' cl : Bool} {pend : Option OrderIx} (b : Bsc) (t : Book) (h : Side true ex cl pend s)
    (hb : b.pass ≠ .clean ∧ b.pass ≠ .keep) (hk : ∀ r x got, s.adu.claim ≠ some (.keepReading r x got)) :
    Side true ex' cl pend ((s.onClock fun c => { c with today := t }).onBsc fun _ => b) where
  tidy := ⟨h.tidy.pool, h.tidy.schedules, h.tidy.slotMap, h.tidy.bindings, h.tidy.entries, h.tidy.loops⟩
  booked := h.booked
  held := h.held
  claim hc := by
    have h1 := h.claim hc
    unfold ClaimAgrees at h1 ⊢
    rw [State.onBsc_adu, State.onClock_adu]
    cases hcl : s.adu.claim with
    | none => trivial
    | some c =>
      rw [hcl] at h1
      cases c with
      | admission a stage => cases stage <;> exact h1
      | keepReading r x got => exact absurd hcl (hk r x got)
      | _ => trivial
  pass hp := hp.elim (fun h0 => absurd h0 hb.1) (fun h0 => absurd h0 hb.2)
  setup h0 := absurd h0 (h.out rfl)
  events := h.events
  out := h.out

theorem State.dayEndActs_side {ex ex' cl : Bool} {pend : Option OrderIx} (h : Side true ex cl pend s)
    (hk : ∀ r x got, s.adu.claim ≠ some (.keepReading r x got)) : Side true ex' cl pend s.dayEndActs := by
  unfold State.dayEndActs
  have k := State.noticesBetweenClaims_keeps s (Keeps.refl h.tidy)
  have h1 := k.side h
  have hk1 : ∀ r x got, s.noticesBetweenClaims.adu.claim ≠ some (.keepReading r x got) := by rw [k.claim]; exact hk
  generalize s.noticesBetweenClaims = t at h1 hk1 ⊢
  have h2 := h1.withPass (ex' := ex') { pass := .turnover, cursor := ⟨t.clock.today, 0, 0⟩, opening := true, presented := true }
    t.clock.today.other (by simp) hk1
  exact (State.dayClose_keeps _ _ (Keeps.refl h2.tidy)).side h2

/-- A clock mark changes. -/
theorem Side.withMarks {out ex cl : Bool} {pend : Option OrderIx} (f : Clock → Clock) (hf : (f s.clock).today = s.clock.today)
    (h : Side out ex cl pend s) : Side out ex cl pend (s.onClock f) := (State.onClock_keeps s f hf (Keeps.refl h.tidy)).side h

theorem State.minuteReaches_side {ex cl : Bool} {pend : Option OrderIx} (h : Side true ex cl pend s) :
    Side true ex cl pend s.minuteReaches := (State.minuteReaches_keeps s (h.out rfl) (Keeps.refl h.tidy)).side h

theorem State.takeDeferred_side {ex : Bool} (h : Side true ex true none s)
    (hn : s.adu.claim = none) (hx : ex = false) : Side true false true none s.takeDeferred := by
  subst hx
  unfold State.takeDeferred
  dsimp only
  have h1 : Side true false true none
      (if s.clock.deferredDayEnd = true then (s.onClock fun c => { c with deferredDayEnd := false }).dayEndActs else s) := by
    split
    · exact State.dayEndActs_side (ex := false) (h.withMarks _ rfl) (fun r x got h0 => by
        have h1 : s.adu.claim = some (.keepReading r x got) := h0
        rw [hn] at h1
        cases h1)
    · exact h
  revert h1
  generalize (if s.clock.deferredDayEnd = true then (s.onClock fun c => { c with deferredDayEnd := false }).dayEndActs else s) = u
  intro h1
  split
  · exact State.minuteReaches_side (h1.withMarks _ rfl)
  · exact h1

/-- The phase becomes RUNNING. -/
theorem Side.withRunning {ex cl : Bool} {pend : Option OrderIx} (f : Ctu → Ctu) (hf : (f s.ctu).phase = .running)
    (h : Side true ex cl pend s) : Side true ex cl pend (s.onCtu f) where
  tidy := ⟨h.tidy.pool, h.tidy.schedules, h.tidy.slotMap, h.tidy.bindings, h.tidy.entries, h.tidy.loops⟩
  booked := h.booked
  held := h.held
  claim := h.claim
  pass := h.pass
  setup h0 := by
    have h1 : (f s.ctu).phase = .setup := h0
    rw [hf] at h1
    cases h1
  events := h.events
  out _ h0 := by
    have h1 : (f s.ctu).phase = .setup := h0
    rw [hf] at h1
    cases h1

theorem State.passEnd_side {ex : Bool} (h : Side true ex true none s) (hn : s.adu.claim = none) :
    Side true false true none s.passEnd := by
  unfold State.passEnd
  dsimp only
  have h1 : Side true false true none (s.onBsc fun _ => {}) :=
    h.withPass (ex' := false) {} s.clock.today (by simp) (fun r x got h0 => by rw [hn] at h0; cases h0)
  have h2 := (State.raiseScan_keeps _ (Keeps.refl h1.tidy)).side h1
  have hn2 : ((s.onBsc fun _ => {}).raiseScan).adu.claim = none := hn
  generalize (s.onBsc fun _ => {}).raiseScan = t at h2 hn2 ⊢
  split
  · exact State.takeDeferred_side (h2.withRunning _ rfl) hn2 rfl
  · exact State.takeDeferred_side (h2.withRunning _ rfl) hn2 rfl
  · split
    · exact State.dayEndActs_side (ex := false) (h2.withMarks _ rfl) (fun r x got h0 => by
        have h1 : t.adu.claim = some (.keepReading r x got) := h0
        rw [hn2] at h1
        cases h1)
    · exact h2
  · exact h2

/-- The cursor goes on over what a visit left. -/
theorem Side.advance (c : SlotRef) (h : Side true true true none s) (hn : s.adu.claim = none)
    (hc : nextCursor s.bsc.pass s.bsc.cursor = some c) :
    Side true false true none (s.onBsc fun b => { b with cursor := c }) where
  tidy := ⟨h.tidy.pool, h.tidy.schedules, h.tidy.slotMap, h.tidy.bindings, h.tidy.entries, h.tidy.loops⟩
  booked := h.booked
  held := h.held
  claim _ := by
    unfold ClaimAgrees
    rw [State.onBsc_adu, hn]
    trivial
  pass hp := by
    have hp' : s.bsc.pass = .clean ∨ s.bsc.pass = .keep := hp
    obtain ⟨h1, _, h3⟩ := h.pass hp'
    have hnext : (c.book = s.bsc.cursor.book ∧ s.bsc.cursor.inBook < c.inBook ∧ s.bsc.cursor.room ≤ c.room)
        ∨ (s.bsc.cursor.book = .bookA ∧ c.book = .bookB) := by
      unfold nextCursor at hc
      have hs := s.bsc.cursor.slot.isLt
      have hr := s.bsc.cursor.room.isLt
      split at hc
      · cases hc
        left
        refine ⟨rfl, ?_, Nat.le_refl _⟩
        simp only [SlotRef.inBook, Fin.ofNat]
        omega
      · split at hc
        · cases hc
          left
          refine ⟨rfl, ?_, ?_⟩
          · simp only [SlotRef.inBook, Fin.ofNat]
            omega
          · show s.bsc.cursor.room.val ≤ _
            simp only [Fin.ofNat]
            omega
        · split at hc
          · rename_i hb
            cases hc
            exact .inr ⟨hb, rfl⟩
          · rename_i hb
            cases hc
            exact .inr ⟨hb, rfl⟩
          · cases hc
    have hbehind : ∀ r, SlotBehind s r ∨ r = s.bsc.cursor →
        SlotBehind (s.onBsc fun b => { b with cursor := c }) r := by
      intro r hr
      unfold SlotBehind at hr ⊢
      show (r.book = c.book ∧ r.inBook < c.inBook) ∨ (r.book = .bookA ∧ c.book = .bookB)
      rcases hnext with ⟨h4, h5, _⟩ | ⟨h4, h5⟩
      · rcases hr with (⟨h6, h7⟩ | ⟨h6, h7⟩) | h6
        · exact .inl ⟨by rw [h4]; exact h6, by omega⟩
        · exact .inr ⟨h6, by rw [h4]; exact h7⟩
        · exact .inl ⟨by rw [h4, h6], by rw [h6]; exact h5⟩
      · rcases hr with (⟨h6, _⟩ | ⟨_, h7⟩) | h6
        · exact .inr ⟨by rw [h6]; exact h4, h5⟩
        · rw [h4] at h7
          cases h7
        · exact .inr ⟨by rw [h6]; exact h4, h5⟩
    refine ⟨fun r i hr => .inl (hbehind r ((h1 r i hr).imp id fun h0 => h0.1)), fun a stage h0 => ?_, fun ev hev => ?_⟩
    · have h0' : s.adu.claim = some (.admission a stage) := h0
      rw [hn] at h0'
      cases h0'
    · have h4 := h3 ev hev
      unfold CursorHasPassed at h4 ⊢
      rw [State.onBsc_bsc, State.onBsc_clock]
      have key : (s.clock.today = s.bsc.cursor.book ∧ ev.room < s.bsc.cursor.room)
          ∨ (s.clock.today = .bookA ∧ s.bsc.cursor.book = .bookB) →
          (s.clock.today = c.book ∧ ev.room < c.room) ∨ (s.clock.today = .bookA ∧ c.book = .bookB) := by
        rintro (⟨h5, h6⟩ | ⟨h5, h6⟩) <;> rcases hnext with ⟨h7, _, h8⟩ | ⟨h7, h8⟩
        · exact .inl ⟨by rw [h7]; exact h5, Nat.lt_of_lt_of_le h6 h8⟩
        · exact .inr ⟨by rw [h5]; exact h7, h8⟩
        · exact .inr ⟨h5, by rw [h7]; exact h6⟩
        · rw [h7] at h6
          cases h6
      rcases hp' with hp' | hp' <;> rw [hp'] at h4 ⊢ <;> exact key h4
  setup h0 := absurd h0 (h.out rfl)
  events := h.events
  out := h.out

/-- A visit ends: the cursor goes on, or the pass ends (R98, R106). -/
theorem State.visitEnded_side {ex cl : Bool} (h : Side true ex cl none s) : Side true false true none s.visitEnded := by
  unfold State.visitEnded
  obtain ⟨h1, k⟩ := State.endClaim_side h
  have hn : s.endClaim.adu.claim = none := k.claim
  generalize s.endClaim = t at h1 hn ⊢
  dsimp only
  split
  · rename_i c hc
    exact (h1.mono (by simp) id).advance c hn hc
  · exact State.passEnd_side h1 hn

theorem State.visitWritten_side {ex : Bool} (todo : List WordWrite) (again : List WordWrite → Claim) (h :
    Side true ex true none s)
    (hx : ex = false) (hc : ∀ l a stage, again l ≠ .admission a stage) (hk : ∀ l r t got, again l ≠ .keepReading r t got) :
    Side true false true none (s.visitWritten todo again) := by
  subst hx
  unfold State.visitWritten
  rcases todo.drop 1 with _ | ⟨w, _ | ⟨b, l⟩⟩
  · exact h.plainClaim _ (hc _) (hk _)
  · exact State.visitEnded_side ((State.leaveTail_keeps _ _ _ (Keeps.refl h.tidy)).side h)
  · exact h.plainClaim _ (hc _) (hk _)

/-- A pass has not passed the slot of its cursor. -/
theorem not_behind_cursor : ¬ SlotBehind s s.bsc.cursor := by
  unfold SlotBehind
  rintro (⟨_, h⟩ | ⟨h1, h2⟩)
  · omega
  · rw [h1] at h2
    cases h2

/-! ### Visits (R100 to R105) -/

theorem State.beginClean_side (h : Side true false true none s) (hp : s.bsc.pass = .clean) :
    Side true false true none s.beginClean := by
  unfold State.beginClean
  have hl : ∀ i, s.slotState s.bsc.cursor ≠ .live i := fun i hi =>
    ((h.pass (.inl hp)).1 _ i hi).elim not_behind_cursor fun h0 => by cases h0.2
  have k : Keeps s (s.clearSlot s.bsc.cursor) := by
    unfold State.clearSlot
    split
    · exact Keeps.refl h.tidy
    · exact State.setSlot_keeps s _ _ hl (fun i h0 => by cases h0) (fun q => SlotRef.key_inj q _) (Keeps.refl h.tidy)
  exact (k.side h).plainClaim _ (fun _ _ h0 => by cases h0) (fun _ _ _ h0 => by cases h0)

theorem State.beginTurnover_side (h : Side true false true none s) : Side true false true none s.beginTurnover := by
  unfold State.beginTurnover
  have h1 : Side true false false none (s.turnoverFree s.bsc.cursor) := by
    unfold State.turnoverFree
    split
    · have hf := h.freeEntry ‹Nat›
      exact (State.markChanged_keeps _ _ (State.notices_keeps _ _ (Keeps.refl hf.tidy))).side hf
    · exact h.mono id (by simp)
  exact h1.plainClaim _ (fun _ _ h0 => by cases h0) (fun _ _ _ h0 => by cases h0)

theorem Table.get_filter {α : Type} [DecidableEq α] (d : α) (p : Nat × α → Bool) (t : Table α) (lo : Option Nat)
    (h : Table.wfFrom d lo t = true) (i : Nat) :
    Table.wfFrom d lo (t.filter p) = true
      ∧ Table.get d (t.filter p) i = if p (i, Table.get d t i) then Table.get d t i else d := by
  induction t generalizing lo with
  | nil => exact ⟨rfl, by rw [List.filter_nil, Table.get_nil]; split <;> rfl⟩
  | cons q t ih =>
    obtain ⟨k, v⟩ := q
    have h' := (Table.wfFrom_cons d lo k v t).1 h
    obtain ⟨h1, h2⟩ := ih (some k) h'.2.2
    rw [List.filter_cons]
    split
    · rename_i hp
      refine ⟨(Table.wfFrom_cons d lo k v _).2 ⟨h'.1, h'.2.1, h1⟩, ?_⟩
      simp only [Table.get]
      split
      · rename_i hi
        rw [hi, if_pos hp]
      · exact h2
    · rename_i hp
      refine ⟨Table.wfFrom_weaken d (some k) lo _ h1 (fun l hl => ⟨k, rfl, Nat.le_of_lt (h'.1 l hl)⟩), ?_⟩
      simp only [Table.get]
      split
      · rename_i hi
        rw [hi, if_neg hp]
        exact Table.get_below d _ k k h1 (Nat.le_refl _)
      · exact h2

theorem State.openTurnover_side (h : Side true false true none s) : Side true false true none s.openTurnover := by
  unfold State.openTurnover
  dsimp only
  have k : Keeps s (s.onAdu fun a =>
      { a with slotMap := a.slotMap.filter fun x => !(keyInBook s.bsc.cursor.book x.1 && decide (x.2 = .draft)) }) := by
    have hw := h.tidy.slotMap
    exact
      { Keeps.refl h.tidy with
        tidy := ⟨h.tidy.pool, h.tidy.schedules, (Table.get_filter _ _ _ none hw 0).1, h.tidy.bindings, h.tidy.entries, h.tidy.loops⟩
        live := fun r i => by
          show Table.get .free (s.adu.slotMap.filter _) r.key = _ ↔ Table.get .free s.adu.slotMap r.key = _
          rw [(Table.get_filter _ _ _ none hw r.key).2]
          split
          · exact Iff.rfl
          · rename_i hf
            simp only [Bool.not_and, Bool.or_eq_true, Bool.not_eq_true', decide_eq_false_iff_not, not_or,
              Decidable.not_not, Bool.not_eq_false] at hf
            rw [hf.2]
            simp }
  exact (State.endClaim_side ((State.onBsc_keeps _ _ rfl rfl k).side h)).1

theorem State.handOver_held (o : OrderIx) (fate : Fate) (st : Option OrderState) (resend : Bool) (e : OrderEntry) (ht : Tidy s)
    (h : (s.handOver o fate st resend e).2 = true) :
    s.orderEntry o = none ∧ (s.handOver o fate st resend e).1.orderEntry o ≠ none := by
  unfold State.handOver at h ⊢
  split at h
  · cases h
  · rename_i hn
    refine ⟨by simpa using hn, ?_⟩
    rw [if_neg hn]
    dsimp only at h ⊢
    rcases fate with _ | _ | _ <;> rcases st with _ | (_ | _ | _ | _ | _ | _ | _ | _ | _ | _) <;>
      (try dsimp only at h ⊢) <;> (try split) <;>
      first
        | contradiction
        | exact State.decideOrder_held s o _ ht
        | exact State.enqueue_held s o _ ht

theorem State.judgeKeep_side (r : SlotRef) (t : Taken) (k : KeepReads) (h : Side true false true none s)
    (hc : s.bsc.pass = .keep ∧ r = s.bsc.cursor) :
    Side true false true none (s.judgeKeep r t k)
      ∨ (Side true true true none (s.judgeKeep r t k) ∧ KeepWriting (s.judgeKeep r t k)) := by
  have hl : ∀ i, s.slotState r ≠ .live i := fun i hi =>
    ((h.pass (.inr hc.1)).1 _ i hi).elim (by rw [hc.2]; exact not_behind_cursor) fun h0 => by cases h0.2
  have hend : ∀ {u : State} (b : Bool) (ex : Bool), Side true ex false none u → Side true false true none (u.endKeep r b) := by
    intro u b ex hu
    unfold State.endKeep
    split
    · exact State.visitEnded_side ((State.recomposeToday_keeps _ _ _ (Keeps.refl hu.tidy)).side hu)
    · exact State.visitEnded_side hu
  have hwrite : ∀ {u : State} (b : Bool) (l : List WordWrite) (ex : Bool), Side true ex false none u →
      Side true ex true none (u.keepWrite r b l) ∧ KeepWriting (u.keepWrite r b l) := by
    intro u b l ex hu
    unfold State.keepWrite
    exact ⟨((State.markChanged_keeps _ _ (Keeps.refl hu.tidy)).side hu).plainClaim _ (fun _ _ h0 => by cases h0)
      (fun _ _ _ h0 => by cases h0), ⟨_, _, _, rfl⟩⟩
  unfold State.judgeKeep
  dsimp only
  split
  · exact .inl (hend _ _ (h.mono id (by simp)))
  · have hk := State.keepHandOver_keeps s r t k (s.keepCheck r t k) (Keeps.refl h.tidy)
    have hkept : ∀ o, (s.keepHandOver r t k (s.keepCheck r t k)).2 = some o →
        s.orderEntry o = none ∧ (s.keepHandOver r t k (s.keepCheck r t k)).1.orderEntry o ≠ none := by
      intro o ho
      unfold State.keepHandOver at ho ⊢
      split at ho
      · cases ho
      · dsimp only at ho ⊢
        split at ho
        · cases ho
        · rename_i hif
          rw [if_neg hif]
          dsimp only
          obtain ⟨hb, hoo⟩ := Option.ite_none_right_eq_some.1 ho
          cases hoo
          exact State.handOver_held _ _ _ _ _ h.tidy hb
    have hcheck : s.keepCheck r t k = .rebuilt →
        admittedStart k.w4 < admittedStop k.w4 ∧ Clear (admittedStart k.w4) (admittedStop k.w4) (s.others r.book r.room none) := by
      intro h0
      unfold State.keepCheck at h0
      dsimp only at h0
      split at h0
      · cases h0
      · split at h0
        · cases h0
        · rename_i ht
          split at h0
          · cases h0
          · split at h0
            · cases h0
            · split at h0
              · cases h0
              · rename_i hov
                refine ⟨by omega, fun e he ho => ?_⟩
                rw [Option.isSome_iff_ne_none, ne_eq, Decidable.not_not] at hov
                unfold firstOverlap at hov
                rw [List.min?_eq_none_iff, List.map_eq_nil_iff, List.filter_eq_nil_iff] at hov
                have := hov e he
                simp only [Bool.and_eq_true, decide_eq_true_eq] at this
                exact this ⟨ho.2, ho.1⟩
    generalize s.keepCheck r t k = j at hk hkept hcheck ⊢
    generalize s.keepHandOver r t k j = p at hk hkept ⊢
    obtain ⟨u, kept⟩ := p
    dsimp only at hk hkept ⊢
    have hu := hk.side h
    split
    · refine .inl (hwrite _ _ false ?_).1
      exact ((State.setFlags_keeps _ _ (Keeps.refl hu.tidy)).side hu).mono id (by simp)
    · exact .inl (hwrite _ _ false (hu.mono id (by simp))).1
    · obtain ⟨h1, h2⟩ := hcheck rfl
      have hlu : ∀ i, u.slotState r ≠ .live i := fun i hi => hl i ((hk.live r i).1 hi)
      have htake : Side true true false none
          (u.takeEntry (u.keepEntry r t k kept (decide (admittedOrder k.w6 ≠ 255) && kept.isNone))) := by
        have h3 := hu.takeEntry (ex' := true) (u.keepEntry r t k kept (decide (admittedOrder k.w6 ≠ 255) && kept.isNone)) hlu h1
          (fun j d hd hb hr => ?_) (fun o ho => ?_) (by simp) (fun _ => .inr ⟨by rw [hk.cursor]; exact hc.2, rfl⟩)
        · refine h3.attached fun o ho => ?_
          have h4 := (hkept o ho).2
          cases hf : u.adu.freeList with
          | nil =>
            have : u.takeEntry (u.keepEntry r t k kept (decide (admittedOrder k.w6 ≠ 255) && kept.isNone)) = u := by
              unfold State.takeEntry; rw [hf]
            rw [this]
            exact h4
          | cons i rest => rw [State.takeEntry_eq _ _ i rest hf]; exact h4
        · obtain ⟨d', hd', h4, h5, h6, _⟩ := hk.entry j d hd
          have := h2 d' (h.booked.mem_others r.book r.room none j d' hd' (by rw [h4]; exact hb) (by rw [h4]; exact hr) (by simp))
          rw [h5, h6] at this
          exact this
        · have h4 := (hkept o ho).1
          rw [hk.binding]
          cases hb : s.binding o with
          | none => rfl
          | some i =>
            rcases h.held o (by rw [hb]; simp) with h5 | h5
            · exact absurd h4 h5
            · cases h5
      split
      · exact .inr (hwrite _ _ true htake)
      · exact .inl (hend _ _ htake)

/-- The booking side agrees, outside SETUP; while a KEEP visit writes its slot may be LIVE already. -/
def KeepSide (s : State) : Prop := Side true false true none s ∨ (Side true true true none s ∧ KeepWriting s)

theorem State.advanceKeep_side (r : SlotRef) (t : Taken) (got : List (Option Word)) (h : Side true false true none s)
    (hc : s.bsc.pass = .keep ∧ r = s.bsc.cursor) : KeepSide (s.advanceKeep r t got) := by
  unfold State.advanceKeep
  split
  · refine .inl (h.withClaim _ (fun _ => ?_) (fun _ a st h0 => by cases h0))
    exact hc
  · exact State.judgeKeep_side r t _ h hc

theorem State.keepReadDone_side (r : SlotRef) (t : Taken) (got : List (Option Word)) (data : Word) (error : Bool)
    (h : Side true false true none s) (hc : s.bsc.pass = .keep ∧ r = s.bsc.cursor) :
    KeepSide (s.keepReadDone r t got data error) := by
  unfold State.keepReadDone
  split
  · have k := State.setFlags_keeps s flagMemerr (Keeps.refl h.tidy)
    have h1 := k.side h
    dsimp only
    split
    · refine .inl ?_
      unfold State.keepWrite
      exact ((State.markChanged_keeps _ _ (Keeps.refl h1.tidy)).side h1).plainClaim _ (fun _ _ h0 => by cases h0)
        (fun _ _ _ h0 => by cases h0)
    · exact State.advanceKeep_side r t _ h1 (by rw [k.pass, k.cursor]; exact hc)
  · exact State.advanceKeep_side r t _ h hc

theorem State.beginKeep_side (h : Side true false true none s) (hp : s.bsc.pass = .keep) :
    Side true false true none s.beginKeep := by
  unfold State.beginKeep
  exact h.withClaim _ (fun _ => ⟨hp, rfl⟩) (fun _ a st h0 => by cases h0)

end Pass

/-! ### Claims at their taking (R59) -/

/-- The tables are canonical and the booking side agrees. -/
def Agreed (s : State) : Prop := Tidy s ∧ BookingSideAgrees s

theorem Side.agreed {out ex : Bool} {s : State} (h : Side out ex true none s) (hx : ex = true → KeepWriting s) : Agreed s :=
  ⟨h.tidy, h.agrees hx⟩

theorem KeepSide.agreed {s : State} (h : KeepSide s) : Agreed s :=
  h.elim (fun h => h.agreed (by simp)) fun h => h.1.agreed fun _ => h.2

theorem hasLeft_passed {s : State} {b : Book} {r : Room} (h : s.bsc.hasLeft b r = true) : CursorHasPassed s b r := by
  unfold Bsc.hasLeft at h
  unfold CursorHasPassed
  cases hp : s.bsc.pass <;> rw [hp] at h <;> dsimp only at h ⊢
  · split at h
    · rename_i hb
      exact .inl ⟨hb, by simpa using h⟩
    · rename_i hb
      have hA : b = .bookA := by simpa using h
      refine .inr ⟨hA, ?_⟩
      rw [hA] at hb
      cases hc : s.bsc.cursor.book
      · exact absurd hc.symm hb
      · rfl
  · split at h
    · rename_i hb
      exact .inl ⟨hb, by simpa using h⟩
    · rename_i hb
      have hA : b = .bookA := by simpa using h
      refine .inr ⟨hA, ?_⟩
      rw [hA] at hb
      cases hc : s.bsc.cursor.book
      · exact absurd hc.symm hb
      · rfl
  · simpa using h

section Taking
variable {s : State}

/-- Outside SETUP a state with no claim of a KEEP visit that writes agrees without exception. -/
theorem Side.of_free (h : Agreed s) (hp : s.ctu.phase ≠ .setup) (hc : ¬ KeepWriting s) :
    Side true false true none s :=
  { Side.of_agrees (ex := false) h.1 h.2 (fun h0 => absurd h0 hc) with out := fun _ => hp }

theorem mayTake_none {c : ClaimSource} (h : s.mayTake c = true) : s.adu.claim = none := by
  unfold State.mayTake at h
  simp only [Bool.and_eq_true, Option.isNone_iff_eq_none] at h
  exact h.1

theorem not_writing (h : s.adu.claim = none) : ¬ KeepWriting s := by
  rintro ⟨q, b, l, h0⟩
  rw [h] at h0
  cases h0

/-- A claim may be taken: what stands at the arbiter agrees, and so does what the taking leaves. -/
theorem State.take_side (c : ClaimSource) (h : Agreed s) (hp : s.ctu.phase ≠ .setup)
    (hm : s.mayTake c = true) : Side true false true none (s.take c) ∧ Keeps s (s.take c) := by
  have k := State.take_keeps s c (Keeps.refl h.1)
  exact ⟨k.side (Side.of_free h hp (not_writing (mayTake_none hm))), k⟩

theorem Keeps.passed {base t : State} (k : Keeps base t) {b : Book} {r : Room} (h : CursorHasPassed base b r) :
    CursorHasPassed t b r := by
  unfold CursorHasPassed at h ⊢
  rw [k.pass, k.cursor]
  exact h

theorem State.takeRequest_agreed (rk : RequestKind) (go : State → RequestClaim → State) (h : Agreed s)
    (hg : ∀ t r, Side true false true none t → CursorHasPassed t r.at_.book r.at_.room → Agreed (go t r)) :
    Agreed (s.takeRequest rk go) := by
  unfold State.takeRequest
  split
  · exact h
  · rename_i r hr
    split
    · rename_i hm
      rw [Bool.and_eq_true] at hm
      have hp : s.ctu.phase ≠ .setup := fun h0 => by
        have := (h.2.2.2.2.1 h0).2.1.2.1
        rw [this] at hr
        cases hr
      obtain ⟨h1, k⟩ := State.take_side .request h hp hm.1
      have h2 := hm.1
      unfold State.mayTake State.requestReady at h2
      rw [hr] at h2
      simp only [Bool.and_eq_true] at h2
      have h3 : CursorHasPassed s r.at_.book r.at_.room := hasLeft_passed h2.2.1.1
      generalize s.take .request = t at h1 k ⊢
      exact hg t r h1 (k.passed h3)
    · exact h

theorem State.takePanel_agreed (b : Button) (go : State → PanelEvent → State) (h : Agreed s)
    (hc : s.clock.minute ≤ 1439)
    (hg : ∀ t ev, Side true false true none t → t.clock.minute ≤ 1439 → ev.button = b → ev.Good →
      (t.bsc.pass = .clean ∨ t.bsc.pass = .keep → CursorHasPassed t t.clock.today ev.room) → Agreed (go t ev))
    (hm : ∀ c, (s.take c).clock = s.clock) : Agreed (s.takePanel b go) := by
  unfold State.takePanel
  split
  · exact h
  · rename_i ev hev
    split
    · rename_i hm'
      rw [Bool.and_eq_true, decide_eq_true_eq] at hm'
      have hp : s.ctu.phase ≠ .setup := fun h0 => by
        have := (h.2.2.2.2.1 h0).2.1.2.2.2.1
        rw [this] at hev
        cases hev
      obtain ⟨h1, k⟩ := State.take_side .panel h hp hm'.1
      have hcl := hm .panel
      generalize s.take .panel = t at h1 k hcl ⊢
      have h2 : t.bsc.pass = .clean ∨ t.bsc.pass = .keep → CursorHasPassed t t.clock.today ev.room := by
        intro hps
        rw [k.pass] at hps
        rw [hcl]
        exact k.passed ((h.2.2.2.1 hps).2.2 ev hev)
      exact hg t ev h1 (by rw [hcl]; exact hc) hm'.2 (h.2.2.2.2.2 ev (.inr hev)) h2
    · exact h

theorem State.requestNone_agreed (r : RequestClaim) (h : Side true false true none s) : Agreed (s.requestNone r) := by
  unfold State.requestNone
  have k : Keeps s (if s.slotState r.at_ = .draft then s.setSlot r.at_ .free else s) := by
    split
    · rename_i hd
      exact State.setSlot_keeps s _ _ (fun i h0 => by rw [hd] at h0; cases h0) (fun i h0 => by cases h0)
        (fun q => SlotRef.key_inj q _) (Keeps.refl h.tidy)
    · exact Keeps.refl h.tidy
  exact (State.endClaim_side ((State.release_keeps _ k).side h)).1.agreed (by simp)

theorem State.beginRequest_agreed (kd : AdmissionKind) (r : RequestClaim) (hk : kd ≠ .booknow) (h :
    Side true false true none s)
    (hc : CursorHasPassed s r.at_.book r.at_.room) : Agreed (State.beginRequest kd s r) :=
  (State.advanceAdmission_side _ _ h (fun h0 => absurd h0 hk) (fun _ => hc)).agreed (by simp)

theorem State.booknow_agreed (ev : PanelEvent) (h : Side true false true none s) (hm : s.clock.minute ≤ 1439)
    (hb : ev.button = .booknow) (hg : ev.Good)
    (hc : s.bsc.pass = .clean ∨ s.bsc.pass = .keep → CursorHasPassed s s.clock.today ev.room) :
    Agreed (s.advanceAdmission (s.booknowAdmission ev) []) := by
  refine (State.advanceAdmission_side _ _ h (fun _ => ⟨fun n hn j hj => ?_, ?_, hm⟩) hc).agreed (by simp)
  · have hn' : (if s.walkUp ev.room then s.walkUpSlot ev.room else none) = some n := hn
    split at hn'
    · have := List.find?_some hn'
      rw [decide_eq_true_eq] at this
      have hj' : s.slotState ⟨s.clock.today, ev.room, n⟩ = .live j := hj
      rw [this] at hj'
      cases hj'
    · cases hn'
  · have := hg hb
    show 1 ≤ 15 * ev.argument
    omega

theorem State.extend_agreed (ev : PanelEvent) (h : Side true false true none s)
    (hc : s.bsc.pass = .clean ∨ s.bsc.pass = .keep → CursorHasPassed s s.clock.today ev.room) :
    Agreed (s.advanceAdmission (s.extendAdmission ev) []) :=
  (State.advanceAdmission_side _ _ h (fun h0 => by cases h0) hc).agreed (by simp)

theorem State.beginCheckin_agreed (ev : PanelEvent) (h : Side true false true none s) : Agreed (s.beginCheckin ev) := by
  unfold State.beginCheckin
  split
  · exact (State.beginLife_side _ h).agreed (by simp)
  · exact (State.endClaim_side ((State.answerPanel_keeps s _ _ (Keeps.refl h.tidy)).side h)).1.agreed (by simp)

theorem State.beginEnd_agreed (ev : PanelEvent) (h : Side true false true none s) : Agreed (s.beginEnd ev) := by
  unfold State.beginEnd
  split
  · exact (State.beginLife_side _ h).agreed (by simp)
  · exact (State.endClaim_side ((State.answerPanel_keeps s _ _ (Keeps.refl h.tidy)).side h)).1.agreed (by simp)

theorem State.takeMinute_agreed (rows : List WalkRow) (h : Agreed s) :
    Agreed (s.takeMinute rows) := by
  unfold State.takeMinute
  split
  · exact h
  · rename_i c hc
    split
    · rename_i hm
      rw [Bool.and_eq_true] at hm
      have hp : s.ctu.phase ≠ .setup := fun h0 => by
        have := (h.2.2.2.2.1 h0).2.1.2.2.1
        rw [this] at hc
        cases hc
      have h1 := (State.take_side .minute h hp hm.1).1
      unfold State.beginMinute
      dsimp only
      split
      · exact (State.endClaim_side h1).1.agreed (by simp)
      · split
        · exact (State.beginLife_side _ h1).agreed (by simp)
        · exact (State.endClaim_side h1).1.agreed (by simp)
    · exact h

theorem State.takeVisit_agreed (pass : PassKind) (opening : Bool) (go : State → State) (h : Agreed s)
    (hn : pass ≠ .none) (hm : PhaseAgrees s)
    (hg : ∀ t, Side true false true none t → t.bsc.pass = pass → Agreed (go t)) :
    Agreed (s.takeVisit pass opening go) := by
  unfold State.takeVisit
  split
  · rename_i h0
    simp only [Bool.and_eq_true, decide_eq_true_eq] at h0
    have hp : s.ctu.phase ≠ .setup := fun h1 => by
      unfold PhaseAgrees at hm
      rw [h1] at hm
      exact hn (h0.1.2.symm.trans hm.2.2)
    obtain ⟨h1, k⟩ := State.take_side .scanner h hp h0.1.1
    exact hg _ h1 (k.pass.trans h0.1.2)
  · exact h

theorem State.takeEvent_agreed (h : Agreed s) : Agreed s.takeEvent := by
  unfold State.takeEvent
  split
  · exact h
  · rename_i ev rest hev
    split
    · rename_i hr
      obtain ⟨ht, hb, hc, hp, hs, he⟩ := h
      refine ⟨⟨ht.pool, ht.schedules, ht.slotMap, ht.bindings, ht.entries, ht.loops⟩, hb, hc, fun hps => ?_, fun h0 => ?_,
        fun e h0 => ?_⟩
      · obtain ⟨h1, h2, _⟩ := hp hps
        refine ⟨h1, h2, fun e h0 => ?_⟩
        have h0' : some ev = some e := h0
        cases h0'
        unfold State.headReady at hr
        have hps' : s.bsc.pass = .clean ∨ s.bsc.pass = .keep := hps
        have : s.bsc.hasLeft s.clock.today ev.room = true := by
          rcases hps' with h3 | h3 <;> rw [h3] at hr <;> simpa using (Bool.and_eq_true_iff.1 hr).2
        exact hasLeft_passed this
      · have := (hs h0).2.1.2.2.2.2
        rw [hev] at this
        cases this
      · rcases h0 with h0 | h0
        · exact he e (.inl (by rw [hev]; exact List.mem_cons_of_mem _ h0))
        · have h0' : some ev = some e := h0
          cases h0'
          exact he ev (.inl (by rw [hev]; exact List.mem_cons_self ..))
    · exact h

/-! ### Completions (R15) -/

theorem State.claimAccessDone_agreed (data : Word) (error : Bool) (h : Agreed s) :
    Agreed (s.claimAccessDone data error) := by
  unfold State.claimAccessDone
  split
  · exact h
  · rename_i c hc
    have hp : s.ctu.phase ≠ .setup := fun h0 => by
      have := (h.2.2.2.2.1 h0).2.1.1
      rw [this] at hc
      cases hc
    have hcl := h.2.2.1
    unfold ClaimAgrees at hcl
    rw [hc] at hcl
    have hfree : (∀ q b l, c ≠ .keepWriting q b l) → Side true false true none s := fun h0 =>
      Side.of_free h hp (by rintro ⟨q, b, l, h1⟩; rw [hc] at h1; exact h0 q b l (Option.some.inj h1))
    have hadm : ∀ a st, c = .admission a st → s.bsc.pass = .clean ∨ s.bsc.pass = .keep → CursorHasPassed s a.book a.room :=
      fun a st h0 hps => (h.2.2.2.1 hps).2.1 a st (by rw [hc, h0])
    have hflag : ∀ ex, Side true ex true none s → Side true ex true none (if error = true then s.setFlags flagMemerr else s) := by
      intro ex hs
      split
      · exact (State.setFlags_keeps s _ (Keeps.refl h.1)).side hs
      · exact hs
    split <;> (try dsimp only)
    · refine (State.advanceAdmission_side _ _ (hfree (by simp)) (fun h0 => ?_) (hadm _ _ rfl)).agreed (by simp)
      rcases hcl with h1 | h1 <;> rw [h1] at h0 <;> cases h0
    · exact (State.backReadDone_side _ _ _ (hfree (by simp)) hcl (hadm _ _ rfl)).agreed (by simp)
    · exact (State.admissionWritten_side _ _ _ _ _ _ (hfree (by simp)) hcl (hadm _ _ rfl)).agreed (by simp)
    · exact (State.lifeWritten_side _ _ _ _ _ _ (hfree (by simp))).agreed (by simp)
    · exact (State.visitWritten_side _ _ (hflag _ (hfree (by simp))) rfl (by simp) (by simp)).agreed (by simp)
    · exact (State.visitWritten_side _ _ (hflag _ (hfree (by simp))) rfl (by simp) (by simp)).agreed (by simp)
    · exact KeepSide.agreed (State.keepReadDone_side _ _ _ _ _ (hfree (by simp)) hcl)
    · have h1 : Side true true true none s :=
        { Side.of_agrees (ex := true) h.1 h.2 (fun _ => rfl) with out := fun _ => hp }
      have h2 := hflag _ h1
      split
      · rename_i w hw
        unfold State.endKeep
        have h3 := (State.leaveTail_keeps _ [w] .scanner (Keeps.refl h2.tidy)).side h2
        split
        · exact (State.visitEnded_side ((State.recomposeToday_keeps _ _ _ (Keeps.refl h3.tidy)).side h3)).agreed (by simp)
        · exact (State.visitEnded_side h3).agreed (by simp)
      · exact (h2.plainClaim _ (by simp) (by simp)).agreed (fun _ => ⟨_, _, _, rfl⟩)

end Taking

/-! ### Resets and START -/

/-- Where there is no booking, no claim and no panel event, the booking side agrees (R62). -/
theorem agrees_of_empty {s : State} (h1 : s.adu = {}) (h2 : s.bsc = {}) (h3 : s.plu = {}) (h4 : s.atu = {}) : BookingSideAgrees s := by
  have hs : ∀ r, s.slotState r = .free := fun r => by unfold State.slotState; rw [h1]; rfl
  have he : ∀ i, s.entry i = none := fun i => by unfold State.entry; rw [h1]; rfl
  have hl : ∀ b r, s.schedule b r = [] := fun b r => by unfold State.schedule; rw [h1]; rfl
  have hb : ∀ o, s.binding o = none := fun o => by unfold State.binding; rw [h1]; rfl
  refine ⟨⟨?_, ?_, ?_, ?_, ?_, ?_, ?_⟩, ?_, ?_, ?_, ?_⟩
  · intro r i; rw [hs, he]; simp
  · intro b r i; rw [hl, he]; simp
  · intro b r; rw [hl]; simp
  · intro i j e d h; rw [he] at h; cases h
  · intro i e h; rw [he] at h; cases h
  · intro o i; rw [hb, he]; simp
  · intro o h; exact absurd (hb o) h
  · unfold ClaimAgrees; rw [h1]; trivial
  · intro hp; rw [h2] at hp; simp at hp
  · intro _
    refine ⟨fun r i h => absurd ((hs r).symm.trans h) (by simp), ⟨by rw [h1], by rw [h1], by rw [h4], by rw [h4], by rw [h3]⟩,
      fun l => ?_⟩
    unfold State.loop
    rw [h3]
    exact ⟨rfl, rfl⟩
  · intro ev h; rw [h3, h4] at h; simp at h

theorem State.start_agreed {s : State} (k : StartKind) (h : Agreed s) (hp : s.ctu.phase = .setup) :
    Agreed (s.start k) := by
  obtain ⟨h1, ⟨h2, h3, h4, h5, h6⟩, h7⟩ := h.2.2.2.2.1 hp
  have hs := Side.of_agrees (ex := false) h.1 h.2 (fun h0 => absurd h0 (not_writing h2))
  unfold State.start
  extract_lets _ _ _ u
  have hus : Side true false true none u :=
      { tidy := ⟨h.1.pool, h.1.schedules, h.1.slotMap, h.1.bindings, h.1.entries, h.1.loops⟩
        booked := hs.booked
        held := hs.held
        claim := fun _ => by
          unfold ClaimAgrees
          rw [State.onBsc_adu, State.onClock_adu, State.onMps_adu, State.onCtu_adu, h2]
          trivial
        pass := fun _ =>
          ⟨fun r i hr => absurd hr (h1 r i),
            fun a st h0 => (by
              have h0' : s.adu.claim = some (.admission a st) := h0
              rw [h2] at h0'
              cases h0'),
            fun ev hev => (by
              have hev' : s.atu.panelEvent = some ev := hev
              rw [h5] at hev'
              cases hev')⟩
        setup := fun h0 => by cases h0
        events := hs.events
        out := fun _ h0 => by cases h0 }
  have kk := State.startAtu_keeps _ (State.onOcf_keeps _ (fun _ => {}) (State.startPlu_keeps u (hus.out rfl) (Keeps.refl hus.tidy)))
  exact (kk.side hus).agreed (by simp)

/-! ### The commands -/

section Commands
variable {s : State}

/-- An operation that leaves the bookings alone keeps their agreement. -/
theorem Keeps.agreed {t : State} (k : Keeps s t) (h : Agreed s) : Agreed t := by
  by_cases hw : KeepWriting s
  · refine (k.side (Side.of_agrees (ex := true) h.1 h.2 fun _ => rfl)).agreed fun _ => ?_
    obtain ⟨q, b, l, h0⟩ := hw
    exact ⟨q, b, l, k.claim.trans h0⟩
  · exact (k.side (Side.of_agrees (ex := false) h.1 h.2 fun h0 => absurd h0 hw)).agreed (by simp)

/-- Applying notices leaves the clock. -/
theorem State.applyNotices_clock (s : State) : s.applyNotices.clock = s.clock := by
  have hm : ∀ (s : State) (r : Room) (f : PoolEntry → PoolEntry), (s.mapBookings r f).clock = s.clock := by
    intro s r f
    exact List.foldlRecOn (motive := fun u : State => u.clock = s.clock) _ _ rfl fun u hu b _ => hu
  have hr : ∀ (s : State) (r : Room), (s.applyReturn r).clock = s.clock := by
    intro s r
    unfold State.applyReturn
    exact List.foldlRecOn (motive := fun u : State => u.clock = s.clock) _ _ rfl fun u hu b _ => (hm _ _ _).trans hu
  have hp : ∀ (s : State) (r : Room), (s.applyReports r).clock = s.clock := by
    intro s r
    unfold State.applyReports
    exact List.foldlRecOn (motive := fun u : State => u.clock = s.clock) _ _ rfl fun u hu b _ => (hm _ _ _).trans hu
  unfold State.applyNotices
  refine List.foldlRecOn (motive := fun u : State => u.clock = s.clock) _ _ ?_ fun u hu b _ => (hp u b).trans hu
  exact List.foldlRecOn (motive := fun u : State => u.clock = s.clock) _ _ rfl fun u hu b _ => (hr u b).trans hu

theorem State.take_clock (s : State) (c : ClaimSource) : (s.take c).clock = s.clock := by
  have h := s.applyNotices_clock
  unfold State.take
  generalize s.applyNotices = u at h ⊢
  cases c <;> exact h

/-- In RUNNING no KEEP visit reads. -/
theorem not_keepReading (h : Agreed s) (hm : PhaseAgrees s) (hr : s.ctu.phase = .running) :
    ∀ r x got, s.adu.claim ≠ some (.keepReading r x got) := by
  intro r x got h0
  have h1 := h.2.2.1
  unfold ClaimAgrees at h1
  rw [h0] at h1
  unfold PhaseAgrees at hm
  rw [hr] at hm
  rcases hm.2.2 with h2 | h2 <;> rw [h1.1] at h2 <;> cases h2

/-- A KEEP pass runs outside SETUP only, and a KEEP visit writes during one: outside SETUP either shape of `Side` is at hand. -/
theorem outside_of (h : Agreed s) (hp : s.ctu.phase ≠ .setup) :
    ∃ ex, Side true ex true none s ∧ (ex = true → KeepWriting s) := by
  by_cases hw : KeepWriting s
  · exact ⟨true, { Side.of_agrees (ex := true) h.1 h.2 (fun _ => rfl) with out := fun _ => hp }, fun _ => hw⟩
  · exact ⟨false, { Side.of_agrees (ex := false) h.1 h.2 (fun h0 => absurd h0 hw) with out := fun _ => hp }, by simp⟩

/-- A day-end expiry that acts (R97): no pass but a TURNOVER stands after it. -/
theorem State.dayEndActs_agreed (h : Agreed s) (hm : PhaseAgrees s) (hr : s.ctu.phase = .running) :
    Agreed s.dayEndActs := by
  obtain ⟨ex, hs, _⟩ := outside_of h (by rw [hr]; simp)
  have h1 := State.dayEndActs_side (ex' := false) hs (not_keepReading h hm hr)
  exact h1.agreed (by simp)

theorem State.minuteExpiry_agreed (h : Agreed s) : Agreed s.minuteExpiry := by
  unfold State.minuteExpiry
  split
  · exact h
  · exact (State.onClock_keeps s _ rfl (Keeps.refl h.1)).agreed h
  · rename_i hr
    exact (State.minuteReaches_keeps s (by rw [hr]; simp) (Keeps.refl h.1)).agreed h

theorem State.dayEndExpiry_agreed (h : Agreed s) (hm : PhaseAgrees s) :
    Agreed s.dayEndExpiry := by
  have hk : ∀ f : Clock → Clock, (f s.clock).today = s.clock.today → Agreed (s.onClock f) :=
    fun f hf => (State.onClock_keeps s f hf (Keeps.refl h.1)).agreed h
  unfold State.dayEndExpiry
  split
  · exact h
  · exact hk _ rfl
  · rename_i hr
    split
    · exact hk _ rfl
    · exact State.dayEndActs_agreed h hm hr

theorem State.pulse_agreed (h : Agreed s) (hm : PhaseAgrees s) : Agreed s.pulse := by
  have hk : ∀ f : Clock → Clock, (f s.clock).today = s.clock.today → Agreed (s.onClock f) :=
    fun f hf => (State.onClock_keeps s f hf (Keeps.refl h.1)).agreed h
  unfold State.pulse
  split
  · exact h
  · split
    · exact hk (fun c => { c with second := c.second + 1 }) rfl
    · unfold State.carry
      split
      · exact State.minuteExpiry_agreed (hk (fun c => { c with second := 0, minute := c.minute + 1 }) rfl)
      · exact State.minuteExpiry_agreed (State.dayEndExpiry_agreed
          (hk (fun c => { c with second := 0, minute := 0, day := (c.day + 1) % 65536 }) rfl) hm)

theorem State.storeSetting_keeps {base : State} (n : Nat) (data : Word) (lanes : Lanes)
    (hn : n = 3 → base.ctu.phase = .setup) (h : Keeps base s) : Keeps base (s.storeSetting n data lanes) := by
  unfold State.storeSetting
  have h1 : ∀ f : Ctu → Ctu, (f s.ctu).phase = s.ctu.phase → Keeps base (s.onCtu f) := fun f hf => State.onCtu_keeps s f hf h
  dsimp only
  split
  · unfold State.loadClock
    split
    · exact State.onCtu_keeps _ _ rfl (State.onClock_keeps _ _ rfl (h1 _ rfl))
    · exact State.onCtu_keeps _ _ rfl (h1 _ rfl)
  · unfold State.loadBank
    have h2 := h1 (fun c => { c with shadow := c.shadow.store 3 (mergeLanes (s.ctu.shadow.value 3) data lanes &&& settingMask 3) }) rfl
    exact
      { h2 with
        tidy := ⟨h2.tidy.pool, h2.tidy.schedules, h2.tidy.slotMap, h2.tidy.bindings, h2.tidy.entries, h2.tidy.loops⟩
        today := .inr (hn rfl) }
  · exact h1 _ rfl

theorem State.commandWrite_agreed (w : Word) (h : Agreed s) :
    Agreed (s.commandWrite w) := by
  unfold State.commandWrite
  have hset : ∀ (t : State) st r, Agreed t → Agreed (t.setCommand w st r) := fun t st r h1 =>
    (State.setCommand_keeps t w st r (Keeps.refl h1.1)).agreed h1
  have hk : ∀ {t : State}, Keeps s t → Agreed t := fun k => k.agreed h
  have hstart : ∀ k : StartKind,
      (CommandCode.startClean.allowed s.ctu.phase = true ∨ CommandCode.startKeep.allowed s.ctu.phase = true) →
      Agreed (s.start k) := by
    intro k ha
    have hp : s.ctu.phase = .setup := by
      cases hph : s.ctu.phase <;> rw [hph] at ha <;> simp [CommandCode.allowed] at ha ⊢
    exact State.start_agreed k h hp
  split
  · exact hset s _ _ h
  · rename_i c hc
    have hal : c.allowed s.ctu.phase = true := by
      unfold State.judgeCommand at hc
      dsimp only at hc
      split at hc
      · cases hc
      · split at hc
        · cases hc
        · split at hc
          · cases hc
          · rename_i ha
            split at hc
            · cases hc
            · cases hc
              simpa using ha
    have key : Agreed (s.carryOut c w) := by
      unfold State.carryOut
      split
      · exact hstart _ (.inl hal)
      · exact hstart _ (.inr hal)
      · exact ⟨⟨PoolAgrees.reset, rfl, rfl, rfl, rfl, rfl⟩, agrees_of_empty rfl rfl rfl rfl⟩
      · exact hk (State.kitchenClear_keeps s (Keeps.refl h.1))
      · exact hk (State.rebase_keeps s w (Keeps.refl h.1))
      · exact hk (State.swapPositions_keeps s _ _ _ (Keeps.refl h.1))
    exact hset _ _ _ key

theorem State.act_agreed (n : Nat) (w : Word) (h : Agreed s) :
    Agreed (s.act n w) := by
  have hk : ∀ {t : State}, Keeps s t → Agreed t := fun k => k.agreed h
  unfold State.act
  split
  · exact State.commandWrite_agreed w h
  · exact hk (State.clearFlags_keeps s w (Keeps.refl h.1))
  · exact hk (State.trapTaken_keeps s (Keeps.refl h.1))
  · exact hk (State.clearCauses_keeps s w (Keeps.refl h.1))
  · exact h

theorem State.hostWrite_agreed (a : HostAccess) (h : Agreed s) (hm : PhaseAgrees s) :
    Agreed (s.hostWrite a) := by
  have kr := Keeps.refl h.1
  unfold State.hostWrite
  have hwin : s.mps.windows.isSome = true → s.ctu.phase ≠ .setup := fun hw hp => by
    unfold PhaseAgrees at hm
    rw [hp] at hm
    rw [hm.1] at hw
    cases hw
  split
  · exact (State.toMemory_keeps s a kr).agreed h
  · unfold State.writeControl
    split
    · exact (State.withholdWrite_keeps s kr).agreed h
    · split
      · have h1 := State.act_agreed ‹Nat› a.data h
        exact (State.toMemory_keeps _ a (Keeps.refl h1.1)).agreed h1
      · exact (State.toMemory_keeps _ a (State.setFlags_keeps _ _ kr)).agreed h
    · rename_i hw
      refine (State.toMemory_keeps _ a (State.storeSetting_keeps _ _ _ (fun h3 => ?_) kr)).agreed h
      rw [h3] at hw
      cases hw
    · split
      · rename_i hs
        exact (State.toMemory_keeps _ a (State.storeSetting_keeps _ _ _ (fun _ => hs) kr)).agreed h
      · exact (State.withholdWrite_keeps s kr).agreed h
    · exact (State.toMemory_keeps s a kr).agreed h
  · rename_i r n hr
    have hp : s.ctu.phase ≠ .setup := by
      refine hwin ?_
      unfold State.target at hr
      split at hr
      · cases hr
      · split at hr
        · cases hr
        · split at hr
          · rename_i hw
            rw [hw]
            rfl
          · split at hr
            · split at hr <;> cases hr
            · cases hr
    unfold State.writeSlot
    split
    · exact (State.toMemory_keeps _ a (State.noteDraft_keeps _ _ kr)).agreed h
    · split
      · split
        · exact (State.holdRequest_keeps s r a hp kr).agreed h
        · exact (State.toMemory_keeps _ a (State.setFlags_keeps _ _ kr)).agreed h
      · exact (State.withholdWrite_keeps s kr).agreed h
  · exact (State.writeOrder_keeps s _ _ a kr).agreed h
  · exact (State.writePage_keeps s _ _ a kr).agreed h
  · exact (State.withholdWrite_keeps s kr).agreed h
  · exact (State.toMemory_keeps _ a (State.captureDirectory_keeps s _ _ _ _ kr)).agreed h

/-- A host access is treated (R2). -/
theorem State.hostTreat_agreed (a : HostAccess) (h : Agreed s) (hm : PhaseAgrees s) :
    Agreed (s.hostTreat a) := by
  unfold State.hostTreat
  split
  · exact State.hostWrite_agreed a h hm
  · exact (State.hostRead_keeps s a (Keeps.refl h.1)).agreed h

/-- A memory access completes (R15). -/
theorem State.accessComplete_agreed (error nextFirst : Bool) (h : Agreed s) :
    Agreed (s.accessComplete error nextFirst) := by
  unfold State.accessComplete
  split
  · exact h
  · rename_i a ha
    dsimp only
    have k1 : Keeps s { s with mem := s.memAfter a error, freeCount := if error then s.freeCount + 1 else s.freeCount } :=
      Keeps.of_same (Keeps.refl h.1) rfl rfl rfl rfl rfl rfl rfl rfl rfl rfl rfl rfl rfl rfl rfl rfl
    have k2 := State.onMps_keeps _ (fun m => { m with granted := none }) k1
    have k3 : Keeps s
        (if nextFirst = true then
          ({ s with mem := s.memAfter a error, freeCount := if error then s.freeCount + 1 else s.freeCount } : State).onMps
            fun m => { m with granted := none }
        else
          (({ s with mem := s.memAfter a error, freeCount := if error then s.freeCount + 1 else s.freeCount } : State).onMps
            fun m => { m with granted := none }).onMps Mps.arbitrate) := by
      split
      · exact k2
      · exact State.arbitrate_keeps _ k2
    have h3 := k3.agreed h
    revert h3
    generalize (if nextFirst = true then _ else _ : State) = t
    intro h3
    have kr := Keeps.refl h3.1
    unfold State.deliver
    split
    · exact (State.completeHost_keeps _ _ _ kr).agreed h3
    · exact (State.onMps_keeps _ _ (State.completeHost_keeps _ _ _ kr)).agreed h3
    · exact State.claimAccessDone_agreed _ _ h3
    · exact State.claimAccessDone_agreed _ _ h3
    · exact (State.tailDone_keeps _ _ kr).agreed h3
    · exact (State.cquDone_keeps _ _ kr).agreed h3
    · exact (State.assemblyRead_keeps _ _ _ kr).agreed h3
    · exact (State.finalDone_keeps _ _ kr).agreed h3
    all_goals first | exact h3 | (split <;> first | exact h3 | exact (State.setFlags_keeps _ _ kr).agreed h3)

end Commands

end Sys2Proof.Machine
end

