-- ==== Sys2Proof/Laws/Frames.lean ====
section
/-! SUPPORT. What no operation of a block touches: memory, the RESET pin, the count of free values and the queue, gathered
as `State.outer`. One lemma per operation. -/

namespace Sys2Proof.Machine

/-- The state with its ten blocks forgotten. -/
def State.outer (s : State) : List Host.Cell × Bool × Nat × List Instr := (s.mem, s.resetAsserted, s.freeCount, s.pending)

/-- A fold of operations that keep the outer state keeps it. -/
theorem foldl_outer {β : Type} (f : State → β → State) (h : ∀ s b, (f s b).outer = s.outer) (l : List β) (s : State) :
    (l.foldl f s).outer = s.outer := by
  induction l generalizing s with
  | nil => rfl
  | cons b l ih => rw [List.foldl_cons, ih, h]

@[simp] theorem State.onMps_outer (s : State) (f : Mps → Mps) : (s.onMps f).outer = s.outer := rfl
@[simp] theorem State.onCtu_outer (s : State) (f : Ctu → Ctu) : (s.onCtu f).outer = s.outer := rfl
@[simp] theorem State.onClock_outer (s : State) (f : Clock → Clock) : (s.onClock f).outer = s.outer := rfl
@[simp] theorem State.onAdu_outer (s : State) (f : Adu → Adu) : (s.onAdu f).outer = s.outer := rfl
@[simp] theorem State.onBsc_outer (s : State) (f : Bsc → Bsc) : (s.onBsc f).outer = s.outer := rfl
@[simp] theorem State.onPlu_outer (s : State) (f : Plu → Plu) : (s.onPlu f).outer = s.outer := rfl
@[simp] theorem State.onOcf_outer (s : State) (f : Ocf → Ocf) : (s.onOcf f).outer = s.outer := rfl
@[simp] theorem State.onAtu_outer (s : State) (f : Atu → Atu) : (s.onAtu f).outer = s.outer := rfl
@[simp] theorem State.onCqu_outer (s : State) (f : Cqu → Cqu) : (s.onCqu f).outer = s.outer := rfl
@[simp] theorem State.onKlc_outer (s : State) (f : Klc → Klc) : (s.onKlc f).outer = s.outer := rfl

@[simp] theorem State.setSlot_outer (s : State) (r : SlotRef) (v : SlotState) :
    (State.setSlot s r v).outer = s.outer := by
  simp only [State.setSlot]
  repeat (first
    | with_reducible rfl
    | with_reducible refine (State.onAdu_outer _ _).trans ?_
    | split)

@[simp] theorem State.setEntry_outer (s : State) (i : Nat) (e : Option PoolEntry) :
    (State.setEntry s i e).outer = s.outer := by
  simp only [State.setEntry]
  repeat (first
    | with_reducible rfl
    | with_reducible refine (State.onAdu_outer _ _).trans ?_
    | split)

@[simp] theorem State.setSchedule_outer (s : State) (b : Book) (r : Room) (l : List Nat) :
    (State.setSchedule s b r l).outer = s.outer := by
  simp only [State.setSchedule]
  repeat (first
    | with_reducible rfl
    | with_reducible refine (State.onAdu_outer _ _).trans ?_
    | split)

@[simp] theorem State.setBinding_outer (s : State) (o : OrderIx) (v : Option Nat) :
    (State.setBinding s o v).outer = s.outer := by
  simp only [State.setBinding]
  repeat (first
    | with_reducible rfl
    | with_reducible refine (State.onAdu_outer _ _).trans ?_
    | split)

@[simp] theorem State.unbind_outer (s : State) (x : Option OrderIx) : (State.unbind s x).outer = s.outer := by
  cases x <;> simp [State.unbind]

@[simp] theorem State.bind_outer (s : State) (i : Nat) (x : Option OrderIx) : (State.bind s i x).outer = s.outer := by
  cases x <;> simp [State.bind]

@[simp] theorem State.takeEntry_outer (s : State) (e : PoolEntry) : (State.takeEntry s e).outer = s.outer := by
  simp only [State.takeEntry]
  repeat (first
    | with_reducible rfl
    | with_reducible refine (State.onAdu_outer _ _).trans ?_
    | with_reducible refine (State.setSlot_outer _ _ _).trans ?_
    | with_reducible refine (State.setEntry_outer _ _ _).trans ?_
    | with_reducible refine (State.setSchedule_outer _ _ _ _).trans ?_
    | with_reducible refine (State.bind_outer _ _ _).trans ?_
    | split)

@[simp] theorem State.freeEntry_outer (s : State) (i : Nat) : (State.freeEntry s i).outer = s.outer := by
  simp only [State.freeEntry]
  repeat (first
    | with_reducible rfl
    | with_reducible refine (State.onAdu_outer _ _).trans ?_
    | with_reducible refine (State.setSlot_outer _ _ _).trans ?_
    | with_reducible refine (State.setEntry_outer _ _ _).trans ?_
    | with_reducible refine (State.setSchedule_outer _ _ _ _).trans ?_
    | with_reducible refine (State.unbind_outer _ _).trans ?_
    | split)

@[simp] theorem State.changeEntry_outer (s : State) (i : Nat) (e : PoolEntry) :
    (State.changeEntry s i e).outer = s.outer := by
  simp only [State.changeEntry]
  repeat (first
    | with_reducible rfl
    | with_reducible refine (State.setEntry_outer _ _ _).trans ?_
    | with_reducible refine (State.setSchedule_outer _ _ _ _).trans ?_
    | with_reducible refine (State.unbind_outer _ _).trans ?_
    | with_reducible refine (State.bind_outer _ _ _).trans ?_
    | split)

@[simp] theorem State.setLoop_outer (s : State) (l : LoopNo) (v : Loop) : (State.setLoop s l v).outer = s.outer := by
  simp only [State.setLoop]
  repeat (first
    | with_reducible rfl
    | with_reducible refine (State.onPlu_outer _ _).trans ?_
    | split)

@[simp] theorem State.setPanel_outer (s : State) (r : Room) (v : Panel) : (State.setPanel s r v).outer = s.outer := by
  simp only [State.setPanel]
  repeat (first
    | with_reducible rfl
    | with_reducible refine (State.onPlu_outer _ _).trans ?_
    | split)

@[simp] theorem State.setFilter_outer (s : State) (r : Room) (v : Filter) :
    (State.setFilter s r v).outer = s.outer := by
  simp only [State.setFilter]
  repeat (first
    | with_reducible rfl
    | with_reducible refine (State.onOcf_outer _ _).trans ?_
    | split)

@[simp] theorem State.setRoomState_outer (s : State) (r : Room) (v : RoomState) :
    (State.setRoomState s r v).outer = s.outer := by
  simp only [State.setRoomState]
  repeat (first
    | with_reducible rfl
    | with_reducible refine (State.onAtu_outer _ _).trans ?_
    | split)

@[simp] theorem State.setOrderEntry_outer (s : State) (o : OrderIx) (v : Option OrderEntry) :
    (State.setOrderEntry s o v).outer = s.outer := by
  simp only [State.setOrderEntry]
  repeat (first
    | with_reducible rfl
    | with_reducible refine (State.onCqu_outer _ _).trans ?_
    | split)

@[simp] theorem State.present_outer (s : State) (a : Access) : (State.present s a).outer = s.outer := by
  simp only [State.present]
  repeat (first
    | with_reducible rfl
    | with_reducible refine (State.onMps_outer _ _).trans ?_
    | split)

@[simp] theorem State.setFlags_outer (s : State) (w : Word) : (State.setFlags s w).outer = s.outer := by
  simp only [State.setFlags]
  repeat (first
    | with_reducible rfl
    | with_reducible refine (State.onCtu_outer _ _).trans ?_
    | split)

@[simp] theorem State.clearFlags_outer (s : State) (w : Word) : (State.clearFlags s w).outer = s.outer := by
  simp only [State.clearFlags]
  repeat (first
    | with_reducible rfl
    | with_reducible refine (State.onCtu_outer _ _).trans ?_
    | split)

@[simp] theorem State.presentTrap_outer (s : State) (r : TrapRecord) : (State.presentTrap s r).outer = s.outer := by
  simp only [State.presentTrap]
  repeat (first
    | with_reducible rfl
    | with_reducible refine (State.onCtu_outer _ _).trans ?_
    | with_reducible refine (State.setFlags_outer _ _).trans ?_
    | split)

@[simp] theorem State.markChanged_outer (s : State) (r : Room) : (State.markChanged s r).outer = s.outer := by
  simp only [State.markChanged]
  repeat (first
    | with_reducible rfl
    | with_reducible refine (State.onCtu_outer _ _).trans ?_
    | split)

@[simp] theorem State.raiseKitchen_outer (s : State) : (State.raiseKitchen s).outer = s.outer := by
  simp only [State.raiseKitchen]
  repeat (first
    | with_reducible rfl
    | with_reducible refine (State.onCtu_outer _ _).trans ?_
    | split)

@[simp] theorem State.raiseScan_outer (s : State) : (State.raiseScan s).outer = s.outer := by
  simp only [State.raiseScan]
  repeat (first
    | with_reducible rfl
    | with_reducible refine (State.onCtu_outer _ _).trans ?_
    | split)

@[simp] theorem State.lockNotice_outer (s : State) (o : OrderIx) (st : OrderState) :
    (State.lockNotice s o st).outer = s.outer := by
  simp only [State.lockNotice]
  repeat (first
    | with_reducible rfl
    | with_reducible refine (State.onMps_outer _ _).trans ?_
    | split)

@[simp] theorem State.listWrite_outer (s : State) (o : OrderIx) : (State.listWrite s o).outer = s.outer := by
  simp only [State.listWrite]
  repeat (first
    | with_reducible rfl
    | with_reducible refine (State.onCqu_outer _ _).trans ?_
    | split)

@[simp] theorem State.decideOrder_outer (s : State) (o : OrderIx) (e : OrderEntry) :
    (State.decideOrder s o e).outer = s.outer := by
  simp only [State.decideOrder]
  repeat (first
    | with_reducible rfl
    | with_reducible refine (State.setOrderEntry_outer _ _ _).trans ?_
    | with_reducible refine (State.raiseKitchen_outer _).trans ?_
    | with_reducible refine (State.lockNotice_outer _ _ _).trans ?_
    | with_reducible refine (State.listWrite_outer _ _).trans ?_
    | split)

@[simp] theorem State.unqueue_outer (s : State) (o : OrderIx) : (State.unqueue s o).outer = s.outer := by
  simp only [State.unqueue]
  repeat (first
    | with_reducible rfl
    | with_reducible refine (State.onCqu_outer _ _).trans ?_
    | split)

@[simp] theorem State.leaveContext_outer (s : State) (o : OrderIx) :
    (State.leaveContext s o).outer = s.outer := by
  simp only [State.leaveContext]
  repeat (first
    | with_reducible rfl
    | with_reducible refine (State.onMps_outer _ _).trans ?_
    | with_reducible refine (State.onKlc_outer _ _).trans ?_
    | split)

@[simp] theorem State.unplace_outer (s : State) (o : OrderIx) :
    (State.unplace s o).outer = s.outer := by
  simp only [State.unplace]
  repeat (first
    | with_reducible rfl
    | with_reducible refine (State.leaveContext_outer _ _).trans ?_
    | with_reducible refine (State.onCqu_outer _ _).trans ?_
    | with_reducible refine (State.unqueue_outer _ _).trans ?_
    | split)

@[simp] theorem State.enqueue_outer (s : State) (o : OrderIx) :
    (State.enqueue s o).outer = s.outer := by
  simp only [State.enqueue]
  repeat (first
    | with_reducible rfl
    | with_reducible refine (State.onCqu_outer _ _).trans ?_
    | with_reducible refine (State.unplace_outer _ _).trans ?_
    | split)

@[simp] theorem State.recall_outer (s : State) (o : OrderIx) :
    (State.recall s o).outer = s.outer := by
  simp only [State.recall]
  repeat (first
    | with_reducible rfl
    | with_reducible refine (State.onCqu_outer _ _).trans ?_
    | with_reducible refine (State.unplace_outer _ _).trans ?_
    | split)

@[simp] theorem State.queueOrder_outer (s : State) (o : OrderIx) (e : OrderEntry) :
    (State.queueOrder s o e).outer = s.outer := by
  simp only [State.queueOrder]
  repeat (first
    | with_reducible rfl
    | with_reducible refine (State.decideOrder_outer _ _ _).trans ?_
    | with_reducible refine (State.enqueue_outer _ _).trans ?_
    | split)

@[simp] theorem State.recallOrder_outer (s : State) (o : OrderIx) (e : OrderEntry) (resend : Bool) :
    (State.recallOrder s o e resend).outer = s.outer := by
  simp only [State.recallOrder]
  repeat (first
    | with_reducible rfl
    | with_reducible refine (State.decideOrder_outer _ _ _).trans ?_
    | with_reducible refine (State.recall_outer _ _).trans ?_
    | split)

@[simp] theorem State.markContext_outer (s : State) (o : OrderIx) (m : Disposition) :
    (State.markContext s o m).outer = s.outer := by
  simp only [State.markContext]
  repeat (first
    | with_reducible rfl
    | with_reducible refine (State.onKlc_outer _ _).trans ?_
    | split)

@[simp] theorem State.noticeAttach_outer (s : State) (o : OrderIx) (role : Role) (at_ : SlotRef) (start due : Nat) :
    (State.noticeAttach s o role at_ start due).outer = s.outer := by
  simp only [State.noticeAttach]
  repeat (first
    | with_reducible rfl
    | with_reducible refine (State.queueOrder_outer _ _ _).trans ?_
    | split)

@[simp] theorem State.noticeMove_outer (s : State) (o : OrderIx) (start due : Nat) :
    (State.noticeMove s o start due).outer = s.outer := by
  simp only [State.noticeMove]
  repeat (first
    | with_reducible rfl
    | with_reducible refine (State.decideOrder_outer _ _ _).trans ?_
    | with_reducible refine (State.queueOrder_outer _ _ _).trans ?_
    | with_reducible refine (State.recallOrder_outer _ _ _ _).trans ?_
    | with_reducible refine (State.markContext_outer _ _ _).trans ?_
    | split)

@[simp] theorem State.noticeShortDetach_outer (s : State) (o : OrderIx) :
    (State.noticeShortDetach s o).outer = s.outer := by
  simp only [State.noticeShortDetach]
  repeat (first
    | with_reducible rfl
    | with_reducible refine (State.decideOrder_outer _ _ _).trans ?_
    | with_reducible refine (State.unqueue_outer _ _).trans ?_
    | with_reducible refine (State.recallOrder_outer _ _ _ _).trans ?_
    | with_reducible refine (State.markContext_outer _ _ _).trans ?_
    | split)

@[simp] theorem State.noticeDeath_outer (s : State) (o : OrderIx) (k : DeathKind) :
    (State.noticeDeath s o k).outer = s.outer := by
  simp only [State.noticeDeath]
  repeat (first
    | with_reducible rfl
    | with_reducible refine (State.decideOrder_outer _ _ _).trans ?_
    | with_reducible refine (State.unqueue_outer _ _).trans ?_
    | with_reducible refine (State.recallOrder_outer _ _ _ _).trans ?_
    | with_reducible refine (State.markContext_outer _ _ _).trans ?_
    | split)

@[simp] theorem State.notice_outer (s : State) (x : Notice) : (State.notice s x).outer = s.outer := by
  cases x <;> simp [State.notice]

@[simp] theorem State.notices_outer (s : State) (l : List Notice) : (State.notices s l).outer = s.outer := by
  simp only [State.notices]
  repeat (first
    | with_reducible rfl
    | with_reducible refine (State.notice_outer _ _).trans ?_
    | with_reducible refine (foldl_outer _ (fun _ _ => ?_) _ _).trans ?_
    | split)

@[simp] theorem State.dispose_outer (s : State) (o : OrderIx) (m : Disposition) :
    (State.dispose s o m).outer = s.outer := by
  simp only [State.dispose]
  repeat (first
    | with_reducible rfl
    | with_reducible refine (State.decideOrder_outer _ _ _).trans ?_
    | with_reducible refine (State.queueOrder_outer _ _ _).trans ?_
    | with_reducible refine (State.recallOrder_outer _ _ _ _).trans ?_
    | split)

@[simp] theorem State.makeDue_outer (s : State) (o : OrderIx) : (State.makeDue s o).outer = s.outer := by
  simp only [State.makeDue]
  repeat (first
    | with_reducible rfl
    | with_reducible refine (State.decideOrder_outer _ _ _).trans ?_
    | split)

@[simp] theorem State.cateringMinute_outer (s : State) : (State.cateringMinute s).outer = s.outer := by
  simp only [State.cateringMinute]
  repeat (first
    | with_reducible rfl
    | with_reducible refine (State.makeDue_outer _ _).trans ?_
    | with_reducible refine (foldl_outer _ (fun _ _ => ?_) _ _).trans ?_
    | split)

@[simp] theorem State.closeQueued_outer (b : Book) (s : State) (o : OrderIx) :
    (State.closeQueued b s o).outer = s.outer := by
  simp only [State.closeQueued]
  repeat (first
    | with_reducible rfl
    | with_reducible refine (State.decideOrder_outer _ _ _).trans ?_
    | with_reducible refine (State.unqueue_outer _ _).trans ?_
    | split)

@[simp] theorem State.closeAccepted_outer (b : Book) (s : State) (o : OrderIx) :
    (State.closeAccepted b s o).outer = s.outer := by
  simp only [State.closeAccepted]
  repeat (first
    | with_reducible rfl
    | with_reducible refine (State.decideOrder_outer _ _ _).trans ?_
    | split)

@[simp] theorem State.dayClose_outer (s : State) (b : Book) : (State.dayClose s b).outer = s.outer := by
  simp only [State.dayClose]
  repeat (first
    | with_reducible rfl
    | with_reducible refine (State.closeQueued_outer _ _ _).trans ?_
    | with_reducible refine (State.closeAccepted_outer _ _ _).trans ?_
    | with_reducible refine (foldl_outer _ (fun _ _ => ?_) _ _).trans ?_
    | split)

@[simp] theorem State.presentCqu_outer (s : State) : (State.presentCqu s).outer = s.outer := by
  simp only [State.presentCqu]
  repeat (first
    | with_reducible rfl
    | with_reducible refine (State.onCqu_outer _ _).trans ?_
    | with_reducible refine (State.present_outer _ _).trans ?_
    | split)

@[simp] theorem State.cquDone_outer (s : State) (error : Bool) : (State.cquDone s error).outer = s.outer := by
  simp only [State.cquDone]
  repeat (first
    | with_reducible rfl
    | with_reducible refine (State.onCqu_outer _ _).trans ?_
    | with_reducible refine (State.setFlags_outer _ _).trans ?_
    | split)

@[simp] theorem State.assemble_outer (s : State) (c : Context) : (State.assemble s c).outer = s.outer := by
  simp only [State.assemble]
  repeat (first
    | with_reducible rfl
    | with_reducible refine (State.onKlc_outer _ _).trans ?_
    | split)

@[simp] theorem State.linkIdle_outer (s : State) : (State.linkIdle s).outer = s.outer := by
  simp only [State.linkIdle]
  repeat (first
    | with_reducible rfl
    | with_reducible refine (State.onKlc_outer _ _).trans ?_
    | split)

@[simp] theorem State.haltLink_outer (s : State) (r : HaltReason) : (State.haltLink s r).outer = s.outer := by
  simp only [State.haltLink]
  repeat (first
    | with_reducible rfl
    | with_reducible refine (State.onKlc_outer _ _).trans ?_
    | with_reducible refine (State.raiseKitchen_outer _).trans ?_
    | split)

@[simp] theorem State.recordTotal_outer (s : State) (o : OrderIx) (total : Nat) :
    (State.recordTotal s o total).outer = s.outer := by
  simp only [State.recordTotal]
  repeat (first
    | with_reducible rfl
    | with_reducible refine (State.decideOrder_outer _ _ _).trans ?_
    | split)

@[simp] theorem State.assemblyRead_outer (s : State) (data : Word) (error : Bool) :
    (State.assemblyRead s data error).outer = s.outer := by
  simp only [State.assemblyRead]
  repeat (first
    | with_reducible rfl
    | with_reducible refine (State.onKlc_outer _ _).trans ?_
    | with_reducible refine (State.haltLink_outer _ _).trans ?_
    | with_reducible refine (State.recordTotal_outer _ _ _).trans ?_
    | split)

@[simp] theorem State.lookForWork_outer (s : State) : (State.lookForWork s).outer = s.outer := by
  simp only [State.lookForWork]
  repeat (first
    | with_reducible rfl
    | with_reducible refine (State.onCqu_outer _ _).trans ?_
    | with_reducible refine (State.decideOrder_outer _ _ _).trans ?_
    | with_reducible refine (State.unqueue_outer _ _).trans ?_
    | with_reducible refine (State.recall_outer _ _).trans ?_
    | with_reducible refine (State.assemble_outer _ _).trans ?_
    | split)

@[simp] theorem State.ticketAccepted_outer (s : State) (c : Context) (e : OrderEntry) :
    (State.ticketAccepted s c e).outer = s.outer := by
  simp only [State.ticketAccepted]
  repeat (first
    | with_reducible rfl
    | with_reducible refine (State.decideOrder_outer _ _ _).trans ?_
    | with_reducible refine (State.dispose_outer _ _ _).trans ?_
    | with_reducible refine (State.assemble_outer _ _).trans ?_
    | with_reducible refine (State.linkIdle_outer _).trans ?_
    | split)

@[simp] theorem State.recallAccepted_outer (s : State) (c : Context) (e : OrderEntry) :
    (State.recallAccepted s c e).outer = s.outer := by
  simp only [State.recallAccepted]
  repeat (first
    | with_reducible rfl
    | with_reducible refine (State.decideOrder_outer _ _ _).trans ?_
    | with_reducible refine (State.queueOrder_outer _ _ _).trans ?_
    | with_reducible refine (State.linkIdle_outer _).trans ?_
    | split)

@[simp] theorem State.resend_outer (s : State) (c : Context) : (State.resend s c).outer = s.outer := by
  simp only [State.resend]
  repeat (first
    | with_reducible rfl
    | with_reducible refine (State.onKlc_outer _ _).trans ?_
    | split)

@[simp] theorem State.softFault_outer (s : State) (c : Context) (e : OrderEntry) :
    (State.softFault s c e).outer = s.outer := by
  simp only [State.softFault]
  repeat (first
    | with_reducible rfl
    | with_reducible refine (State.onKlc_outer _ _).trans ?_
    | with_reducible refine (State.decideOrder_outer _ _ _).trans ?_
    | with_reducible refine (State.dispose_outer _ _ _).trans ?_
    | with_reducible refine (State.linkIdle_outer _).trans ?_
    | with_reducible refine (State.haltLink_outer _ _).trans ?_
    | with_reducible refine (State.resend_outer _ _).trans ?_
    | split)

@[simp] theorem State.mismatch_outer (s : State) (c : Context) : (State.mismatch s c).outer = s.outer := by
  simp only [State.mismatch]
  repeat (first
    | with_reducible rfl
    | with_reducible refine (State.onKlc_outer _ _).trans ?_
    | with_reducible refine (State.haltLink_outer _ _).trans ?_
    | with_reducible refine (State.resend_outer _ _).trans ?_
    | split)

@[simp] theorem State.validAnswer_outer (s : State) (station orderNumber ticketIndex : Word) (v : KitchenVerdict) :
    (State.validAnswer s station orderNumber ticketIndex v).outer = s.outer := by
  simp only [State.validAnswer]
  repeat (first
    | with_reducible rfl
    | with_reducible refine (State.onKlc_outer _ _).trans ?_
    | with_reducible refine (State.recall_outer _ _).trans ?_
    | with_reducible refine (State.linkIdle_outer _).trans ?_
    | with_reducible refine (State.ticketAccepted_outer _ _ _).trans ?_
    | with_reducible refine (State.recallAccepted_outer _ _ _).trans ?_
    | with_reducible refine (State.softFault_outer _ _ _).trans ?_
    | with_reducible refine (State.mismatch_outer _ _).trans ?_
    | split)

@[simp] theorem State.presentKlc_outer (s : State) : (State.presentKlc s).outer = s.outer := by
  simp only [State.presentKlc]
  repeat (first
    | with_reducible rfl
    | with_reducible refine (State.present_outer _ _).trans ?_
    | split)

@[simp] theorem State.finalDone_outer (s : State) (error : Bool) : (State.finalDone s error).outer = s.outer := by
  simp only [State.finalDone]
  repeat (first
    | with_reducible rfl
    | with_reducible refine (State.onKlc_outer _ _).trans ?_
    | with_reducible refine (State.setFlags_outer _ _).trans ?_
    | split)

@[simp] theorem State.kitchenClear_outer (s : State) : (State.kitchenClear s).outer = s.outer := by
  simp only [State.kitchenClear]
  repeat (first
    | with_reducible rfl
    | with_reducible refine (State.onKlc_outer _ _).trans ?_
    | with_reducible refine (State.decideOrder_outer _ _ _).trans ?_
    | with_reducible refine (State.recall_outer _ _).trans ?_
    | with_reducible refine (State.dispose_outer _ _ _).trans ?_
    | with_reducible refine (State.assemble_outer _ _).trans ?_
    | with_reducible refine (State.linkIdle_outer _).trans ?_
    | split)

@[simp] theorem State.restartKlc_outer (s : State) : (State.restartKlc s).outer = s.outer := by
  simp only [State.restartKlc]
  repeat (first
    | with_reducible rfl
    | with_reducible refine (State.onKlc_outer _ _).trans ?_
    | with_reducible refine (State.linkIdle_outer _).trans ?_
    | split)

@[simp] theorem State.onExchangeWith_outer (s : State) (r : Room) (f : Exchange → Exchange) :
    (State.onExchangeWith s r f).outer = s.outer := by
  simp only [State.onExchangeWith]
  repeat (first
    | with_reducible rfl
    | with_reducible refine (State.setLoop_outer _ _ _).trans ?_
    | split)

@[simp] theorem State.setDirty_outer (s : State) (r : Room) : (State.setDirty s r).outer = s.outer := by
  simp only [State.setDirty]
  repeat (first
    | with_reducible rfl
    | with_reducible refine (State.setPanel_outer _ _ _).trans ?_
    | with_reducible refine (State.onExchangeWith_outer _ _ _).trans ?_
    | split)

@[simp] theorem State.chimeRequest_outer (s : State) (r : Room) (c : Chime) :
    (State.chimeRequest s r c).outer = s.outer := by
  simp only [State.chimeRequest]
  repeat (first
    | with_reducible rfl
    | with_reducible refine (State.setPanel_outer _ _ _).trans ?_
    | with_reducible refine (State.onExchangeWith_outer _ _ _).trans ?_
    | with_reducible refine (State.setDirty_outer _ _).trans ?_
    | split)

@[simp] theorem State.startRound_outer (s : State) (l : LoopNo) : (State.startRound s l).outer = s.outer := by
  simp only [State.startRound]
  repeat (first
    | with_reducible rfl
    | with_reducible refine (State.setLoop_outer _ _ _).trans ?_
    | split)

@[simp] theorem State.makeFast_outer (s : State) (l : LoopNo) : (State.makeFast s l).outer = s.outer := by
  simp only [State.makeFast]
  repeat (first
    | with_reducible rfl
    | with_reducible refine (State.setLoop_outer _ _ _).trans ?_
    | split)

@[simp] theorem State.endRound_outer (s : State) (l : LoopNo) : (State.endRound s l).outer = s.outer := by
  simp only [State.endRound]
  repeat (first
    | with_reducible rfl
    | with_reducible refine (State.setLoop_outer _ _ _).trans ?_
    | with_reducible refine (State.startRound_outer _ _).trans ?_
    | split)

@[simp] theorem State.loopMinute_outer (s : State) (l : LoopNo) : (State.loopMinute s l).outer = s.outer := by
  simp only [State.loopMinute]
  repeat (first
    | with_reducible rfl
    | with_reducible refine (State.setLoop_outer _ _ _).trans ?_
    | with_reducible refine (State.makeFast_outer _ _).trans ?_
    | split)

@[simp] theorem State.pluMinute_outer (s : State) : (State.pluMinute s).outer = s.outer := by
  simp only [State.pluMinute]
  repeat (first
    | with_reducible rfl
    | with_reducible refine (State.loopMinute_outer _ _).trans ?_
    | with_reducible refine (foldl_outer _ (fun _ _ => ?_) _ _).trans ?_
    | split)

@[simp] theorem State.startLoop_outer (s : State) (l : LoopNo) : (State.startLoop s l).outer = s.outer := by
  simp only [State.startLoop]
  repeat (first
    | with_reducible rfl
    | with_reducible refine (State.setLoop_outer _ _ _).trans ?_
    | with_reducible refine (State.startRound_outer _ _).trans ?_
    | split)

@[simp] theorem State.startPanel_outer (s : State) (r : Room) : (State.startPanel s r).outer = s.outer := by
  simp only [State.startPanel]
  repeat (first
    | with_reducible rfl
    | with_reducible refine (State.setPanel_outer _ _ _).trans ?_
    | split)

@[simp] theorem State.startPlu_outer (s : State) : (State.startPlu s).outer = s.outer := by
  simp only [State.startPlu]
  repeat (first
    | with_reducible rfl
    | with_reducible refine (State.onPlu_outer _ _).trans ?_
    | with_reducible refine (State.startLoop_outer _ _).trans ?_
    | with_reducible refine (State.startPanel_outer _ _).trans ?_
    | with_reducible refine (foldl_outer _ (fun _ _ => ?_) _ _).trans ?_
    | split)

@[simp] theorem State.sendPoll_outer (s : State) (l : LoopNo) : (State.sendPoll s l).outer = s.outer := by
  simp only [State.sendPoll]
  repeat (first
    | with_reducible rfl
    | with_reducible refine (State.setLoop_outer _ _ _).trans ?_
    | split)

@[simp] theorem State.exchangeStep_outer (s : State) (l : LoopNo) (before after : ExchangeStage) :
    (State.exchangeStep s l before after).outer = s.outer := by
  simp only [State.exchangeStep]
  repeat (first
    | with_reducible rfl
    | with_reducible refine (State.setLoop_outer _ _ _).trans ?_
    | split)

@[simp] theorem State.endExchange_outer (s : State) (l : LoopNo) : (State.endExchange s l).outer = s.outer := by
  simp only [State.endExchange]
  repeat (first
    | with_reducible rfl
    | with_reducible refine (State.setLoop_outer _ _ _).trans ?_
    | split)

@[simp] theorem State.missExchange_outer (s : State) (l : LoopNo) : (State.missExchange s l).outer = s.outer := by
  simp only [State.missExchange]
  repeat (first
    | with_reducible rfl
    | with_reducible refine (State.setPanel_outer _ _ _).trans ?_
    | with_reducible refine (State.endExchange_outer _ _).trans ?_
    | split)

@[simp] theorem State.swapPositions_outer (s : State) (l : LoopNo) (a b : Nat) :
    (State.swapPositions s l a b).outer = s.outer := by
  simp only [State.swapPositions]
  repeat (first
    | with_reducible rfl
    | with_reducible refine (State.setLoop_outer _ _ _).trans ?_
    | split)

@[simp] theorem State.markUninitialised_outer (s : State) (r : Room) :
    (State.markUninitialised s r).outer = s.outer := by
  simp only [State.markUninitialised]
  repeat (first
    | with_reducible rfl
    | with_reducible refine (State.setFilter_outer _ _ _).trans ?_
    | split)

@[simp] theorem State.recompose_outer (s : State) (r : Room) : (State.recompose s r).outer = s.outer := by
  simp only [State.recompose]
  repeat (first
    | with_reducible rfl
    | with_reducible refine (State.setRoomState_outer _ _ _).trans ?_
    | with_reducible refine (State.setDirty_outer _ _).trans ?_
    | split)

@[simp] theorem State.recomposeAll_outer (s : State) : (State.recomposeAll s).outer = s.outer := by
  simp only [State.recomposeAll]
  repeat (first
    | with_reducible rfl
    | with_reducible refine (State.recompose_outer _ _).trans ?_
    | with_reducible refine (foldl_outer _ (fun _ _ => ?_) _ _).trans ?_
    | split)

@[simp] theorem State.mapBookings_outer (s : State) (r : Room) (f : PoolEntry → PoolEntry) :
    (State.mapBookings s r f).outer = s.outer := by
  simp only [State.mapBookings]
  repeat (first
    | with_reducible rfl
    | with_reducible refine (State.setEntry_outer _ _ _).trans ?_
    | with_reducible refine (foldl_outer _ (fun _ _ => ?_) _ _).trans ?_
    | split)

@[simp] theorem State.applyReport_outer (r : Room) (s : State) (t : Stamp) :
    (State.applyReport r s t).outer = s.outer := by
  simp only [State.applyReport]
  repeat (first
    | with_reducible rfl
    | with_reducible refine (State.setRoomState_outer _ _ _).trans ?_
    | with_reducible refine (State.mapBookings_outer _ _ _).trans ?_
    | split)

@[simp] theorem State.holdReport_outer (s : State) (r : Room) (t : Stamp) :
    (State.holdReport s r t).outer = s.outer := by
  simp only [State.holdReport]
  repeat (first
    | with_reducible rfl
    | with_reducible refine (State.onAtu_outer _ _).trans ?_
    | split)

@[simp] theorem State.applyReports_outer (s : State) (r : Room) : (State.applyReports s r).outer = s.outer := by
  simp only [State.applyReports]
  repeat (first
    | with_reducible rfl
    | with_reducible refine (State.onAtu_outer _ _).trans ?_
    | with_reducible refine (State.applyReport_outer _ _ _).trans ?_
    | with_reducible refine (foldl_outer _ (fun _ _ => ?_) _ _).trans ?_
    | split)

@[simp] theorem State.holdReturn_outer (s : State) (r : Room) (t : Stamp) :
    (State.holdReturn s r t).outer = s.outer := by
  simp only [State.holdReturn]
  repeat (first
    | with_reducible rfl
    | with_reducible refine (State.onAtu_outer _ _).trans ?_
    | split)

@[simp] theorem State.applyReturned_outer (r : Room) (s : State) (t : Stamp) :
    (State.applyReturned r s t).outer = s.outer := by
  simp only [State.applyReturned]
  repeat (first
    | with_reducible rfl
    | with_reducible refine (State.setFilter_outer _ _ _).trans ?_
    | with_reducible refine (State.mapBookings_outer _ _ _).trans ?_
    | split)

@[simp] theorem State.applyReturn_outer (s : State) (r : Room) : (State.applyReturn s r).outer = s.outer := by
  simp only [State.applyReturn]
  repeat (first
    | with_reducible rfl
    | with_reducible refine (State.onAtu_outer _ _).trans ?_
    | with_reducible refine (State.applyReturned_outer _ _ _).trans ?_
    | with_reducible refine (foldl_outer _ (fun _ _ => ?_) _ _).trans ?_
    | split)

@[simp] theorem State.walkOn_outer (s : State) : (State.walkOn s).outer = s.outer := by
  simp only [State.walkOn]
  repeat (first
    | with_reducible rfl
    | with_reducible refine (State.onAtu_outer _ _).trans ?_
    | split)

@[simp] theorem State.clearRefusals_outer (s : State) : (State.clearRefusals s).outer = s.outer := by
  simp only [State.clearRefusals]
  repeat (first
    | with_reducible rfl
    | with_reducible refine (State.setRoomState_outer _ _ _).trans ?_
    | with_reducible refine (foldl_outer _ (fun _ _ => ?_) _ _).trans ?_
    | split)

@[simp] theorem State.sweepRoom_outer (s : State) (r : Room) :
    (State.sweepRoom s r).outer = s.outer := by
  simp only [State.sweepRoom]
  repeat (first
    | with_reducible rfl
    | with_reducible refine (State.mapBookings_outer _ _ _).trans ?_
    | split)

@[simp] theorem State.warnRoom_outer (now : Nat) (s : State) (r : Room) :
    (State.warnRoom now s r).outer = s.outer := by
  simp only [State.warnRoom]
  repeat (first
    | with_reducible rfl
    | with_reducible refine (State.chimeRequest_outer _ _ _).trans ?_
    | split)

@[simp] theorem State.workExpiry_outer (s : State) (t : Nat) : (State.workExpiry s t).outer = s.outer := by
  simp only [State.workExpiry]
  repeat (first
    | with_reducible rfl
    | with_reducible refine (State.onAtu_outer _ _).trans ?_
    | with_reducible refine (State.recomposeAll_outer _).trans ?_
    | with_reducible refine (State.clearRefusals_outer _).trans ?_
    | with_reducible refine (State.sweepRoom_outer _ _).trans ?_
    | with_reducible refine (State.warnRoom_outer _ _ _).trans ?_
    | with_reducible refine (foldl_outer _ (fun _ _ => ?_) _ _).trans ?_
    | split)

@[simp] theorem State.workExpiries_outer (s : State) : (State.workExpiries s).outer = s.outer := by
  simp only [State.workExpiries]
  repeat (first
    | with_reducible rfl
    | with_reducible refine (State.onAtu_outer _ _).trans ?_
    | with_reducible refine (State.walkOn_outer _).trans ?_
    | with_reducible refine (State.workExpiry_outer _ _).trans ?_
    | with_reducible refine (foldl_outer _ (fun _ _ => ?_) _ _).trans ?_
    | split)

@[simp] theorem State.atuMinute_outer (s : State) : (State.atuMinute s).outer = s.outer := by
  simp only [State.atuMinute]
  repeat (first
    | with_reducible rfl
    | with_reducible refine (State.onAtu_outer _ _).trans ?_
    | with_reducible refine (State.workExpiries_outer _).trans ?_
    | split)

@[simp] theorem State.workWindows_outer (s : State) : (State.workWindows s).outer = s.outer := by
  simp only [State.workWindows]
  repeat (first
    | with_reducible rfl
    | with_reducible refine (State.onPlu_outer _ _).trans ?_
    | with_reducible refine (State.pluMinute_outer _).trans ?_
    | split)

@[simp] theorem State.startAtu_outer (s : State) : (State.startAtu s).outer = s.outer := by
  simp only [State.startAtu]
  repeat (first
    | with_reducible rfl
    | with_reducible refine (State.onAtu_outer _ _).trans ?_
    | with_reducible refine (State.recomposeAll_outer _).trans ?_
    | split)

@[simp] theorem State.applyDrafts_outer (s : State) : (State.applyDrafts s).outer = s.outer := by
  simp only [State.applyDrafts]
  repeat (first
    | with_reducible rfl
    | with_reducible refine (State.onAdu_outer _ _).trans ?_
    | with_reducible refine (foldl_outer _ (fun _ _ => ?_) _ _).trans ?_
    | split)

@[simp] theorem State.applyNotices_outer (s : State) : (State.applyNotices s).outer = s.outer := by
  simp only [State.applyNotices]
  repeat (first
    | with_reducible rfl
    | with_reducible refine (State.applyReports_outer _ _).trans ?_
    | with_reducible refine (State.applyReturn_outer _ _).trans ?_
    | with_reducible refine (State.applyDrafts_outer _).trans ?_
    | with_reducible refine (foldl_outer _ (fun _ _ => ?_) _ _).trans ?_)

@[simp] theorem State.noticesBetweenClaims_outer (s : State) : (State.noticesBetweenClaims s).outer = s.outer := by
  unfold State.noticesBetweenClaims
  split <;> simp

@[simp] theorem State.take_outer (s : State) (c : ClaimSource) : (State.take s c).outer = s.outer := by
  simp only [State.take]
  repeat (first
    | with_reducible rfl
    | with_reducible refine (State.applyNotices_outer _).trans ?_
    | with_reducible refine (State.onAdu_outer _ _).trans ?_
    | with_reducible refine (State.onBsc_outer _ _).trans ?_
    | with_reducible refine (State.onAtu_outer _ _).trans ?_
    | split)

@[simp] theorem State.endClaim_outer (s : State) : (State.endClaim s).outer = s.outer := by
  simp only [State.endClaim]
  repeat (first
    | with_reducible rfl
    | with_reducible refine (State.onAdu_outer _ _).trans ?_
    | with_reducible refine (State.applyNotices_outer _).trans ?_
    | with_reducible refine (State.walkOn_outer _).trans ?_
    | with_reducible refine (State.workExpiries_outer _).trans ?_
    | with_reducible refine (State.workWindows_outer _).trans ?_
    | split)

@[simp] theorem State.presentTail_outer (s : State) : (State.presentTail s).outer = s.outer := by
  simp only [State.presentTail]
  repeat (first
    | with_reducible rfl
    | with_reducible refine (State.present_outer _ _).trans ?_
    | split)

@[simp] theorem State.presentClaim_outer (s : State) : (State.presentClaim s).outer = s.outer := by
  simp only [State.presentClaim]
  repeat (first
    | with_reducible rfl
    | with_reducible refine (State.present_outer _ _).trans ?_
    | split)

@[simp] theorem State.leaveTail_outer (s : State) (todo : List WordWrite) (k : TailKind) :
    (State.leaveTail s todo k).outer = s.outer := by
  simp only [State.leaveTail]
  repeat (first
    | with_reducible rfl
    | with_reducible refine (State.onAdu_outer _ _).trans ?_
    | split)

@[simp] theorem State.tailDone_outer (s : State) (error : Bool) : (State.tailDone s error).outer = s.outer := by
  simp only [State.tailDone]
  repeat (first
    | with_reducible rfl
    | with_reducible refine (State.onAdu_outer _ _).trans ?_
    | with_reducible refine (State.setFlags_outer _ _).trans ?_
    | split)

@[simp] theorem State.recomposeToday_outer (s : State) (b : Book) (r : Room) :
    (State.recomposeToday s b r).outer = s.outer := by
  simp only [State.recomposeToday]
  repeat (first
    | with_reducible rfl
    | with_reducible refine (State.recompose_outer _ _).trans ?_
    | split)

@[simp] theorem State.answerPanel_outer (s : State) (r : Room) (confirmed : Bool) :
    (State.answerPanel s r confirmed).outer = s.outer := by
  simp only [State.answerPanel]
  repeat (first
    | with_reducible rfl
    | with_reducible refine (State.onAtu_outer _ _).trans ?_
    | with_reducible refine (State.setRoomState_outer _ _ _).trans ?_
    | with_reducible refine (State.chimeRequest_outer _ _ _).trans ?_
    | with_reducible refine (State.recompose_outer _ _).trans ?_
    | split)

@[simp] theorem State.beginLife_outer (s : State) (w : LifeWork) : (State.beginLife s w).outer = s.outer := by
  simp only [State.beginLife]
  repeat (first
    | with_reducible rfl
    | with_reducible refine (State.onAdu_outer _ _).trans ?_
    | split)

@[simp] theorem State.commitLife_outer (s : State) (w : LifeWork) : (State.commitLife s w).outer = s.outer := by
  simp only [State.commitLife]
  repeat (first
    | with_reducible rfl
    | with_reducible refine (State.setEntry_outer _ _ _).trans ?_
    | with_reducible refine (State.freeEntry_outer _ _).trans ?_
    | with_reducible refine (State.notices_outer _ _).trans ?_
    | split)

@[simp] theorem State.endLife_outer (s : State) (w : LifeWork) : (State.endLife s w).outer = s.outer := by
  simp only [State.endLife]
  repeat (first
    | with_reducible rfl
    | with_reducible refine (State.markChanged_outer _ _).trans ?_
    | with_reducible refine (State.endClaim_outer _).trans ?_
    | with_reducible refine (State.recomposeToday_outer _ _ _).trans ?_
    | with_reducible refine (State.answerPanel_outer _ _ _).trans ?_
    | split)

@[simp] theorem State.lifeWritten_outer (s : State) (w : LifeWork) (words todo : List WordWrite) (failed second error : Bool) :
    (State.lifeWritten s w words todo failed second error).outer = s.outer := by
  unfold State.lifeWritten
  generalize (failed || error) = f
  cases second <;> cases f <;> rcases todo.drop 1 with _ | ⟨a, _ | ⟨b, l⟩⟩ <;> simp

@[simp] theorem presentAll_outer (s : State) :
    (presentAll s).outer = s.outer := by
  simp only [presentAll]
  repeat (first
    | with_reducible rfl
    | with_reducible refine (State.presentClaim_outer _).trans ?_
    | with_reducible refine (State.presentTail_outer _).trans ?_
    | with_reducible refine (State.presentKlc_outer _).trans ?_
    | with_reducible refine (State.presentCqu_outer _).trans ?_
    | with_reducible refine (State.lookForWork_outer _).trans ?_
    | split)

@[simp] theorem settle_outer (s : State) : (settle s).outer = s.outer := presentAll_outer s

end Sys2Proof.Machine
end

