-- ==== Sys2Proof/Laws/FramesOfClaims.lean ====
section
/-! SUPPORT. What no operation of a block touches: memory, the RESET pin, the count of free values and the queue, gathered
as `State.outer`. One lemma per operation. -/

namespace Sys2Proof.Machine

@[simp] theorem State.release_outer (s : State) : (State.release s).outer = s.outer := by
  simp only [State.release]
  repeat (first
    | with_reducible rfl
    | with_reducible refine (State.present_outer _ _).trans ?_
    | with_reducible refine (State.onMps_outer _ _).trans ?_
    | with_reducible refine (State.presentTail_outer _).trans ?_
    | split)

@[simp] theorem State.drop_outer (s : State) : (State.drop s).outer = s.outer := by
  simp only [State.drop]
  repeat (first
    | with_reducible rfl
    | with_reducible refine (State.onMps_outer _ _).trans ?_
    | split)

@[simp] theorem State.endAdmission_outer (s : State) (a : Admission) (withheld confirmed : Bool) :
    (State.endAdmission s a withheld confirmed).outer = s.outer := by
  simp only [State.endAdmission]
  repeat (first
    | with_reducible rfl
    | with_reducible refine (State.endClaim_outer _).trans ?_
    | with_reducible refine (State.answerPanel_outer _ _ _).trans ?_
    | with_reducible refine (State.release_outer _).trans ?_
    | with_reducible refine (State.drop_outer _).trans ?_
    | split)

@[simp] theorem State.withhold_outer (s : State) (a : Admission) (j : Judged) (kind : Kind) :
    (State.withhold s a j kind).outer = s.outer := by
  simp only [State.withhold]
  repeat (first
    | with_reducible rfl
    | with_reducible refine (State.presentTrap_outer _ _).trans ?_
    | with_reducible refine (State.endAdmission_outer _ _ _ _).trans ?_
    | split)

@[simp] theorem State.commitRefusal_outer (s : State) (at_ : SlotRef) (r : Reason) :
    (State.commitRefusal s at_ r).outer = s.outer := by
  simp only [State.commitRefusal]
  repeat (first
    | with_reducible rfl
    | with_reducible refine (State.setEntry_outer _ _ _).trans ?_
    | split)

@[simp] theorem State.commit_outer (s : State) (a : Admission) (o : Judgement) :
    (State.commit s a o).outer = s.outer := by
  simp only [State.commit]
  repeat (first
    | with_reducible rfl
    | with_reducible refine (State.takeEntry_outer _ _).trans ?_
    | with_reducible refine (State.freeEntry_outer _ _).trans ?_
    | with_reducible refine (State.changeEntry_outer _ _ _).trans ?_
    | with_reducible refine (State.notices_outer _ _).trans ?_
    | with_reducible refine (State.commitRefusal_outer _ _ _).trans ?_
    | split)

@[simp] theorem State.reportTraps_outer (s : State) (a : Admission) (j : Judged) (interval : Nat × Nat) :
    (State.reportTraps s a j interval).outer = s.outer := by
  simp only [State.reportTraps]
  repeat (first
    | with_reducible rfl
    | with_reducible refine (State.setFlags_outer _ _).trans ?_
    | with_reducible refine (State.presentTrap_outer _ _).trans ?_
    | split)

@[simp] theorem State.finishAdmission_outer (s : State) (a : Admission) (j : Judged) (wrote : Bool) (back : List Word) :
    (State.finishAdmission s a j wrote back).outer = s.outer := by
  simp only [State.finishAdmission]
  repeat (first
    | with_reducible rfl
    | with_reducible refine (State.markChanged_outer _ _).trans ?_
    | with_reducible refine (State.recomposeToday_outer _ _ _).trans ?_
    | with_reducible refine (State.endAdmission_outer _ _ _ _).trans ?_
    | with_reducible refine (State.commit_outer _ _ _).trans ?_
    | with_reducible refine (State.reportTraps_outer _ _ _ _).trans ?_
    | split)

@[simp] theorem State.beginWriting_outer (s : State) (a : Admission) (j : Judged) (back : List Word) (second : Bool) :
    (State.beginWriting s a j back second).outer = s.outer := by
  simp only [State.beginWriting]
  repeat (first
    | with_reducible rfl
    | with_reducible refine (State.onAdu_outer _ _).trans ?_
    | with_reducible refine (State.finishAdmission_outer _ _ _ _ _).trans ?_
    | split)

@[simp] theorem State.decideAdmission_outer (s : State) (a : Admission) (p : Proposal) :
    (State.decideAdmission s a p).outer = s.outer := by
  simp only [State.decideAdmission]
  repeat (first
    | with_reducible rfl
    | with_reducible refine (State.withhold_outer _ _ _ _).trans ?_
    | with_reducible refine (State.beginWriting_outer _ _ _ _ _).trans ?_
    | split)

@[simp] theorem State.advanceAdmission_outer (s : State) (a : Admission) (got : List (Option Word)) :
    (State.advanceAdmission s a got).outer = s.outer := by
  simp only [State.advanceAdmission]
  repeat (first
    | with_reducible rfl
    | with_reducible refine (State.onAdu_outer _ _).trans ?_
    | with_reducible refine (State.decideAdmission_outer _ _ _).trans ?_
    | split)

@[simp] theorem State.voidMemory_outer (s : State) (a : Admission) (back : List Word) :
    (State.voidMemory s a back).outer = s.outer := by
  simp only [State.voidMemory]
  repeat (first
    | with_reducible rfl
    | with_reducible refine (State.finishAdmission_outer _ _ _ _ _).trans ?_
    | with_reducible refine (State.beginWriting_outer _ _ _ _ _).trans ?_
    | split)

@[simp] theorem State.presentLast_outer (s : State) (rest : List WordWrite) : (State.presentLast s rest).outer = s.outer := by
  simp [State.presentLast]

@[simp] theorem State.admissionWritten_outer (s : State) (a : Admission) (j : Judged) (back : List Word) (todo : List WordWrite) (second error : Bool) :
    (State.admissionWritten s a j back todo second error).outer = s.outer := by
  unfold State.admissionWritten
  dsimp only
  split
  · simp
  · rcases todo.drop 1 with _ | ⟨a, _ | ⟨b, l⟩⟩ <;> simp

@[simp] theorem State.backReadDone_outer (s : State) (a : Admission) (j : Judged) (got : List (Option Word)) :
    (State.backReadDone s a j got).outer = s.outer := by
  unfold State.backReadDone
  split <;> simp

theorem State.takeRequest_outer (s : State) (rk : RequestKind) (go : State → RequestClaim → State) (hg : ∀ s r, (go s r).outer = s.outer) :
    (State.takeRequest s rk go).outer = s.outer := by
  simp only [State.takeRequest]
  repeat (first
    | with_reducible rfl
    | with_reducible refine (State.take_outer _ _).trans ?_
    | with_reducible refine (hg ..).trans ?_
    | split)

@[simp] theorem State.requestNone_outer (s : State) (r : RequestClaim) : (State.requestNone s r).outer = s.outer := by
  simp only [State.requestNone]
  repeat (first
    | with_reducible rfl
    | with_reducible refine (State.setSlot_outer _ _ _).trans ?_
    | with_reducible refine (State.endClaim_outer _).trans ?_
    | with_reducible refine (State.release_outer _).trans ?_
    | split)

@[simp] theorem State.beginRequest_outer (k : AdmissionKind) (s : State) (r : RequestClaim) :
    (State.beginRequest k s r).outer = s.outer := by
  simp only [State.beginRequest]
  repeat (first
    | with_reducible rfl
    | with_reducible refine (State.advanceAdmission_outer _ _ _).trans ?_
    | split)

theorem State.takePanel_outer (s : State) (b : Button) (go : State → PanelEvent → State) (hg : ∀ s e, (go s e).outer = s.outer) :
    (State.takePanel s b go).outer = s.outer := by
  simp only [State.takePanel]
  repeat (first
    | with_reducible rfl
    | with_reducible refine (State.take_outer _ _).trans ?_
    | with_reducible refine (hg ..).trans ?_
    | split)

@[simp] theorem State.minuteReaches_outer (s : State) : (State.minuteReaches s).outer = s.outer := by
  simp only [State.minuteReaches]
  repeat (first
    | with_reducible rfl
    | with_reducible refine (State.noticesBetweenClaims_outer _).trans ?_
    | with_reducible refine (State.onPlu_outer _ _).trans ?_
    | with_reducible refine (State.cateringMinute_outer _).trans ?_
    | with_reducible refine (State.atuMinute_outer _).trans ?_
    | with_reducible refine (State.workWindows_outer _).trans ?_
    | split)

@[simp] theorem State.minuteExpiry_outer (s : State) : (State.minuteExpiry s).outer = s.outer := by
  simp only [State.minuteExpiry]
  repeat (first
    | with_reducible rfl
    | with_reducible refine (State.onClock_outer _ _).trans ?_
    | with_reducible refine (State.minuteReaches_outer _).trans ?_
    | split)

@[simp] theorem State.dayEndActs_outer (s : State) : (State.dayEndActs s).outer = s.outer := by
  simp only [State.dayEndActs]
  repeat (first
    | with_reducible rfl
    | with_reducible refine (State.noticesBetweenClaims_outer _).trans ?_
    | with_reducible refine (State.onClock_outer _ _).trans ?_
    | with_reducible refine (State.onBsc_outer _ _).trans ?_
    | with_reducible refine (State.dayClose_outer _ _).trans ?_
    | split)

@[simp] theorem State.dayEndExpiry_outer (s : State) : (State.dayEndExpiry s).outer = s.outer := by
  simp only [State.dayEndExpiry]
  repeat (first
    | with_reducible rfl
    | with_reducible refine (State.onClock_outer _ _).trans ?_
    | with_reducible refine (State.dayEndActs_outer _).trans ?_
    | split)

@[simp] theorem State.carry_outer (s : State) : (State.carry s).outer = s.outer := by
  simp only [State.carry]
  repeat (first
    | with_reducible rfl
    | with_reducible refine (State.onClock_outer _ _).trans ?_
    | with_reducible refine (State.minuteExpiry_outer _).trans ?_
    | with_reducible refine (State.dayEndExpiry_outer _).trans ?_
    | split)

@[simp] theorem State.pulse_outer (s : State) : (State.pulse s).outer = s.outer := by
  simp only [State.pulse]
  repeat (first
    | with_reducible rfl
    | with_reducible refine (State.onClock_outer _ _).trans ?_
    | with_reducible refine (State.carry_outer _).trans ?_
    | split)

@[simp] theorem State.takeDeferred_outer (s : State) : (State.takeDeferred s).outer = s.outer := by
  simp only [State.takeDeferred]
  repeat (first
    | with_reducible rfl
    | with_reducible refine (State.onClock_outer _ _).trans ?_
    | with_reducible refine (State.minuteReaches_outer _).trans ?_
    | with_reducible refine (State.dayEndActs_outer _).trans ?_
    | split)

@[simp] theorem State.passEnd_outer (s : State) : (State.passEnd s).outer = s.outer := by
  simp only [State.passEnd]
  repeat (first
    | with_reducible rfl
    | with_reducible refine (State.onCtu_outer _ _).trans ?_
    | with_reducible refine (State.onClock_outer _ _).trans ?_
    | with_reducible refine (State.onBsc_outer _ _).trans ?_
    | with_reducible refine (State.raiseScan_outer _).trans ?_
    | with_reducible refine (State.dayEndActs_outer _).trans ?_
    | with_reducible refine (State.takeDeferred_outer _).trans ?_
    | split)

@[simp] theorem State.visitEnded_outer (s : State) : (State.visitEnded s).outer = s.outer := by
  unfold State.visitEnded
  dsimp only
  split <;> simp

@[simp] theorem State.visitWritten_outer (s : State) (todo : List WordWrite) (again : List WordWrite → Claim) :
    (State.visitWritten s todo again).outer = s.outer := by
  unfold State.visitWritten
  rcases todo.drop 1 with _ | ⟨a, _ | ⟨b, l⟩⟩ <;> simp

@[simp] theorem State.clearSlot_outer (s : State) (r : SlotRef) : (State.clearSlot s r).outer = s.outer := by
  simp only [State.clearSlot]
  repeat (first
    | with_reducible rfl
    | with_reducible refine (State.setSlot_outer _ _ _).trans ?_
    | split)

@[simp] theorem State.beginClean_outer (s : State) : (State.beginClean s).outer = s.outer := by
  simp only [State.beginClean]
  repeat (first
    | with_reducible rfl
    | with_reducible refine (State.onAdu_outer _ _).trans ?_
    | with_reducible refine (State.clearSlot_outer _ _).trans ?_
    | split)

@[simp] theorem State.turnoverFree_outer (s : State) (r : SlotRef) : (State.turnoverFree s r).outer = s.outer := by
  simp only [State.turnoverFree]
  repeat (first
    | with_reducible rfl
    | with_reducible refine (State.freeEntry_outer _ _).trans ?_
    | with_reducible refine (State.markChanged_outer _ _).trans ?_
    | with_reducible refine (State.notices_outer _ _).trans ?_
    | split)

@[simp] theorem State.beginTurnover_outer (s : State) : (State.beginTurnover s).outer = s.outer := by
  simp only [State.beginTurnover]
  repeat (first
    | with_reducible rfl
    | with_reducible refine (State.onAdu_outer _ _).trans ?_
    | with_reducible refine (State.turnoverFree_outer _ _).trans ?_
    | split)

@[simp] theorem State.openTurnover_outer (s : State) : (State.openTurnover s).outer = s.outer := by
  simp only [State.openTurnover]
  repeat (first
    | with_reducible rfl
    | with_reducible refine (State.onAdu_outer _ _).trans ?_
    | with_reducible refine (State.onBsc_outer _ _).trans ?_
    | with_reducible refine (State.endClaim_outer _).trans ?_
    | split)

@[simp] theorem State.endKeep_outer (s : State) (r : SlotRef) (rebuilt : Bool) :
    (State.endKeep s r rebuilt).outer = s.outer := by
  simp only [State.endKeep]
  repeat (first
    | with_reducible rfl
    | with_reducible refine (State.recomposeToday_outer _ _ _).trans ?_
    | with_reducible refine (State.visitEnded_outer _).trans ?_
    | split)

@[simp] theorem State.keepWrite_outer (s : State) (r : SlotRef) (rebuilt : Bool) (l : List WordWrite) :
    (State.keepWrite s r rebuilt l).outer = s.outer := by
  simp only [State.keepWrite]
  repeat (first
    | with_reducible rfl
    | with_reducible refine (State.onAdu_outer _ _).trans ?_
    | with_reducible refine (State.markChanged_outer _ _).trans ?_
    | split)

theorem State.handOver_outer (s : State) (o : OrderIx) (fate : Fate) (st : Option OrderState) (resend : Bool)
    (e : OrderEntry) : (s.handOver o fate st resend e).1.outer = s.outer := by
  unfold State.handOver
  dsimp only
  split
  · rfl
  · rcases fate with _ | _ | _ <;> rcases st with _ | (_ | _ | _ | _ | _ | _ | _ | _ | _ | _) <;>
      (try dsimp only) <;> (try split) <;> simp

theorem State.keepHandOver_outer (s : State) (r : SlotRef) (t : Taken) (k : KeepReads) (j : KeepJudgement) :
    (s.keepHandOver r t k j).1.outer = s.outer := by
  unfold State.keepHandOver
  split
  · rfl
  · dsimp only
    split
    · rfl
    · exact State.handOver_outer ..

@[simp] theorem State.judgeKeep_outer (s : State) (r : SlotRef) (t : Taken) (k : KeepReads) :
    (State.judgeKeep s r t k).outer = s.outer := by
  have h : ∀ j, (s.keepHandOver r t k j).1.outer = s.outer := State.keepHandOver_outer s r t k
  simp only [State.judgeKeep]
  split
  · simp
  · split <;> (try split) <;> simp [h]

@[simp] theorem State.advanceKeep_outer (s : State) (r : SlotRef) (t : Taken) (got : List (Option Word)) :
    (State.advanceKeep s r t got).outer = s.outer := by
  simp only [State.advanceKeep]
  repeat (first
    | with_reducible rfl
    | with_reducible refine (State.onAdu_outer _ _).trans ?_
    | with_reducible refine (State.judgeKeep_outer _ _ _ _).trans ?_
    | split)

@[simp] theorem State.keepReadDone_outer (s : State) (r : SlotRef) (t : Taken) (got : List (Option Word)) (data : Word) (error : Bool) :
    (State.keepReadDone s r t got data error).outer = s.outer := by
  simp only [State.keepReadDone]
  repeat (first
    | with_reducible rfl
    | with_reducible refine (State.advanceKeep_outer _ _ _ _).trans ?_
    | with_reducible refine (State.setFlags_outer _ _).trans ?_
    | with_reducible refine (State.keepWrite_outer _ _ _ _).trans ?_
    | split)

@[simp] theorem State.beginKeep_outer (s : State) : (State.beginKeep s).outer = s.outer := by
  simp only [State.beginKeep]
  repeat (first
    | with_reducible rfl
    | with_reducible refine (State.onAdu_outer _ _).trans ?_
    | split)

@[simp] theorem State.claimAccessDone_outer (s : State) (data : Word) (error : Bool) :
    (State.claimAccessDone s data error).outer = s.outer := by
  unfold State.claimAccessDone
  split
  · rfl
  · split <;> (try dsimp only) <;> (try split) <;> (try split) <;> simp

theorem State.takeVisit_outer (s : State) (pass : PassKind) (opening : Bool) (go : State → State) (hg : ∀ s, (go s).outer = s.outer) :
    (State.takeVisit s pass opening go).outer = s.outer := by
  simp only [State.takeVisit]
  repeat (first
    | with_reducible rfl
    | with_reducible refine (State.take_outer _ _).trans ?_
    | with_reducible refine (hg ..).trans ?_
    | split)

@[simp] theorem State.beginMinute_outer (s : State) (c : MinuteClaim) : (State.beginMinute s c).outer = s.outer := by
  simp only [State.beginMinute]
  repeat (first
    | with_reducible rfl
    | with_reducible refine (State.endClaim_outer _).trans ?_
    | with_reducible refine (State.beginLife_outer _ _).trans ?_
    | split)

@[simp] theorem State.takeMinute_outer (s : State) (rows : List WalkRow) :
    (State.takeMinute s rows).outer = s.outer := by
  simp only [State.takeMinute]
  repeat (first
    | with_reducible rfl
    | with_reducible refine (State.take_outer _ _).trans ?_
    | with_reducible refine (State.beginMinute_outer _ _).trans ?_
    | split)

@[simp] theorem State.takeEvent_outer (s : State) : (State.takeEvent s).outer = s.outer := by
  simp only [State.takeEvent]
  repeat (first
    | with_reducible rfl
    | with_reducible refine (State.onPlu_outer _ _).trans ?_
    | with_reducible refine (State.onAtu_outer _ _).trans ?_
    | split)

@[simp] theorem State.beginPanelLife_outer (s : State) (b : Nat × PoolEntry) (change : LifeChange) :
    (State.beginPanelLife s b change).outer = s.outer := by
  simp only [State.beginPanelLife]
  repeat (first
    | with_reducible rfl
    | with_reducible refine (State.beginLife_outer _ _).trans ?_
    | split)

@[simp] theorem State.beginCheckin_outer (s : State) (ev : PanelEvent) :
    (State.beginCheckin s ev).outer = s.outer := by
  simp only [State.beginCheckin]
  repeat (first
    | with_reducible rfl
    | with_reducible refine (State.endClaim_outer _).trans ?_
    | with_reducible refine (State.answerPanel_outer _ _ _).trans ?_
    | with_reducible refine (State.beginPanelLife_outer _ _ _).trans ?_
    | split)

@[simp] theorem State.beginEnd_outer (s : State) (ev : PanelEvent) : (State.beginEnd s ev).outer = s.outer := by
  simp only [State.beginEnd]
  repeat (first
    | with_reducible rfl
    | with_reducible refine (State.endClaim_outer _).trans ?_
    | with_reducible refine (State.answerPanel_outer _ _ _).trans ?_
    | with_reducible refine (State.beginPanelLife_outer _ _ _).trans ?_
    | split)

@[simp] theorem State.draftNotice_outer (s : State) (r : SlotRef) : (State.draftNotice s r).outer = s.outer := by
  simp only [State.draftNotice]
  repeat (first
    | with_reducible rfl
    | with_reducible refine (State.onAdu_outer _ _).trans ?_
    | split)

@[simp] theorem State.linkGood_outer (s : State) (r : Room) : (State.linkGood s r).outer = s.outer := by
  simp only [State.linkGood]
  repeat (first
    | with_reducible rfl
    | with_reducible refine (State.setPanel_outer _ _ _).trans ?_
    | with_reducible refine (State.setDirty_outer _ _).trans ?_
    | with_reducible refine (State.markUninitialised_outer _ _).trans ?_
    | with_reducible refine (State.holdReturn_outer _ _ _).trans ?_
    | split)

@[simp] theorem State.settleMarks_outer (s : State) (l : LoopNo) (r : Room) :
    (State.settleMarks s l r).outer = s.outer := by
  simp only [State.settleMarks]
  repeat (first
    | with_reducible rfl
    | with_reducible refine (State.setPanel_outer _ _ _).trans ?_
    | split)

@[simp] theorem State.takeSample_outer (s : State) (r : Room) (count : Nat) :
    (State.takeSample s r count).outer = s.outer := by
  simp only [State.takeSample]
  repeat (first
    | with_reducible rfl
    | with_reducible refine (State.setFilter_outer _ _ _).trans ?_
    | with_reducible refine (State.present_outer _ _).trans ?_
    | with_reducible refine (State.makeFast_outer _ _).trans ?_
    | with_reducible refine (State.holdReport_outer _ _ _).trans ?_
    | split)

@[simp] theorem State.handCount_outer (s : State) (r : Room) (page : Bool) (count : Nat) :
    (State.handCount s r page count).outer = s.outer := by
  simp only [State.handCount]
  repeat (first
    | with_reducible rfl
    | with_reducible refine (State.takeSample_outer _ _ _).trans ?_
    | split)

@[simp] theorem State.buttonEvent_outer (s : State) (l : LoopNo) (r : Room) (b : Button) (arg : Nat) (tag : BitVec 3) :
    (State.buttonEvent s l r b arg tag).outer = s.outer := by
  simp only [State.buttonEvent]
  repeat (first
    | with_reducible rfl
    | with_reducible refine (State.onPlu_outer _ _).trans ?_
    | with_reducible refine (State.setPanel_outer _ _ _).trans ?_
    | with_reducible refine (State.makeFast_outer _ _).trans ?_
    | split)

@[simp] theorem State.goodReply_outer (s : State) (l : LoopNo) (x : Exchange) (bs : List Byte) :
    (State.goodReply s l x bs).outer = s.outer := by
  simp only [State.goodReply]
  repeat (first
    | with_reducible rfl
    | with_reducible refine (settle_outer _).trans ?_
    | with_reducible refine (State.linkGood_outer _ _).trans ?_
    | with_reducible refine (State.settleMarks_outer _ _ _).trans ?_
    | with_reducible refine (State.handCount_outer _ _ _ _).trans ?_
    | with_reducible refine (State.buttonEvent_outer _ _ _ _ _ _).trans ?_
    | split)

@[simp] theorem State.reply_outer (s : State) (l : LoopNo) (bs : List Byte) :
    (State.reply s l bs).outer = s.outer := by
  simp only [State.reply]
  repeat (first
    | with_reducible rfl
    | with_reducible refine (State.endExchange_outer _ _).trans ?_
    | with_reducible refine (State.missExchange_outer _ _).trans ?_
    | with_reducible refine (State.goodReply_outer _ _ _ _).trans ?_
    | split)

@[simp] theorem State.restart_outer (s : State) : (State.restart s).outer = s.outer := by
  have h := State.restartKlc_outer s
  unfold State.restart
  exact h

@[simp] theorem State.loadClock_outer (s : State) (w : Word) : (State.loadClock s w).outer = s.outer := by
  simp only [State.loadClock]
  repeat (first
    | with_reducible rfl
    | with_reducible refine (State.onCtu_outer _ _).trans ?_
    | with_reducible refine (State.onClock_outer _ _).trans ?_
    | split)

@[simp] theorem State.loadBank_outer (s : State) (w : Word) : (State.loadBank s w).outer = s.outer := by
  simp only [State.loadBank]
  repeat (first
    | with_reducible rfl
    | with_reducible refine (State.onClock_outer _ _).trans ?_
    | split)

@[simp] theorem State.storeSetting_outer (s : State) (n : Nat) (data : Word) (lanes : Lanes) :
    (State.storeSetting s n data lanes).outer = s.outer := by
  simp only [State.storeSetting]
  repeat (first
    | with_reducible rfl
    | with_reducible refine (State.onCtu_outer _ _).trans ?_
    | with_reducible refine (State.loadClock_outer _ _).trans ?_
    | with_reducible refine (State.loadBank_outer _ _).trans ?_
    | split)

@[simp] theorem State.setCommand_outer (s : State) (w : Word) (st : CommandStatus) (r : CommandReason) :
    (State.setCommand s w st r).outer = s.outer := by
  simp only [State.setCommand]
  repeat (first
    | with_reducible rfl
    | with_reducible refine (State.onCtu_outer _ _).trans ?_
    | split)

@[simp] theorem State.start_outer (s : State) (k : StartKind) : (State.start s k).outer = s.outer := by
  simp only [State.start]
  repeat (first
    | with_reducible rfl
    | with_reducible refine (State.onMps_outer _ _).trans ?_
    | with_reducible refine (State.onCtu_outer _ _).trans ?_
    | with_reducible refine (State.onClock_outer _ _).trans ?_
    | with_reducible refine (State.onBsc_outer _ _).trans ?_
    | with_reducible refine (State.onOcf_outer _ _).trans ?_
    | with_reducible refine (State.startPlu_outer _).trans ?_
    | with_reducible refine (State.startAtu_outer _).trans ?_
    | split)

@[simp] theorem State.rebase_outer (s : State) (w : Word) : (State.rebase s w).outer = s.outer := by
  simp only [State.rebase]
  repeat (first
    | with_reducible rfl
    | with_reducible refine (State.markUninitialised_outer _ _).trans ?_
    | with_reducible refine (foldl_outer _ (fun _ _ => ?_) _ _).trans ?_
    | split)

@[simp] theorem State.carryOut_outer (s : State) (c : CommandCode) (w : Word) :
    (State.carryOut s c w).outer = s.outer := by
  simp only [State.carryOut]
  repeat (first
    | with_reducible rfl
    | with_reducible refine (State.kitchenClear_outer _).trans ?_
    | with_reducible refine (State.swapPositions_outer _ _ _ _).trans ?_
    | with_reducible refine (State.restart_outer _).trans ?_
    | with_reducible refine (State.start_outer _ _).trans ?_
    | with_reducible refine (State.rebase_outer _ _).trans ?_
    | split)

@[simp] theorem State.commandWrite_outer (s : State) (w : Word) : (State.commandWrite s w).outer = s.outer := by
  simp only [State.commandWrite]
  repeat (first
    | with_reducible rfl
    | with_reducible refine (State.setCommand_outer _ _ _ _).trans ?_
    | with_reducible refine (State.carryOut_outer _ _ _).trans ?_
    | split)

@[simp] theorem State.trapTaken_outer (s : State) : (State.trapTaken s).outer = s.outer := by
  simp only [State.trapTaken]
  repeat (first
    | with_reducible rfl
    | with_reducible refine (State.onCtu_outer _ _).trans ?_
    | split)

@[simp] theorem State.clearCauses_outer (s : State) (w : Word) : (State.clearCauses s w).outer = s.outer := by
  simp only [State.clearCauses]
  repeat (first
    | with_reducible rfl
    | with_reducible refine (State.onCtu_outer _ _).trans ?_
    | split)

@[simp] theorem State.act_outer (s : State) (n : Nat) (w : Word) : (State.act s n w).outer = s.outer := by
  simp only [State.act]
  repeat (first
    | with_reducible rfl
    | with_reducible refine (State.clearFlags_outer _ _).trans ?_
    | with_reducible refine (State.commandWrite_outer _ _).trans ?_
    | with_reducible refine (State.trapTaken_outer _).trans ?_
    | with_reducible refine (State.clearCauses_outer _ _).trans ?_
    | split)

@[simp] theorem State.frameSent_outer (s : State) : (State.frameSent s).outer = s.outer := by
  simp only [State.frameSent]
  repeat (first
    | with_reducible rfl
    | with_reducible refine (State.onKlc_outer _ _).trans ?_
    | split)

@[simp] theorem State.kitchenAnswer_outer (s : State) (sync station orderNumber ticketIndex verdict checksum : Word) :
    (State.kitchenAnswer s sync station orderNumber ticketIndex verdict checksum).outer = s.outer := by
  simp only [State.kitchenAnswer]
  repeat (first
    | with_reducible rfl
    | with_reducible refine (State.validAnswer_outer _ _ _ _ _).trans ?_
    | split)

@[simp] theorem State.frameResend_outer (s : State) : (State.frameResend s).outer = s.outer := by
  simp only [State.frameResend]
  repeat (first
    | with_reducible rfl
    | with_reducible refine (State.onKlc_outer _ _).trans ?_
    | split)

@[simp] theorem State.answerWaitExpiry_outer (s : State) : (State.answerWaitExpiry s).outer = s.outer := by
  simp only [State.answerWaitExpiry]
  repeat (first
    | with_reducible rfl
    | with_reducible refine (State.onKlc_outer _ _).trans ?_
    | with_reducible refine (State.linkIdle_outer _).trans ?_
    | with_reducible refine (State.haltLink_outer _ _).trans ?_
    | split)

@[simp] theorem State.nextFrameGapEnd_outer (s : State) : (State.nextFrameGapEnd s).outer = s.outer := by
  simp only [State.nextFrameGapEnd]
  repeat (first
    | with_reducible rfl
    | with_reducible refine (State.onKlc_outer _ _).trans ?_
    | split)

@[simp] theorem State.toMemory_outer (s : State) (a : HostAccess) : (State.toMemory s a).outer = s.outer := by
  simp only [State.toMemory]
  repeat (first
    | with_reducible rfl
    | with_reducible refine (State.onMps_outer _ _).trans ?_
    | with_reducible refine (State.present_outer _ _).trans ?_
    | split)

@[simp] theorem State.completeHost_outer (s : State) (data : Option Word) (error : Bool) :
    (State.completeHost s data error).outer = s.outer := by
  simp only [State.completeHost]
  repeat (first
    | with_reducible rfl
    | with_reducible refine (State.onMps_outer _ _).trans ?_
    | split)

@[simp] theorem State.withholdWrite_outer (s : State) : (State.withholdWrite s).outer = s.outer := by
  simp only [State.withholdWrite]
  repeat (first
    | with_reducible rfl
    | with_reducible refine (State.setFlags_outer _ _).trans ?_
    | with_reducible refine (State.completeHost_outer _ _ _).trans ?_
    | split)

@[simp] theorem State.readControl_outer (s : State) (n : Nat) (lanes : Lanes) :
    (State.readControl s n lanes).outer = s.outer := by
  simp only [State.readControl]
  repeat (first
    | with_reducible rfl
    | with_reducible refine (State.onCtu_outer _ _).trans ?_
    | with_reducible refine (State.completeHost_outer _ _ _).trans ?_
    | split)

@[simp] theorem State.writeControl_outer (s : State) (n : Nat) (a : HostAccess) :
    (State.writeControl s n a).outer = s.outer := by
  simp only [State.writeControl]
  repeat (first
    | with_reducible rfl
    | with_reducible refine (State.setFlags_outer _ _).trans ?_
    | with_reducible refine (State.storeSetting_outer _ _ _ _).trans ?_
    | with_reducible refine (State.act_outer _ _ _).trans ?_
    | with_reducible refine (State.toMemory_outer _ _).trans ?_
    | with_reducible refine (State.withholdWrite_outer _).trans ?_
    | split)

@[simp] theorem State.noteDraft_outer (s : State) (r : SlotRef) : (State.noteDraft s r).outer = s.outer := by
  simp only [State.noteDraft]
  repeat (first
    | with_reducible rfl
    | with_reducible refine (State.onAdu_outer _ _).trans ?_
    | split)

@[simp] theorem State.holdRequest_outer (s : State) (r : SlotRef) (a : HostAccess) :
    (State.holdRequest s r a).outer = s.outer := by
  simp only [State.holdRequest]
  repeat (first
    | with_reducible rfl
    | with_reducible refine (State.onMps_outer _ _).trans ?_
    | with_reducible refine (State.onAdu_outer _ _).trans ?_
    | split)

@[simp] theorem State.writeSlot_outer (s : State) (r : SlotRef) (n : Nat) (a : HostAccess) :
    (State.writeSlot s r n a).outer = s.outer := by
  simp only [State.writeSlot]
  repeat (first
    | with_reducible rfl
    | with_reducible refine (State.setFlags_outer _ _).trans ?_
    | with_reducible refine (State.toMemory_outer _ _).trans ?_
    | with_reducible refine (State.withholdWrite_outer _).trans ?_
    | with_reducible refine (State.noteDraft_outer _ _).trans ?_
    | with_reducible refine (State.holdRequest_outer _ _ _).trans ?_
    | split)

@[simp] theorem State.writeOrder_outer (s : State) (o : OrderIx) (n : Nat) (a : HostAccess) :
    (State.writeOrder s o n a).outer = s.outer := by
  simp only [State.writeOrder]
  repeat (first
    | with_reducible rfl
    | with_reducible refine (State.toMemory_outer _ _).trans ?_
    | with_reducible refine (State.withholdWrite_outer _).trans ?_
    | split)

@[simp] theorem State.captureLine_outer (s : State) (r : Room) (n : Nat) (data : Word) (lanes : Lanes) :
    (State.captureLine s r n data lanes).outer = s.outer := by
  simp only [State.captureLine]
  repeat (first
    | with_reducible rfl
    | with_reducible refine (State.setPanel_outer _ _ _).trans ?_
    | with_reducible refine (State.setDirty_outer _ _).trans ?_
    | split)

@[simp] theorem State.writePage_outer (s : State) (r : Room) (n : Nat) (a : HostAccess) :
    (State.writePage s r n a).outer = s.outer := by
  simp only [State.writePage]
  repeat (first
    | with_reducible rfl
    | with_reducible refine (State.toMemory_outer _ _).trans ?_
    | with_reducible refine (State.captureLine_outer _ _ _ _ _).trans ?_
    | split)

@[simp] theorem State.captureDirectory_outer (s : State) (r : Room) (n : Nat) (data : Word) (lanes : Lanes) :
    (State.captureDirectory s r n data lanes).outer = s.outer := by
  simp only [State.captureDirectory]
  repeat (first
    | with_reducible rfl
    | with_reducible refine (State.onCtu_outer _ _).trans ?_
    | split)

@[simp] theorem State.hostWrite_outer (s : State) (a : HostAccess) : (State.hostWrite s a).outer = s.outer := by
  simp only [State.hostWrite]
  repeat (first
    | with_reducible rfl
    | with_reducible refine (State.toMemory_outer _ _).trans ?_
    | with_reducible refine (State.withholdWrite_outer _).trans ?_
    | with_reducible refine (State.writeControl_outer _ _ _).trans ?_
    | with_reducible refine (State.writeSlot_outer _ _ _ _).trans ?_
    | with_reducible refine (State.writeOrder_outer _ _ _ _).trans ?_
    | with_reducible refine (State.writePage_outer _ _ _ _).trans ?_
    | with_reducible refine (State.captureDirectory_outer _ _ _ _ _).trans ?_
    | split)

@[simp] theorem State.hostRead_outer (s : State) (a : HostAccess) : (State.hostRead s a).outer = s.outer := by
  simp only [State.hostRead]
  repeat (first
    | with_reducible rfl
    | with_reducible refine (State.toMemory_outer _ _).trans ?_
    | with_reducible refine (State.completeHost_outer _ _ _).trans ?_
    | with_reducible refine (State.readControl_outer _ _ _).trans ?_
    | split)

@[simp] theorem State.hostTreat_outer (s : State) (a : HostAccess) : (State.hostTreat s a).outer = s.outer := by
  simp only [State.hostTreat]
  repeat (first
    | with_reducible rfl
    | with_reducible refine (State.hostWrite_outer _ _).trans ?_
    | with_reducible refine (State.hostRead_outer _ _).trans ?_
    | split)

@[simp] theorem State.deliver_outer (s : State) (a : Access) (data : Word) (error : Bool) :
    (State.deliver s a data error).outer = s.outer := by
  simp only [State.deliver]
  repeat (first
    | with_reducible rfl
    | with_reducible refine (State.onMps_outer _ _).trans ?_
    | with_reducible refine (State.cquDone_outer _ _).trans ?_
    | with_reducible refine (State.setFlags_outer _ _).trans ?_
    | with_reducible refine (State.assemblyRead_outer _ _ _).trans ?_
    | with_reducible refine (State.finalDone_outer _ _).trans ?_
    | with_reducible refine (State.tailDone_outer _ _).trans ?_
    | with_reducible refine (State.claimAccessDone_outer _ _ _).trans ?_
    | with_reducible refine (State.completeHost_outer _ _ _).trans ?_
    | split)

end Sys2Proof.Machine
end

