-- ==== Sys2Proof/Laws/Lines.lean ====
section
/-! SUPPORT. Bytes on the serial lines (R113, R169): ten symbols a byte, four bytes a word, and when a line is driven. -/

namespace Sys2Proof.Machine

@[simp] theorem serialByte_length (b : Byte) : (serialByte b).length = 10 := by
  simp [serialByte]

@[simp] theorem serial_nil : serial [] = [] := rfl

@[simp] theorem serial_cons (b : Byte) (bs : List Byte) : serial (b :: bs) = serialByte b ++ serial bs := rfl

/-- A line carries ten symbols for each byte. -/
@[simp] theorem serial_length (bs : List Byte) : (serial bs).length = 10 * bs.length := by
  induction bs with
  | nil => rfl
  | cons b t ih =>
    rw [serial_cons, List.length_append, serialByte_length, ih, List.length_cons]
    omega

@[simp] theorem wordBytes_length (w : Word) : (wordBytes w).length = 4 := rfl

/-- The kitchen line is driven exactly while a frame is on the wire. -/
theorem Klc.line_isSome (k : Klc) : k.line.isSome = true ↔ k.stage = .onWire := by
  unfold Klc.line
  split <;> simp_all

/-- The part drives a loop's line exactly while a poll is being sent. -/
theorem Loop.line_isSome (lp : Loop) : lp.line.isSome = true ↔ ∃ x, lp.exchange = some x ∧ x.stage = .sending := by
  unfold Loop.line
  split
  · simp_all
  · split <;> simp_all

end Sys2Proof.Machine
end

