-- ==== Sys2Proof/Laws/Orders.lean ====
section
/-! SUPPORT. Where an order stands (R157): what taking an order out of its place, placing it in the Catering Queue and
appending it to the Recall List do to the queue, the list and the in-flight context; what deciding an entry does (R156). -/

namespace Sys2Proof.Machine

@[simp] theorem Klc.dropContext_context (k : Klc) : k.dropContext.context = none := by
  unfold Klc.dropContext
  split <;> rfl

@[simp] theorem Klc.dropContext_residue (k : Klc) : k.dropContext.residue = k.residue := by
  unfold Klc.dropContext
  split <;> rfl

@[simp] theorem Klc.dropContext_buffer (k : Klc) : k.dropContext.buffer = k.buffer := by
  unfold Klc.dropContext
  split <;> rfl

/-- An order that the context does not name leaves it untouched. -/
theorem State.leaveContext_of_ne (s : State) (o : OrderIx) (h : s.klc.context.map (·.order) ≠ some o) :
    s.leaveContext o = s := by
  unfold State.leaveContext
  rw [if_neg h]

/-- The context does not name an order that has left it. -/
theorem State.leaveContext_ne (s : State) (o : OrderIx) : (s.leaveContext o).klc.context.map (·.order) ≠ some o := by
  unfold State.leaveContext
  split
  · simp
  · assumption

@[simp] theorem State.leaveContext_cqu (s : State) (o : OrderIx) : (s.leaveContext o).cqu = s.cqu := by
  unfold State.leaveContext
  split <;> rfl

@[simp] theorem State.unplace_queue (s : State) (o : OrderIx) :
    (s.unplace o).cqu.queue = s.cqu.queue.filter (· != o) := by
  unfold State.unplace
  rw [State.leaveContext_cqu]
  rfl

@[simp] theorem State.unplace_recalls (s : State) (o : OrderIx) :
    (s.unplace o).cqu.recalls = s.cqu.recalls.filter (· != o) := by
  unfold State.unplace
  rw [State.leaveContext_cqu]
  rfl

@[simp] theorem State.unplace_entries (s : State) (o : OrderIx) : (s.unplace o).cqu.entries = s.cqu.entries := by
  unfold State.unplace
  rw [State.leaveContext_cqu]
  rfl

/-- An order that has been taken out of its place stands nowhere (R157). -/
theorem State.unplace_nowhere (s : State) (o : OrderIx) :
    o ∉ (s.unplace o).cqu.queue ∧ o ∉ (s.unplace o).cqu.recalls
      ∧ (s.unplace o).klc.context.map (·.order) ≠ some o := by
  refine ⟨by simp, by simp, ?_⟩
  unfold State.unplace
  exact State.leaveContext_ne _ _

/-- Inserting by due minute adds the order once. -/
theorem insertByDue_perm (due : OrderIx → Nat) (o : OrderIx) (l : List OrderIx) :
    (insertByDue due o l).Perm (o :: l) := by
  induction l with
  | nil => exact List.Perm.refl _
  | cons p t ih =>
    unfold insertByDue
    split
    · exact List.Perm.refl _
    · exact (ih.cons p).trans (List.Perm.swap o p t)

/-- The Catering Queue after an order has been placed in it (R159). -/
@[simp] theorem State.enqueue_queue (s : State) (o : OrderIx) :
    (s.enqueue o).cqu.queue = insertByDue s.dueOf o (s.cqu.queue.filter (· != o)) := by
  have h : (s.unplace o).dueOf = s.dueOf := by
    funext q
    unfold State.dueOf State.orderEntry
    rw [State.unplace_entries]
  unfold State.enqueue
  rw [← h, ← State.unplace_queue]
  rfl

@[simp] theorem State.enqueue_recalls (s : State) (o : OrderIx) :
    (s.enqueue o).cqu.recalls = s.cqu.recalls.filter (· != o) :=
  State.unplace_recalls s o

/-- The Recall List after an order has been appended to it (R164). -/
@[simp] theorem State.recall_recalls (s : State) (o : OrderIx) :
    (s.recall o).cqu.recalls = s.cqu.recalls.filter (· != o) ++ [o] := by
  rw [← State.unplace_recalls]
  rfl

@[simp] theorem State.recall_queue (s : State) (o : OrderIx) :
    (s.recall o).cqu.queue = s.cqu.queue.filter (· != o) :=
  State.unplace_queue s o

/-- The order of the Catering Queue is transitive. -/
theorem DueBefore.trans {due : OrderIx → Nat} {p q r : OrderIx} (h : DueBefore due p q) (h' : DueBefore due q r) :
    DueBefore due p r := by
  simp only [DueBefore, Fin.lt_def] at *
  omega

/-- Of two orders one comes before the other. -/
theorem DueBefore.of_not {due : OrderIx → Nat} {p q : OrderIx} (hne : p ≠ q) (h : ¬ DueBefore due p q) :
    DueBefore due q p := by
  have := Fin.val_ne_of_ne hne
  simp only [DueBefore, Fin.lt_def] at *
  omega

/-- Inserting by due minute places the order where its due minute and index say, and keeps a list in order (R159). -/
theorem insertByDue_placed (due : OrderIx → Nat) (o : OrderIx) (l : List OrderIx) (h : o ∉ l) :
    PlacedByDue due o (insertByDue due o l) l := by
  induction l with
  | nil => exact ⟨⟨[], [], rfl, rfl, nofun, nofun⟩, fun _ => List.pairwise_singleton _ _⟩
  | cons p t ih =>
    obtain ⟨hne, hnot⟩ : o ≠ p ∧ o ∉ t := by simpa using h
    unfold insertByDue
    split
    · next hb =>
      refine ⟨⟨[], p :: t, rfl, rfl, nofun, ?_⟩, fun hp => List.pairwise_cons.2 ⟨?_, hp⟩⟩
      · intro q hq
        cases hq
        exact hb
      · intro q hq
        rcases List.mem_cons.1 hq with rfl | hq
        · exact hb
        · exact DueBefore.trans hb ((List.pairwise_cons.1 hp).1 q hq)
    · next hb =>
      have hpo : DueBefore due p o := DueBefore.of_not hne hb
      obtain ⟨⟨before, after, h1, h2, h3, h4⟩, h5⟩ := ih hnot
      refine ⟨⟨p :: before, after, by rw [h1]; rfl, by rw [List.cons_append, h2], ?_, h4⟩, fun hp => ?_⟩
      · intro q hq
        rcases List.mem_cons.1 hq with rfl | hq
        · exact hpo
        · exact h3 q hq
      · rw [List.pairwise_cons] at hp ⊢
        refine ⟨fun q hq => ?_, h5 hp.2⟩
        rcases List.mem_cons.1 ((insertByDue_perm due o t).mem_iff.1 hq) with rfl | hq
        · exact hpo
        · exact hp.1 q hq

/-- An order placed in the Catering Queue stands where its due minute and index say (R159). -/
theorem State.enqueue_placed (s : State) (o : OrderIx) :
    PlacedByDue (dueMinute s) o (s.enqueue o).cqu.queue (s.cqu.queue.filter (· != o)) := by
  rw [State.enqueue_queue]
  exact insertByDue_placed (dueMinute s) o _ (by simp)

/-! ### Deciding (R156) -/

/-- The order states that lock an order's O0 to O3 (R11, R157). -/
theorem OrderState.locks_eq (st : OrderState) :
    st.locks = decide (st ∈ [OrderState.attached, .due, .sending, .accepted, .recalling]) := by
  cases st <;> rfl

/-- Deciding an entry as it stands does nothing. -/
theorem State.decideOrder_same (s : State) (o : OrderIx) (e : OrderEntry) (h : s.orderEntry o = some e) :
    s.decideOrder o e = s :=
  if_pos h

/-- What a decision that changes an entry does (R156, R157). -/
theorem State.decideOrder_changed (s : State) (o : OrderIx) (e : OrderEntry) (h : s.orderEntry o ≠ some e) :
    s.decideOrder o e =
      { s with
        cqu :=
          { s.cqu with
            entries := Table.set none s.cqu.entries o.val (some e)
            writeList := if o ∈ s.cqu.writeList then s.cqu.writeList else s.cqu.writeList ++ [o] }
        mps :=
          { s.mps with
            locked :=
              if (s.orderEntry o).map (·.state) = some e.state then s.mps.locked
              else Table.set false s.mps.locked o.val e.state.locks }
        ctu :=
          if (s.orderEntry o).map (·.state) ≠ some e.state ∧ e.state = .failed then { s.ctu with kitchenCause := true }
          else s.ctu } := by
  unfold State.decideOrder
  rw [if_neg h]
  dsimp only
  split
  · next hs => rw [if_neg (fun hc => hc.1 hs)]; rfl
  · next hs =>
    split
    · next hf => rw [if_pos ⟨hs, hf⟩]; rfl
    · next hf => rw [if_neg (fun hc => hf hc.2)]; rfl

/-! ### The lock notices of a hand-over (R11, R156, R166) -/

@[simp] theorem State.unplace_locked (s : State) (o : OrderIx) : (s.unplace o).mps.locked = s.mps.locked := by
  unfold State.unplace State.leaveContext
  split <;> rfl

/-- Deciding the first entry of an order gives its lock notice (R156). -/
theorem State.decideOrder_lockNotice (s : State) (o : OrderIx) (e : OrderEntry) (hm : Table.wf false s.mps.locked = true)
    (hw : Table.wf none s.cqu.entries = true) (hn : s.orderEntry o = none) : LockNoticeGiven s (s.decideOrder o e) o := by
  rw [State.decideOrder_changed s o e (by rw [hn]; nofun), hn]
  refine ⟨?_, fun p hp => ⟨?_, ?_⟩⟩
  · simp [State.locked, State.orderEntry, Table.get_set _ _ _ _ _ hm, Table.get_set _ _ _ _ _ hw, OrderState.locks_eq]
  · simp [State.locked, Table.get_set _ _ _ _ _ hm, Fin.val_ne_of_ne hp]
  · simp [State.orderEntry, Table.get_set _ _ _ _ _ hw, Fin.val_ne_of_ne hp]

/-- Placing an order in the Catering Queue or on the Recall List changes no mark. -/
theorem LockNoticeGiven.placed {s t u : State} {o : OrderIx} (h : LockNoticeGiven s t o) (hl : u.mps.locked = t.mps.locked)
    (he : u.cqu.entries = t.cqu.entries) : LockNoticeGiven s u o := by
  unfold LockNoticeGiven State.locked State.orderEntry at *
  rw [hl, he]
  exact h

/-- Each decision of a hand-over gives its lock notice, whatever its fate (R166). -/
theorem State.handOver_lockNotice (s : State) (o : OrderIx) (fate : Fate) (st : Option OrderState) (resend : Bool)
    (e : OrderEntry) (hm : Table.wf false s.mps.locked = true) (hw : Table.wf none s.cqu.entries = true)
    (hn : s.orderEntry o = none) : LockNoticeGiven s (s.handOver o fate st resend e).1 o := by
  have hs : LockNoticeGiven s s o := ⟨by rw [hn], fun _ _ => ⟨rfl, rfl⟩⟩
  have hd : ∀ d, LockNoticeGiven s (s.decideOrder o d) o := fun d => s.decideOrder_lockNotice o d hm hw hn
  have hq : ∀ d, LockNoticeGiven s ((s.decideOrder o d).enqueue o) o := fun d =>
    (hd d).placed (State.unplace_locked _ o) (State.unplace_entries _ o)
  unfold State.handOver
  rw [if_neg (by simp [hn])]
  rcases fate with _ | _ | _ <;> rcases st with _ | (_ | _ | _ | _ | _ | _ | _ | _ | _ | _) <;>
    (try dsimp only) <;> (try split) <;>
    first
      | exact hs
      | exact hd _
      | exact hq _

/-- The order that a slot of a KEEP pass names has its mark from its hand-over, for a rebuilt, an ended and a refused slot
alike, or as it was where it is not handed over (R11, R103, R166). -/
theorem State.keepHandOver_lockNotice (s : State) (r : SlotRef) (t : Taken) (k : KeepReads) (j : KeepJudgement) (o : OrderIx)
    (ho : orderOfField (admittedOrder k.w6) = some o) (hm : Table.wf false s.mps.locked = true)
    (hw : Table.wf none s.cqu.entries = true) (hn : s.orderEntry o = none) :
    LockNoticeGiven s (s.keepHandOver r t k j).1 o := by
  unfold State.keepHandOver
  rw [ho]
  dsimp only
  split
  · exact ⟨by rw [hn], fun _ _ => ⟨rfl, rfl⟩⟩
  · exact s.handOver_lockNotice o _ _ _ _ hm hw hn

end Sys2Proof.Machine
end

