-- ==== Sys2Proof/Laws/Settle.lean ====
section
/-! SUPPORT. What the end of every step (`settle`) can do: the kitchen link takes work, blocks present accesses, and a free
port is granted. It touches the Memory Path Switch's queue of accesses and locked-order set, the Catering Queue Unit and the
Kitchen Link Controller; everything else stays. -/

namespace Sys2Proof.Machine

/-- The state with what the end of a step may touch forgotten. -/
def State.still (s : State) : State :=
  { s with
    mps := { s.mps with locked := [], granted := none, waiting := {} }
    cqu := {}
    klc := { s.klc with link := .idle, context := none, stage := .quiet } }

/-- Arbitration leaves the rest of the switch. -/
theorem Mps.arbitrate_still (m : Mps) :
    { m.arbitrate with locked := [], granted := none, waiting := {} } = { m with locked := [], granted := none, waiting := {} } := by
  unfold Mps.arbitrate
  cases m.granted with
  | some _ => rfl
  | none =>
    cases m.waiting.first <;> rfl

theorem State.onCqu_still (s : State) (f : Cqu → Cqu) : (s.onCqu f).still = s.still := rfl

theorem State.present_still (s : State) (a : Access) : (s.present a).still = s.still := rfl

theorem State.lockNotice_still (s : State) (o : OrderIx) (st : OrderState) : (s.lockNotice o st).still = s.still := rfl

theorem State.listWrite_still (s : State) (o : OrderIx) : (s.listWrite o).still = s.still := rfl

theorem State.setOrderEntry_still (s : State) (o : OrderIx) (v : Option OrderEntry) :
    (s.setOrderEntry o v).still = s.still := rfl

theorem State.unqueue_still (s : State) (o : OrderIx) : (s.unqueue o).still = s.still := rfl

theorem State.assemble_still (s : State) (c : Context) : (s.assemble c).still = s.still := rfl

/-- Deciding an order as SENDING. -/
theorem State.decideSending_still (s : State) (o : OrderIx) (e : OrderEntry) (h : e.state ≠ .failed) :
    (s.decideOrder o e).still = s.still := by
  unfold State.decideOrder
  split
  · rfl
  · dsimp only
    split
    · rfl
    · exact State.lockNotice_still _ _ _

theorem State.lookForWork_still (s : State) : s.lookForWork.still = s.still := by
  unfold State.lookForWork
  split
  · split
    · rfl
    · split
      · rfl
      · split
        · rfl
        · rw [State.assemble_still, State.decideSending_still _ _ _ (by simp), State.unqueue_still]
  · rfl

theorem State.presentCqu_still (s : State) : s.presentCqu.still = s.still := by
  unfold State.presentCqu
  split
  · rfl
  · split
    · split <;> rfl
    · split
      · rfl
      · split <;> rfl

theorem State.presentKlc_still (s : State) : s.presentKlc.still = s.still := by
  unfold State.presentKlc
  split
  · rfl
  · split
    · rfl
    · split
      · split <;> rfl
      · rfl

theorem State.presentTail_still (s : State) : s.presentTail.still = s.still := by
  unfold State.presentTail
  split
  · split <;> rfl
  · rfl

theorem State.presentClaim_still (s : State) : s.presentClaim.still = s.still := by
  unfold State.presentClaim
  split
  · rfl
  · split <;> rfl

theorem State.arbitrate_still (s : State) : (s.onMps Mps.arbitrate).still = s.still := by
  unfold State.still State.onMps
  dsimp only
  rw [Mps.arbitrate_still]

/-- Taking work and presenting accesses leaves everything but the queue of accesses, the locked-order set, the Catering Queue
Unit and the link's state, context and stage. -/
theorem presentAll_still (s : State) : (presentAll s).still = s.still := by
  unfold presentAll
  rw [State.presentClaim_still, State.presentTail_still, State.presentKlc_still, State.presentCqu_still,
    State.lookForWork_still]

/-- So does the end of a step. -/
theorem settle_still (s : State) : (settle s).still = s.still := by
  unfold settle
  rw [State.arbitrate_still, presentAll_still]

/-- So does the end of a step that completed an access. -/
theorem settleAfter_still (before after : State) (nextFirst : Bool) :
    (settleAfter before after nextFirst).still = after.still := by
  unfold settleAfter
  dsimp only
  split
  · exact presentAll_still after
  · rw [State.arbitrate_still, presentAll_still]

/-- Where the next access need not arrive first, a completed access ends as every step does. -/
@[simp] theorem settleAfter_now (before after : State) : settleAfter before after false = settle after := rfl

@[simp] theorem settle_ctu (s : State) : (settle s).ctu = s.ctu := (congrArg State.ctu (settle_still s) :)
@[simp] theorem settle_clock (s : State) : (settle s).clock = s.clock := (congrArg State.clock (settle_still s) :)
@[simp] theorem settle_adu (s : State) : (settle s).adu = s.adu := (congrArg State.adu (settle_still s) :)
@[simp] theorem settle_bsc (s : State) : (settle s).bsc = s.bsc := (congrArg State.bsc (settle_still s) :)
@[simp] theorem settle_plu (s : State) : (settle s).plu = s.plu := (congrArg State.plu (settle_still s) :)
@[simp] theorem settle_ocf (s : State) : (settle s).ocf = s.ocf := (congrArg State.ocf (settle_still s) :)
@[simp] theorem settle_atu (s : State) : (settle s).atu = s.atu := (congrArg State.atu (settle_still s) :)
@[simp] theorem settle_mem (s : State) : (settle s).mem = s.mem := (congrArg State.mem (settle_still s) :)
@[simp] theorem settle_resetAsserted (s : State) : (settle s).resetAsserted = s.resetAsserted := (congrArg State.resetAsserted (settle_still s) :)
@[simp] theorem settle_freeCount (s : State) : (settle s).freeCount = s.freeCount := (congrArg State.freeCount (settle_still s) :)
@[simp] theorem settle_pending (s : State) : (settle s).pending = s.pending := (congrArg State.pending (settle_still s) :)
@[simp] theorem settle_mps_straps (s : State) : (settle s).mps.straps = s.mps.straps :=
  (congrArg (fun x => x.mps.straps) (settle_still s) :)
@[simp] theorem settle_mps_controlOn (s : State) : (settle s).mps.controlOn = s.mps.controlOn :=
  (congrArg (fun x => x.mps.controlOn) (settle_still s) :)
@[simp] theorem settle_mps_windows (s : State) : (settle s).mps.windows = s.mps.windows :=
  (congrArg (fun x => x.mps.windows) (settle_still s) :)
@[simp] theorem settle_mps_held (s : State) : (settle s).mps.held = s.mps.held :=
  (congrArg (fun x => x.mps.held) (settle_still s) :)
@[simp] theorem settle_mps_hostResult (s : State) : (settle s).mps.hostResult = s.mps.hostResult :=
  (congrArg (fun x => x.mps.hostResult) (settle_still s) :)
@[simp] theorem settle_klc_buffer (s : State) : (settle s).klc.buffer = s.klc.buffer :=
  (congrArg (fun x => x.klc.buffer) (settle_still s) :)
@[simp] theorem settle_klc_gap (s : State) : (settle s).klc.gap = s.klc.gap :=
  (congrArg (fun x => x.klc.gap) (settle_still s) :)
@[simp] theorem settle_klc_halt (s : State) : (settle s).klc.halt = s.klc.halt :=
  (congrArg (fun x => x.klc.halt) (settle_still s) :)
@[simp] theorem settle_klc_residue (s : State) : (settle s).klc.residue = s.klc.residue :=
  (congrArg (fun x => x.klc.residue) (settle_still s) :)
@[simp] theorem settle_klc_finishing (s : State) : (settle s).klc.finishing = s.klc.finishing :=
  (congrArg (fun x => x.klc.finishing) (settle_still s) :)
@[simp] theorem settle_klc_final (s : State) : (settle s).klc.final = s.klc.final :=
  (congrArg (fun x => x.klc.final) (settle_still s) :)

/-- A command that runs answers its state settled. -/
theorem ran_eq_next (s t : State) : ran s = .next t ↔ t = settle s := by
  unfold ran
  constructor
  · intro h
    injection h with h
    exact h.symm
  · intro h
    rw [h]

/-- A host access runs when the previous one has completed. -/
theorem hostAccess_runs (a : HostAccess) (s : State) (h : s.mps.hostResult ≠ .stalled) :
    hostAccess a s = .next (settle (s.hostTreat a)) := by
  unfold hostAccess
  rw [if_neg h]
  rfl

/-- A host access that meets one in progress faults. -/
theorem hostAccess_busy (a : HostAccess) (s : State) (h : s.mps.hostResult = .stalled) :
    hostAccess a s = .fault .hostBusBusy := by
  unfold hostAccess
  rw [if_pos h]

end Sys2Proof.Machine
end

