-- ==== Sys2Proof/Laws/OrderWords.lean ====
section
/-! SUPPORT. The writing of O4 to O7 (R156): what the end of a step leaves of it, and which word it presents. -/

namespace Sys2Proof.Machine

/-! ### Taking work, as far as the Catering Queue Unit's writes go -/

/-- Deciding an order keeps an entry HELD. -/
theorem State.decideOrder_staysHeld (s : State) (o q : OrderIx) (e : OrderEntry) (hw : Table.wf none s.cqu.entries = true)
    (h : s.orderEntry q ≠ none) : (s.decideOrder o e).orderEntry q ≠ none := by
  have hg : Table.get none (Table.set none s.cqu.entries o.val (some e)) q.val ≠ none := by
    rw [Table.get_set _ _ _ _ _ hw]
    split
    · simp
    · exact h
  unfold State.decideOrder
  split
  · exact h
  · dsimp only
    split
    · exact hg
    · split <;> exact hg

/-- Deciding an order leaves the word being written. -/
theorem State.decideOrder_writing (s : State) (o : OrderIx) (e : OrderEntry) :
    (s.decideOrder o e).cqu.writing = s.cqu.writing := by
  unfold State.decideOrder
  split
  · rfl
  · dsimp only
    split
    · rfl
    · split <;> rfl

/-- Of the switch, deciding an order touches the locked-order set alone. -/
theorem State.decideOrder_arbiter (s : State) (o : OrderIx) (e : OrderEntry) :
    (s.decideOrder o e).mps = { s.mps with locked := (s.decideOrder o e).mps.locked } := by
  unfold State.decideOrder
  split
  · rfl
  · dsimp only
    split
    · rfl
    · split <;> rfl

/-- Deciding an order keeps the orders listed so far. -/
theorem State.decideOrder_writeList (s : State) (o : OrderIx) (e : OrderEntry) :
    s.cqu.writeList <+: (s.decideOrder o e).cqu.writeList := by
  have h : s.cqu.writeList <+: if o ∈ s.cqu.writeList then s.cqu.writeList else s.cqu.writeList ++ [o] := by
    split
    · exact List.prefix_rfl
    · exact List.prefix_append _ _
  unfold State.decideOrder
  split
  · exact List.prefix_rfl
  · dsimp only
    split
    · exact h
    · split <;> exact h

/-- What the look for work leaves of the writing of orders: the word being written, the orders listed so far, every HELD
entry, and the arbiter. -/
structure WritesOn (s t : State) : Prop where
  writing : t.cqu.writing = s.cqu.writing
  listed  : s.cqu.writeList <+: t.cqu.writeList
  held    : ∀ o, s.orderEntry o ≠ none → t.orderEntry o ≠ none
  arbiter : t.mps = { s.mps with locked := t.mps.locked }

theorem State.lookForWork_writesOn (s : State) (hw : Table.wf none s.cqu.entries = true) : WritesOn s s.lookForWork := by
  have same : WritesOn s s := ⟨rfl, List.prefix_rfl, fun _ h => h, rfl⟩
  unfold State.lookForWork
  split
  · split
    · exact ⟨rfl, List.prefix_rfl, fun _ h => h, rfl⟩
    · split
      · exact same
      · split
        · exact same
        · next o _ _ e _ =>
          exact ⟨State.decideOrder_writing (s.unqueue o) o _, State.decideOrder_writeList (s.unqueue o) o _,
            fun q h => State.decideOrder_staysHeld (s.unqueue o) o q _ hw h, State.decideOrder_arbiter (s.unqueue o) o _⟩
  · exact same

/-- A link that is not idle takes no work. -/
theorem State.lookForWork_busy (s : State) (h : s.klc.link ≠ .idle) : s.lookForWork = s :=
  if_neg fun hc => h hc.1

/-! ### Presenting -/

@[simp] theorem State.present_cqu (s : State) (a : Access) : (s.present a).cqu = s.cqu := rfl

/-- An access that is presented waits in its requester's place. -/
theorem State.present_waiting_of (s : State) (a : Access) (r : Requester) :
    (s.present a).mps.waiting.of r = if r = a.owner.requester then some a else s.mps.waiting.of r := by
  unfold State.present
  rw [State.onMps_mps]
  dsimp only
  cases a.owner.requester <;> cases r <;> rfl

/-- What the presentations after the Catering Queue Unit's leave: the unit itself, its waiting access, the addresses. -/
structure CquStands (s t : State) : Prop where
  cqu     : t.cqu = s.cqu
  waiting : t.mps.waiting.cqu = s.mps.waiting.cqu
  windows : t.mps.windows = s.mps.windows

theorem CquStands.refl (s : State) : CquStands s s := ⟨rfl, rfl, rfl⟩
theorem CquStands.trans {s t u : State} (h : CquStands s t) (h' : CquStands t u) : CquStands s u :=
  ⟨h'.cqu.trans h.cqu, h'.waiting.trans h.waiting, h'.windows.trans h.windows⟩

theorem State.present_cquStands (s : State) (a : Access) (h : a.owner.requester ≠ .cqu) : CquStands s (s.present a) := by
  refine ⟨rfl, ?_, rfl⟩
  have := s.present_waiting_of a .cqu
  rw [if_neg (fun hc => h hc.symm)] at this
  exact this

theorem presentKlc_cquStands (s : State) : CquStands s s.presentKlc := by
  unfold State.presentKlc
  split
  · exact .refl s
  · split
    · exact s.present_cquStands _ nofun
    · split
      · split
        · exact s.present_cquStands _ nofun
        · exact .refl s
      · exact .refl s

theorem presentTail_cquStands (s : State) : CquStands s s.presentTail := by
  unfold State.presentTail
  split
  · split
    · exact .refl s
    · exact s.present_cquStands _ nofun
  · exact .refl s

/-- The access a claim makes is the Admission Unit's, or the Bank Scanner's for the reads of a KEEP visit (R14). -/
theorem State.claimAccess_owner (s : State) (a : Access) (h : s.claimAccess = some a) :
    a.owner = .aduClaim ∨ a.owner = .bsc := by
  unfold State.claimAccess at h
  split at h
  · nomatch h
  · split at h <;> simp only [Option.map_eq_some_iff] at h <;> obtain ⟨_, _, rfl⟩ := h
    all_goals first
      | exact .inl rfl
      | exact .inr rfl

theorem presentClaim_cquStands (s : State) : CquStands s s.presentClaim := by
  unfold State.presentClaim
  split
  · exact .refl s
  · next a h =>
    split
    · exact .refl s
    · exact s.present_cquStands _ (by rcases s.claimAccess_owner a h with h | h <;> rw [h] <;> nofun)

theorem presentAll_cquStands (s : State) : CquStands s.lookForWork.presentCqu (presentAll s) :=
  ((presentKlc_cquStands _).trans (presentTail_cquStands _)).trans (presentClaim_cquStands _)

/-- An access that waits stands at the arbiter after a grant too. -/
theorem AccessStands.of_waiting {s : State} {x : Access} (h : s.mps.waiting.of x.owner.requester = some x) :
    AccessStands x (s.onMps Mps.arbitrate) := by
  unfold AccessStands
  rw [State.onMps_mps]
  unfold Mps.arbitrate
  split
  · exact .inr h
  · split
    · exact .inr h
    · next r _ =>
      by_cases hr : r = x.owner.requester
      · subst hr
        exact .inl h
      · refine .inr ?_
        dsimp only
        rw [← h]
        generalize x.owner.requester = q at hr
        cases r <;> cases q <;> first | rfl | exact absurd rfl hr

/-- A grant leaves the windows. -/
theorem State.arbitrate_windows (s : State) : (s.onMps Mps.arbitrate).mps.windows = s.mps.windows := by
  rw [State.onMps_mps]
  unfold Mps.arbitrate
  split
  · rfl
  · split <;> rfl

/-- A granted port or not, `t` is where a step's presentations have left the state `s`. -/
def EndsIn (s t : State) : Prop := t = presentAll s ∨ t = settle s

/-- The unit at the end of a step is as its own presentation left it. -/
theorem EndsIn.cqu {s t : State} (h : EndsIn s t) : t.cqu = s.lookForWork.presentCqu.cqu := by
  rcases h with rfl | rfl <;> exact (presentAll_cquStands s).cqu

/-- The word the unit presents stands at the arbiter at the end of the step, and the unit stays as it was. -/
theorem EndsIn.orderWordStands {s t : State} (ht : EndsIn s t) {o : OrderIx} {n : Nat} {e : OrderEntry}
    (he : s.lookForWork.presentCqu.orderEntry o = some e)
    (hw : s.lookForWork.presentCqu.mps.waiting.cqu
      = some (ownWrite .cqu (s.lookForWork.presentCqu.orderAddr o (4 + n), orderWord e n))) :
    OrderWordStands o n t := by
  have hp := presentAll_cquStands s
  have ha : (presentAll s).orderAddr o (4 + n) = s.lookForWork.presentCqu.orderAddr o (4 + n) := by
    unfold State.orderAddr; rw [hp.windows]
  have h1 : (presentAll s).mps.waiting.of (Owner.requester .cqu)
      = some ⟨.cqu, true, (presentAll s).orderAddr o (4 + n), orderWord e n, 15#4⟩ := by
    rw [ha]; exact hp.waiting.trans hw
  have h2 : (presentAll s).orderEntry o = some e := by unfold State.orderEntry at he ⊢; rw [hp.cqu]; exact he
  rcases ht with rfl | rfl
  · exact ⟨e, h2, .inr h1⟩
  · refine ⟨e, h2, ?_⟩
    have hb : (settle s).orderAddr o (4 + n) = (presentAll s).orderAddr o (4 + n) := by
      unfold State.orderAddr settle; rw [State.arbitrate_windows]
    rw [hb]
    exact .of_waiting h1

/-- An access outstanding depends on the arbiter alone. -/
theorem outstanding_congr {s t : State} (h : t.mps = { s.mps with locked := t.mps.locked }) (r : Requester) :
    t.mps.outstanding r = s.mps.outstanding r := by
  rw [h]; rfl

/-- The Catering Queue Unit presents nothing while it has an access outstanding (R14). -/
theorem EndsIn.writing_busy {s t : State} (ht : EndsIn s t) (hw : Table.wf none s.cqu.entries = true)
    (h : s.mps.outstanding .cqu = true) :
    t.cqu.writing = s.cqu.writing := by
  have hl := s.lookForWork_writesOn hw
  rw [ht.cqu]
  unfold State.presentCqu
  rw [if_pos ((outstanding_congr hl.arbiter _).trans h)]
  exact hl.writing

/-- The next word of the order being written is presented (R156). -/
theorem EndsIn.presents_next {s t : State} (ht : EndsIn s t) (hw : Table.wf none s.cqu.entries = true)
    (h : s.mps.outstanding .cqu = false)
    {o : OrderIx} {n : Nat} (hn : s.cqu.writing = some (o, n)) (he : s.orderEntry o ≠ none) :
    t.cqu.writing = some (o, n) ∧ s.cqu.writeList <+: t.cqu.writeList ∧ OrderWordStands o n t := by
  have hl := s.lookForWork_writesOn hw
  obtain ⟨e, he'⟩ := Option.ne_none_iff_exists'.1 (hl.held o he)
  have hp : s.lookForWork.presentCqu =
      s.lookForWork.present (ownWrite .cqu (s.lookForWork.orderAddr o (4 + n), orderWord e n)) := by
    unfold State.presentCqu
    rw [if_neg (by rw [outstanding_congr hl.arbiter, h]; nofun), hl.writing, hn]
    dsimp only
    rw [he']
  refine ⟨?_, ?_, ht.orderWordStands (e := e) ?_ ?_⟩
  · rw [ht.cqu, hp]; exact hl.writing.trans hn
  · rw [ht.cqu, hp]; exact hl.listed
  · rw [hp]; exact he'
  · rw [hp]; rfl

/-- With no order under way, the first order of the write list is begun with its O4 (R156). -/
theorem EndsIn.opens_first {s t : State} (ht : EndsIn s t) (hw : Table.wf none s.cqu.entries = true)
    (h : s.mps.outstanding .cqu = false)
    {o : OrderIx} {rest : List OrderIx} (hn : s.cqu.writing = none) (hr : s.cqu.writeList = o :: rest)
    (he : s.orderEntry o ≠ none) :
    t.cqu.writing = some (o, 0) ∧ rest <+: t.cqu.writeList ∧ OrderWordStands o 0 t := by
  have hl := s.lookForWork_writesOn hw
  obtain ⟨e, he'⟩ := Option.ne_none_iff_exists'.1 (hl.held o he)
  obtain ⟨more, hm⟩ := hl.listed
  rw [hr, List.cons_append] at hm
  have hp : s.lookForWork.presentCqu =
      (s.lookForWork.onCqu fun c => { c with writeList := rest ++ more, writing := some (o, 0) }).present
        (ownWrite .cqu (s.lookForWork.orderAddr o 4, orderWord e 0)) := by
    unfold State.presentCqu
    rw [if_neg (by rw [outstanding_congr hl.arbiter, h]; nofun), hl.writing, hn]
    dsimp only
    rw [← hm]
    dsimp only
    rw [he']
  refine ⟨?_, ?_, ht.orderWordStands (e := e) ?_ ?_⟩
  · rw [ht.cqu, hp]; rfl
  · rw [ht.cqu, hp]; exact List.prefix_append _ _
  · rw [hp]; exact he'
  · rw [hp]; rfl

/-- With no order under way and none listed, nothing of the unit changes where the link takes no work (R156). -/
theorem EndsIn.nothing_listed {s t : State} (ht : EndsIn s t) (hn : s.cqu.writing = none) (hr : s.cqu.writeList = [])
    (hk : s.klc.link ≠ .idle) : t.cqu = s.cqu := by
  rw [ht.cqu, s.lookForWork_busy hk]
  unfold State.presentCqu
  split
  · rfl
  · rw [hn]
    dsimp only
    rw [hr]

/-- Nothing waits at an arbiter whose places are empty. -/
theorem NoneWaits.of_empty {s : State} {r : Requester} (h : s.mps.waiting = {}) : NoneWaits s r := by
  intro p x hx
  rw [h] at hx
  cases p <;> nomatch hx

/-- Where none of a requester's accesses waits, a grant leaves it without one. -/
theorem NoneWaits.arbitrate {s : State} {r : Requester} (h : NoneWaits s r) (hg : s.mps.granted = none) :
    (s.onMps Mps.arbitrate).mps.outstanding r = false := by
  have hn : s.mps.waiting.of r = none := by
    cases hx : s.mps.waiting.of r with
    | none => rfl
    | some x => exact absurd rfl (h r x hx).1
  rw [State.onMps_mps]
  unfold Mps.arbitrate
  rw [hg]
  dsimp only
  cases hf : s.mps.waiting.first with
  | none => unfold Mps.outstanding; dsimp only; rw [hn, hg]; rfl
  | some p =>
    unfold Mps.outstanding
    dsimp only
    have : (s.mps.waiting.put p none).of r = none := by
      cases p <;> cases r <;> first | rfl | exact hn
    rw [this]
    cases hx : s.mps.waiting.of p with
    | none => rfl
    | some x => simp [(h p x hx).2]

/-- Where none of a requester's accesses waits and the port is free, none is outstanding. -/
theorem NoneWaits.outstanding {s : State} {r : Requester} (h : NoneWaits s r) (hg : s.mps.granted = none) :
    s.mps.outstanding r = false := by
  have hn : s.mps.waiting.of r = none := by
    cases hx : s.mps.waiting.of r with
    | none => rfl
    | some x => exact absurd rfl (h r x hx).1
  unfold Mps.outstanding
  rw [hn, hg]; rfl

/-- A completed access ends where every step does, but for the grant (R14). -/
theorem settleAfter_endsIn (before after : State) (nextFirst : Bool) :
    EndsIn after (settleAfter before after nextFirst) := by
  unfold settleAfter
  dsimp only
  split
  · exact .inl rfl
  · exact .inr rfl

end Sys2Proof.Machine
end

