-- ==== Sys2Proof/Laws/Orderly.lean ====
section
/-! SUPPORT. Every operation keeps the queues in bounds with each order in one place, and the walk at rest outside RUNNING
(`Orderly`). One lemma per operation. -/

namespace Sys2Proof.Machine

/-- The queues agree, and the walk rests outside RUNNING; with `run`, the phase is RUNNING. -/
def OrderlyIn (run : Bool) (s : State) : Prop := QueuesAgree s ∧ WalkRests s ∧ (run = true → s.ctu.phase = .running)

/-- The queues agree, and the walk rests outside RUNNING. -/
abbrev Orderly (s : State) : Prop := OrderlyIn false s

theorem orderly_iff {s : State} : Orderly s ↔ QueuesAgree s ∧ WalkRests s := by
  simp [OrderlyIn]

variable {run : Bool}

/-- The order rests on these fields alone. -/
theorem OrderlyIn.of_eq {s t : State} (h1 : t.plu.events = s.plu.events) (h2 : t.cqu.queue = s.cqu.queue)
    (h3 : t.cqu.recalls = s.cqu.recalls) (h4 : t.klc.context.map (·.order) = s.klc.context.map (·.order))
    (h5 : t.ctu.phase = s.ctu.phase) (h6 : t.atu.walk = s.atu.walk) (h7 : t.atu.minuteClaim = s.atu.minuteClaim)
    (h8 : t.atu.expiries = s.atu.expiries) (h : OrderlyIn run s) : OrderlyIn run t := by
  unfold OrderlyIn QueuesAgree WalkRests at h ⊢
  rw [h1, h2, h3, h4, h5, h6, h7, h8]
  exact h

theorem foldl_orderly {β : Type} (f : State → β → State) (hf : ∀ s x, OrderlyIn run s → OrderlyIn run (f s x)) (l : List β)
    (s : State) (h : OrderlyIn run s) : OrderlyIn run (l.foldl f s) := by
  induction l generalizing s with
  | nil => exact h
  | cons x l ih => exact ih _ (hf s x h)

/-- Orders taken out of the queue, the list and the context leave the rest in order. -/
theorem OrderlyIn.of_less {s t : State} (h1 : t.plu.events.length ≤ s.plu.events.length)
    (h2 : t.cqu.queue.Sublist s.cqu.queue) (h3 : t.cqu.recalls.Sublist s.cqu.recalls)
    (h4 : t.klc.context.map (·.order) = none ∨ t.klc.context.map (·.order) = s.klc.context.map (·.order))
    (h5 : t.ctu = s.ctu) (h6 : t.atu = s.atu) (h : OrderlyIn run s) : OrderlyIn run t := by
  obtain ⟨⟨q1, q2, q3, q4, q5⟩, w, p⟩ := h
  refine ⟨⟨Nat.le_trans h1 q1, h2.nodup q2, h3.nodup q3, fun o ho => ⟨fun hr => ?_, ?_⟩, fun o ho => ?_⟩, ?_, ?_⟩
  · exact (q4 o (h2.subset ho)).1 (h3.subset hr)
  · rcases h4 with h4 | h4 <;> rw [h4]
    · simp
    · exact (q4 o (h2.subset ho)).2
  · rcases h4 with h4 | h4 <;> rw [h4]
    · simp
    · exact q5 o (h3.subset ho)
  · unfold WalkRests at w ⊢
    rw [h5, h6]
    exact w
  · rw [h5]
    exact p

/-- The context takes up an order that stands neither in the queue nor in the list. -/
theorem State.onKlc_orderly_fresh (s : State) (f : Klc → Klc) (o : OrderIx)
    (hc : (f s.klc).context.map (·.order) = some o) (hq : o ∉ s.cqu.queue) (hr : o ∉ s.cqu.recalls)
    (h : OrderlyIn run s) : OrderlyIn run (s.onKlc f) := by
  obtain ⟨⟨q1, q2, q3, q4, q5⟩, w, p⟩ := h
  refine ⟨⟨q1, q2, q3, fun o' ho => ⟨(q4 o' ho).1, ?_⟩, fun o' ho => ?_⟩, w, p⟩
  · show (f s.klc).context.map (·.order) ≠ some o'
    rw [hc]
    rintro ⟨⟩
    exact hq ho
  · show (f s.klc).context.map (·.order) ≠ some o'
    rw [hc]
    rintro ⟨⟩
    exact hr ho

/-- The order in flight stands in neither list. -/
theorem OrderlyIn.context_nowhere {s : State} (h : OrderlyIn run s) {o : OrderIx} (hc : s.klc.context.map (·.order) = some o) :
    o ∉ s.cqu.queue ∧ o ∉ s.cqu.recalls :=
  ⟨fun hq => (h.1.2.2.2.1 o hq).2 hc, fun hr => h.1.2.2.2.2 o hr hc⟩

/-- In RUNNING the walk may stand anywhere. -/
theorem State.onAtu_orderly_running (s : State) (f : Atu → Atu) (h : OrderlyIn true s) : OrderlyIn true (s.onAtu f) :=
  ⟨h.1, fun hp => absurd (h.2.2 rfl) hp, h.2.2⟩

theorem OrderlyIn.forget {s : State} (h : OrderlyIn run s) : Orderly s := ⟨h.1, h.2.1, nofun⟩

theorem State.onMps_orderly (s : State) (f : Mps → Mps) (h : OrderlyIn run s) : OrderlyIn run (s.onMps f) := h
theorem State.onClock_orderly (s : State) (f : Clock → Clock) (h : OrderlyIn run s) : OrderlyIn run (s.onClock f) := h
theorem State.onAdu_orderly (s : State) (f : Adu → Adu) (h : OrderlyIn run s) : OrderlyIn run (s.onAdu f) := h
theorem State.onBsc_orderly (s : State) (f : Bsc → Bsc) (h : OrderlyIn run s) : OrderlyIn run (s.onBsc f) := h
theorem State.onOcf_orderly (s : State) (f : Ocf → Ocf) (h : OrderlyIn run s) : OrderlyIn run (s.onOcf f) := h
theorem State.arbitrate_orderly (s : State) (h : OrderlyIn run s) : OrderlyIn run (s.onMps Mps.arbitrate) := h

theorem State.onCtu_orderly (s : State) (f : Ctu → Ctu) (h1 : (f s.ctu).phase = s.ctu.phase) (h : OrderlyIn run s) :
    OrderlyIn run (s.onCtu f) :=
  OrderlyIn.of_eq (s := s) (t := s.onCtu f) rfl rfl rfl rfl h1 rfl rfl rfl h

theorem State.onPlu_orderly (s : State) (f : Plu → Plu) (h1 : (f s.plu).events = s.plu.events) (h : OrderlyIn run s) :
    OrderlyIn run (s.onPlu f) :=
  OrderlyIn.of_eq (s := s) (t := s.onPlu f) h1 rfl rfl rfl rfl rfl rfl rfl h

theorem State.onAtu_orderly (s : State) (f : Atu → Atu) (h1 : (f s.atu).walk = s.atu.walk)
    (h2 : (f s.atu).minuteClaim = s.atu.minuteClaim) (h3 : (f s.atu).expiries = s.atu.expiries) (h : OrderlyIn run s) :
    OrderlyIn run (s.onAtu f) :=
  OrderlyIn.of_eq (s := s) (t := s.onAtu f) rfl rfl rfl rfl rfl h1 h2 h3 h

theorem State.onCqu_orderly (s : State) (f : Cqu → Cqu) (h1 : (f s.cqu).queue = s.cqu.queue)
    (h2 : (f s.cqu).recalls = s.cqu.recalls) (h : OrderlyIn run s) : OrderlyIn run (s.onCqu f) :=
  OrderlyIn.of_eq (s := s) (t := s.onCqu f) rfl h1 h2 rfl rfl rfl rfl rfl h

theorem State.onKlc_orderly (s : State) (f : Klc → Klc)
    (h1 : (f s.klc).context.map (·.order) = s.klc.context.map (·.order)) (h : OrderlyIn run s) : OrderlyIn run (s.onKlc f) :=
  OrderlyIn.of_eq (s := s) (t := s.onKlc f) rfl rfl rfl h1 rfl rfl rfl rfl h

theorem State.setSlot_orderly (s : State) (r : SlotRef) (v : SlotState)
    (h : OrderlyIn run s) : OrderlyIn run (State.setSlot s r v) := by
  simp only [State.setSlot]
  repeat (first
    | with_reducible exact h | with_reducible refine State.onAdu_orderly _ _ ?_ | split)

theorem State.setEntry_orderly (s : State) (i : Nat) (e : Option PoolEntry)
    (h : OrderlyIn run s) : OrderlyIn run (State.setEntry s i e) := by
  simp only [State.setEntry]
  repeat (first
    | with_reducible exact h | with_reducible refine State.onAdu_orderly _ _ ?_ | split)

theorem State.setSchedule_orderly (s : State) (b : Book) (r : Room) (l : List Nat)
    (h : OrderlyIn run s) : OrderlyIn run (State.setSchedule s b r l) := by
  simp only [State.setSchedule]
  repeat (first
    | with_reducible exact h | with_reducible refine State.onAdu_orderly _ _ ?_ | split)

theorem State.setBinding_orderly (s : State) (o : OrderIx) (v : Option Nat)
    (h : OrderlyIn run s) : OrderlyIn run (State.setBinding s o v) := by
  simp only [State.setBinding]
  repeat (first
    | with_reducible exact h | with_reducible refine State.onAdu_orderly _ _ ?_ | split)

theorem State.unbind_orderly (s : State) (x : Option OrderIx) (h : OrderlyIn run s) : OrderlyIn run (State.unbind s x) := by
  cases x <;> simp only [State.unbind] <;> exact h

theorem State.bind_orderly (s : State) (i : Nat) (x : Option OrderIx)
    (h : OrderlyIn run s) : OrderlyIn run (State.bind s i x) := by
  cases x <;> simp only [State.bind] <;> exact h

theorem State.takeEntry_orderly (s : State) (e : PoolEntry) (h : OrderlyIn run s) : OrderlyIn run (State.takeEntry s e) := by
  simp only [State.takeEntry]
  repeat (first
    | with_reducible exact h | with_reducible refine State.onAdu_orderly _ _ ?_
    | with_reducible refine State.setSlot_orderly _ _ _ ?_ | with_reducible refine State.setEntry_orderly _ _ _ ?_
    | with_reducible refine State.setSchedule_orderly _ _ _ _ ?_ | with_reducible refine State.bind_orderly _ _ _ ?_
    | split)

theorem State.freeEntry_orderly (s : State) (i : Nat) (h : OrderlyIn run s) : OrderlyIn run (State.freeEntry s i) := by
  simp only [State.freeEntry]
  repeat (first
    | with_reducible exact h | with_reducible refine State.onAdu_orderly _ _ ?_
    | with_reducible refine State.setSlot_orderly _ _ _ ?_ | with_reducible refine State.setEntry_orderly _ _ _ ?_
    | with_reducible refine State.setSchedule_orderly _ _ _ _ ?_ | with_reducible refine State.unbind_orderly _ _ ?_
    | split)

theorem State.changeEntry_orderly (s : State) (i : Nat) (e : PoolEntry)
    (h : OrderlyIn run s) : OrderlyIn run (State.changeEntry s i e) := by
  simp only [State.changeEntry]
  repeat (first
    | with_reducible exact h | with_reducible refine State.setEntry_orderly _ _ _ ?_
    | with_reducible refine State.setSchedule_orderly _ _ _ _ ?_ | with_reducible refine State.unbind_orderly _ _ ?_
    | with_reducible refine State.bind_orderly _ _ _ ?_ | split)

theorem State.setLoop_orderly (s : State) (l : LoopNo) (v : Loop)
    (h : OrderlyIn run s) : OrderlyIn run (State.setLoop s l v) := by
  simp only [State.setLoop]
  repeat (first
    | with_reducible exact h | with_reducible refine State.onPlu_orderly _ _ rfl ?_ | split)

theorem State.setPanel_orderly (s : State) (r : Room) (v : Panel)
    (h : OrderlyIn run s) : OrderlyIn run (State.setPanel s r v) := by
  simp only [State.setPanel]
  repeat (first
    | with_reducible exact h | with_reducible refine State.onPlu_orderly _ _ rfl ?_ | split)

theorem State.setFilter_orderly (s : State) (r : Room) (v : Filter)
    (h : OrderlyIn run s) : OrderlyIn run (State.setFilter s r v) := by
  simp only [State.setFilter]
  repeat (first
    | with_reducible exact h | with_reducible refine State.onOcf_orderly _ _ ?_ | split)

theorem State.setRoomState_orderly (s : State) (r : Room) (v : RoomState)
    (h : OrderlyIn run s) : OrderlyIn run (State.setRoomState s r v) := by
  simp only [State.setRoomState]
  repeat (first
    | with_reducible exact h | with_reducible refine State.onAtu_orderly _ _ rfl rfl rfl ?_ | split)

theorem State.setOrderEntry_orderly (s : State) (o : OrderIx) (v : Option OrderEntry)
    (h : OrderlyIn run s) : OrderlyIn run (State.setOrderEntry s o v) := by
  simp only [State.setOrderEntry]
  repeat (first
    | with_reducible exact h | with_reducible refine State.onCqu_orderly _ _ rfl rfl ?_ | split)

theorem State.present_orderly (s : State) (a : Access) (h : OrderlyIn run s) : OrderlyIn run (State.present s a) := by
  simp only [State.present]
  repeat (first
    | with_reducible exact h | with_reducible refine State.onMps_orderly _ _ ?_ | split)

theorem State.setFlags_orderly (s : State) (w : Word) (h : OrderlyIn run s) : OrderlyIn run (State.setFlags s w) := by
  simp only [State.setFlags]
  repeat (first
    | with_reducible exact h | with_reducible refine State.onCtu_orderly _ _ rfl ?_ | split)

theorem State.clearFlags_orderly (s : State) (w : Word) (h : OrderlyIn run s) : OrderlyIn run (State.clearFlags s w) := by
  simp only [State.clearFlags]
  repeat (first
    | with_reducible exact h | with_reducible refine State.onCtu_orderly _ _ rfl ?_ | split)

theorem State.presentTrap_orderly (s : State) (r : TrapRecord)
    (h : OrderlyIn run s) : OrderlyIn run (State.presentTrap s r) := by
  simp only [State.presentTrap]
  repeat (first
    | with_reducible exact h | with_reducible refine State.onCtu_orderly _ _ rfl ?_
    | with_reducible refine State.setFlags_orderly _ _ ?_ | split)

theorem State.markChanged_orderly (s : State) (r : Room) (h : OrderlyIn run s) : OrderlyIn run (State.markChanged s r) := by
  simp only [State.markChanged]
  repeat (first
    | with_reducible exact h | with_reducible refine State.onCtu_orderly _ _ rfl ?_ | split)

theorem State.raiseKitchen_orderly (s : State) (h : OrderlyIn run s) : OrderlyIn run (State.raiseKitchen s) := by
  simp only [State.raiseKitchen]
  repeat (first
    | with_reducible exact h | with_reducible refine State.onCtu_orderly _ _ rfl ?_ | split)

theorem State.raiseScan_orderly (s : State) (h : OrderlyIn run s) : OrderlyIn run (State.raiseScan s) := by
  simp only [State.raiseScan]
  repeat (first
    | with_reducible exact h | with_reducible refine State.onCtu_orderly _ _ rfl ?_ | split)

theorem State.lockNotice_orderly (s : State) (o : OrderIx) (st : OrderState)
    (h : OrderlyIn run s) : OrderlyIn run (State.lockNotice s o st) := by
  simp only [State.lockNotice]
  repeat (first
    | with_reducible exact h | with_reducible refine State.onMps_orderly _ _ ?_ | split)

theorem State.listWrite_orderly (s : State) (o : OrderIx) (h : OrderlyIn run s) : OrderlyIn run (State.listWrite s o) := by
  simp only [State.listWrite]
  repeat (first
    | with_reducible exact h | with_reducible refine State.onCqu_orderly _ _ rfl rfl ?_ | split)

theorem State.decideOrder_orderly (s : State) (o : OrderIx) (e : OrderEntry)
    (h : OrderlyIn run s) : OrderlyIn run (State.decideOrder s o e) := by
  simp only [State.decideOrder]
  repeat (first
    | with_reducible exact h | with_reducible refine State.setOrderEntry_orderly _ _ _ ?_
    | with_reducible refine State.raiseKitchen_orderly _ ?_ | with_reducible refine State.lockNotice_orderly _ _ _ ?_
    | with_reducible refine State.listWrite_orderly _ _ ?_ | split)

@[simp] theorem State.decideOrder_klc (s : State) (o : OrderIx) (e : OrderEntry) : (s.decideOrder o e).klc = s.klc := by
  unfold State.decideOrder
  split
  · rfl
  · dsimp only
    split
    · rfl
    · split <;> rfl

@[simp] theorem State.decideOrder_queue (s : State) (o : OrderIx) (e : OrderEntry) :
    (s.decideOrder o e).cqu.queue = s.cqu.queue := by
  unfold State.decideOrder
  split
  · rfl
  · dsimp only
    split
    · rfl
    · split <;> rfl

@[simp] theorem State.decideOrder_recalls (s : State) (o : OrderIx) (e : OrderEntry) :
    (s.decideOrder o e).cqu.recalls = s.cqu.recalls := by
  unfold State.decideOrder
  split
  · rfl
  · dsimp only
    split
    · rfl
    · split <;> rfl

theorem State.unqueue_orderly (s : State) (o : OrderIx) (h : OrderlyIn run s) : OrderlyIn run (State.unqueue s o) :=
  OrderlyIn.of_less (s := s) (Nat.le_refl _) List.filter_sublist (List.Sublist.refl _) (Or.inr rfl) rfl rfl h

theorem State.leaveContext_orderly (s : State) (o : OrderIx) (h : OrderlyIn run s) : OrderlyIn run (State.leaveContext s o) := by
  unfold State.leaveContext
  split
  · refine OrderlyIn.of_less (s := s) (Nat.le_refl _) (List.Sublist.refl _) (List.Sublist.refl _) (Or.inl ?_) rfl rfl h
    show s.klc.dropContext.context.map (·.order) = none
    rw [Klc.dropContext_context]
    rfl
  · exact h

theorem State.unplace_orderly (s : State) (o : OrderIx) (h : OrderlyIn run s) : OrderlyIn run (State.unplace s o) := by
  unfold State.unplace
  refine State.leaveContext_orderly _ _ ?_
  exact OrderlyIn.of_less (s := s.unqueue o) (Nat.le_refl _) (List.Sublist.refl _) List.filter_sublist (Or.inr rfl) rfl rfl
    (State.unqueue_orderly _ _ h)

theorem State.enqueue_orderly (s : State) (o : OrderIx) (h : OrderlyIn run s) : OrderlyIn run (State.enqueue s o) := by
  unfold State.enqueue
  have hu := State.unplace_orderly s o h
  obtain ⟨nq, nr, nc⟩ := State.unplace_nowhere s o
  generalize s.unplace o = u at hu nq nr nc
  obtain ⟨⟨q1, q2, q3, q4, q5⟩, w, p⟩ := hu
  have hp := insertByDue_perm u.dueOf o u.cqu.queue
  refine ⟨⟨q1, hp.nodup_iff.mpr (List.nodup_cons.mpr ⟨nq, q2⟩), q3, fun o' ho => ?_, q5⟩, w, p⟩
  rcases List.mem_cons.mp (hp.mem_iff.mp ho) with rfl | ho
  · exact ⟨nr, nc⟩
  · exact q4 o' ho

theorem State.recall_orderly (s : State) (o : OrderIx) (h : OrderlyIn run s) : OrderlyIn run (State.recall s o) := by
  unfold State.recall
  have hu := State.unplace_orderly s o h
  obtain ⟨nq, nr, nc⟩ := State.unplace_nowhere s o
  generalize s.unplace o = u at hu nq nr nc
  obtain ⟨⟨q1, q2, q3, q4, q5⟩, w, p⟩ := hu
  refine ⟨⟨q1, q2, List.nodup_append.mpr ⟨q3, by simp, ?_⟩, fun o' ho => ⟨fun hr => ?_, (q4 o' ho).2⟩, fun o' ho => ?_⟩, w, p⟩
  · intro a ha c hc
    rw [List.mem_singleton.mp hc]
    rintro rfl
    exact nr ha
  · rcases List.mem_append.mp hr with hr | hr
    · exact (q4 o' ho).1 hr
    · exact nq (List.mem_singleton.mp hr ▸ ho)
  · rcases List.mem_append.mp ho with ho | ho
    · exact q5 o' ho
    · exact List.mem_singleton.mp ho ▸ nc

theorem State.queueOrder_orderly (s : State) (o : OrderIx) (e : OrderEntry)
    (h : OrderlyIn run s) : OrderlyIn run (State.queueOrder s o e) := by
  simp only [State.queueOrder]
  repeat (first
    | with_reducible exact h | with_reducible refine State.decideOrder_orderly _ _ _ ?_
    | with_reducible refine State.enqueue_orderly _ _ ?_ | split)

theorem State.recallOrder_orderly (s : State) (o : OrderIx) (e : OrderEntry) (resend : Bool)
    (h : OrderlyIn run s) : OrderlyIn run (State.recallOrder s o e resend) := by
  simp only [State.recallOrder]
  repeat (first
    | with_reducible exact h | with_reducible refine State.decideOrder_orderly _ _ _ ?_
    | with_reducible refine State.recall_orderly _ _ ?_ | split)

theorem State.markContext_orderly (s : State) (o : OrderIx) (m : Disposition)
    (h : OrderlyIn run s) : OrderlyIn run (State.markContext s o m) := by
  refine State.onKlc_orderly _ _ ?_ h
  show (s.klc.context.map _).map _ = _
  rw [Option.map_map]
  congr 1
  funext c
  show Context.order (if c.order = o then _ else c) = c.order
  split
  · rename_i hc
    split <;> simp [hc]
  · rfl

theorem State.noticeAttach_orderly (s : State) (o : OrderIx) (role : Role) (at_ : SlotRef) (start due : Nat)
    (h : OrderlyIn run s) : OrderlyIn run (State.noticeAttach s o role at_ start due) := by
  simp only [State.noticeAttach]
  repeat (first
    | with_reducible exact h | with_reducible refine State.queueOrder_orderly _ _ _ ?_ | split)

theorem State.noticeMove_orderly (s : State) (o : OrderIx) (start due : Nat)
    (h : OrderlyIn run s) : OrderlyIn run (State.noticeMove s o start due) := by
  simp only [State.noticeMove]
  repeat (first
    | with_reducible exact h | with_reducible refine State.decideOrder_orderly _ _ _ ?_
    | with_reducible refine State.queueOrder_orderly _ _ _ ?_ | with_reducible refine State.recallOrder_orderly _ _ _ _ ?_
    | with_reducible refine State.markContext_orderly _ _ _ ?_ | split)

theorem State.noticeShortDetach_orderly (s : State) (o : OrderIx)
    (h : OrderlyIn run s) : OrderlyIn run (State.noticeShortDetach s o) := by
  simp only [State.noticeShortDetach]
  repeat (first
    | with_reducible exact h | with_reducible refine State.decideOrder_orderly _ _ _ ?_
    | with_reducible refine State.unqueue_orderly _ _ ?_ | with_reducible refine State.recallOrder_orderly _ _ _ _ ?_
    | with_reducible refine State.markContext_orderly _ _ _ ?_ | split)

theorem State.noticeDeath_orderly (s : State) (o : OrderIx) (k : DeathKind)
    (h : OrderlyIn run s) : OrderlyIn run (State.noticeDeath s o k) := by
  simp only [State.noticeDeath]
  repeat (first
    | with_reducible exact h | with_reducible refine State.decideOrder_orderly _ _ _ ?_
    | with_reducible refine State.unqueue_orderly _ _ ?_ | with_reducible refine State.recallOrder_orderly _ _ _ _ ?_
    | with_reducible refine State.markContext_orderly _ _ _ ?_ | split)

theorem State.notice_orderly (s : State) (x : Notice) (h : OrderlyIn run s) : OrderlyIn run (State.notice s x) := by
  cases x <;> simp only [State.notice] <;>
    first
      | exact h
      | exact State.noticeAttach_orderly _ _ _ _ _ _ h
      | exact State.noticeMove_orderly _ _ _ _ h
      | exact State.noticeShortDetach_orderly _ _ h
      | exact State.noticeDeath_orderly _ _ _ h

theorem State.notices_orderly (s : State) (l : List Notice) (h : OrderlyIn run s) : OrderlyIn run (State.notices s l) := by
  simp only [State.notices]
  repeat (first
    | with_reducible exact h | with_reducible refine State.notice_orderly _ _ ?_
    | with_reducible refine foldl_orderly _ (fun _ _ h => ?_) _ _ ?_ | split)

theorem State.dispose_orderly (s : State) (o : OrderIx) (m : Disposition)
    (h : OrderlyIn run s) : OrderlyIn run (State.dispose s o m) := by
  simp only [State.dispose]
  repeat (first
    | with_reducible exact h | with_reducible refine State.decideOrder_orderly _ _ _ ?_
    | with_reducible refine State.queueOrder_orderly _ _ _ ?_ | with_reducible refine State.recallOrder_orderly _ _ _ _ ?_
    | split)

theorem State.makeDue_orderly (s : State) (o : OrderIx) (h : OrderlyIn run s) : OrderlyIn run (State.makeDue s o) := by
  simp only [State.makeDue]
  repeat (first
    | with_reducible exact h | with_reducible refine State.decideOrder_orderly _ _ _ ?_ | split)

theorem State.cateringMinute_orderly (s : State) (h : OrderlyIn run s) : OrderlyIn run (State.cateringMinute s) := by
  simp only [State.cateringMinute]
  repeat (first
    | with_reducible exact h | with_reducible refine State.makeDue_orderly _ _ ?_
    | with_reducible refine foldl_orderly _ (fun _ _ h => ?_) _ _ ?_ | split)

theorem State.closeQueued_orderly (b : Book) (s : State) (o : OrderIx)
    (h : OrderlyIn run s) : OrderlyIn run (State.closeQueued b s o) := by
  simp only [State.closeQueued]
  repeat (first
    | with_reducible exact h | with_reducible refine State.decideOrder_orderly _ _ _ ?_
    | with_reducible refine State.unqueue_orderly _ _ ?_ | split)

theorem State.closeAccepted_orderly (b : Book) (s : State) (o : OrderIx)
    (h : OrderlyIn run s) : OrderlyIn run (State.closeAccepted b s o) := by
  simp only [State.closeAccepted]
  repeat (first
    | with_reducible exact h | with_reducible refine State.decideOrder_orderly _ _ _ ?_ | split)

theorem State.dayClose_orderly (s : State) (b : Book) (h : OrderlyIn run s) : OrderlyIn run (State.dayClose s b) := by
  simp only [State.dayClose]
  repeat (first
    | with_reducible exact h | with_reducible refine State.closeQueued_orderly _ _ _ ?_
    | with_reducible refine State.closeAccepted_orderly _ _ _ ?_
    | with_reducible refine foldl_orderly _ (fun _ _ h => ?_) _ _ ?_ | split)

theorem State.presentCqu_orderly (s : State) (h : OrderlyIn run s) : OrderlyIn run (State.presentCqu s) := by
  simp only [State.presentCqu]
  repeat (first
    | with_reducible exact h | with_reducible refine State.onCqu_orderly _ _ rfl rfl ?_
    | with_reducible refine State.present_orderly _ _ ?_ | split)

theorem State.cquDone_orderly (s : State) (error : Bool) (h : OrderlyIn run s) : OrderlyIn run (State.cquDone s error) := by
  simp only [State.cquDone]
  repeat (first
    | with_reducible exact h | with_reducible refine State.onCqu_orderly _ _ rfl rfl ?_
    | with_reducible refine State.setFlags_orderly _ _ ?_ | split)

theorem State.assemble_orderly (s : State) (c : Context) (hq : c.order ∉ s.cqu.queue) (hr : c.order ∉ s.cqu.recalls)
    (h : OrderlyIn run s) : OrderlyIn run (State.assemble s c) :=
  State.onKlc_orderly_fresh _ _ c.order rfl hq hr h

theorem State.linkIdle_orderly (s : State) (h : OrderlyIn run s) : OrderlyIn run (State.linkIdle s) :=
  OrderlyIn.of_less (s := s) (Nat.le_refl _) (List.Sublist.refl _) (List.Sublist.refl _) (Or.inl rfl) rfl rfl h

theorem State.haltLink_orderly (s : State) (r : HaltReason) (h : OrderlyIn run s) : OrderlyIn run (State.haltLink s r) := by
  simp only [State.haltLink]
  repeat (first
    | with_reducible exact h | with_reducible refine State.onKlc_orderly _ _ rfl ?_
    | with_reducible refine State.raiseKitchen_orderly _ ?_ | split)

theorem State.recordTotal_orderly (s : State) (o : OrderIx) (total : Nat)
    (h : OrderlyIn run s) : OrderlyIn run (State.recordTotal s o total) := by
  simp only [State.recordTotal]
  repeat (first
    | with_reducible exact h | with_reducible refine State.decideOrder_orderly _ _ _ ?_ | split)

theorem State.assemblyRead_orderly (s : State) (data : Word) (error : Bool)
    (h : OrderlyIn run s) : OrderlyIn run (State.assemblyRead s data error) := by
  simp only [State.assemblyRead]
  repeat (first
    | with_reducible exact h | with_reducible refine State.onKlc_orderly _ _ rfl ?_
    | with_reducible refine State.haltLink_orderly _ _ ?_ | with_reducible refine State.recordTotal_orderly _ _ _ ?_
    | split)

theorem State.lookForWork_orderly (s : State) (h : OrderlyIn run s) : OrderlyIn run (State.lookForWork s) := by
  unfold State.lookForWork
  split
  · split
    · rename_i o rest hl
      have hn : o ∉ rest ∧ o ∉ s.cqu.queue := by
        obtain ⟨⟨q1, q2, q3, q4, q5⟩, w, p⟩ := h
        rw [hl] at q3 q4
        exact ⟨(List.nodup_cons.mp q3).1, fun hq => (q4 o hq).1 (List.mem_cons_self ..)⟩
      refine State.assemble_orderly _ _ hn.2 hn.1 ?_
      refine OrderlyIn.of_less (s := s) (Nat.le_refl _) (List.Sublist.refl _) ?_ (Or.inr rfl) rfl rfl h
      rw [hl]
      exact List.sublist_cons_self ..
    · rename_i hl
      split
      · exact h
      · rename_i o ho
        split
        · exact h
        · refine State.assemble_orderly _ _ ?_ ?_ (State.decideOrder_orderly _ _ _ (State.unqueue_orderly _ _ h))
          · rw [State.decideOrder_queue]
            simp [State.unqueue]
          · rw [State.decideOrder_recalls]
            show o ∉ s.cqu.recalls
            rw [hl]
            exact List.not_mem_nil
  · exact h

/-- An order decided while it is in flight goes on in the context. -/
theorem State.assemble_decided_orderly (s : State) (c : Context) (e : OrderEntry)
    (hc : s.klc.context.map (·.order) = some c.order) (h : OrderlyIn run s) :
    OrderlyIn run ((s.decideOrder c.order e).assemble c) := by
  have hd := State.decideOrder_orderly s c.order e h
  have hn := hd.context_nowhere (o := c.order) (by rw [State.decideOrder_klc]; exact hc)
  exact State.assemble_orderly _ _ hn.1 hn.2 hd

theorem State.ticketAccepted_orderly (s : State) (c : Context) (e : OrderEntry)
    (hc : s.klc.context.map (·.order) = some c.order) (h : OrderlyIn run s) :
    OrderlyIn run (State.ticketAccepted s c e) := by
  unfold State.ticketAccepted
  dsimp only
  split
  · exact State.linkIdle_orderly _ (State.dispose_orderly _ _ _ (State.decideOrder_orderly _ _ _ h))
  · split
    · exact State.assemble_decided_orderly s { c with ticketIndex := e.accepted + 1 + 1 } _ hc h
    · exact State.linkIdle_orderly _ (State.decideOrder_orderly _ _ _ h)

theorem State.recallAccepted_orderly (s : State) (c : Context) (e : OrderEntry)
    (h : OrderlyIn run s) : OrderlyIn run (State.recallAccepted s c e) := by
  simp only [State.recallAccepted]
  repeat (first
    | with_reducible exact h | with_reducible refine State.decideOrder_orderly _ _ _ ?_
    | with_reducible refine State.queueOrder_orderly _ _ _ ?_ | with_reducible refine State.linkIdle_orderly _ ?_ | split)

theorem State.resend_orderly (s : State) (c : Context) (hc : s.klc.context.map (·.order) = some c.order)
    (h : OrderlyIn run s) : OrderlyIn run (State.resend s c) :=
  State.onKlc_orderly _ _ hc.symm h

theorem State.softFault_orderly (s : State) (c : Context) (e : OrderEntry)
    (hc : s.klc.context.map (·.order) = some c.order) (h : OrderlyIn run s) : OrderlyIn run (State.softFault s c e) := by
  unfold State.softFault
  have h1 : OrderlyIn run (s.onKlc fun k => { k with context := some { c with mismatches := 0 } }) :=
    State.onKlc_orderly _ _ hc.symm h
  dsimp only
  split
  · exact State.linkIdle_orderly _ (State.dispose_orderly _ _ _ (State.decideOrder_orderly _ _ _ h1))
  · split
    · exact State.haltLink_orderly _ _ (State.decideOrder_orderly _ _ _ h1)
    · split
      · refine State.resend_orderly _ _ ?_ (State.decideOrder_orderly _ _ _ h1)
        rw [State.decideOrder_klc]
        rfl
      · exact State.linkIdle_orderly _ (State.decideOrder_orderly _ _ _ h1)

theorem State.mismatch_orderly (s : State) (c : Context) (hc : s.klc.context.map (·.order) = some c.order)
    (h : OrderlyIn run s) : OrderlyIn run (State.mismatch s c) := by
  unfold State.mismatch
  dsimp only
  split
  · exact State.resend_orderly _ _ hc h
  · exact State.haltLink_orderly _ _ (State.onKlc_orderly _ _ hc.symm h)

theorem State.validAnswer_orderly (s : State) (station orderNumber ticketIndex : Word) (v : KitchenVerdict)
    (h : OrderlyIn run s) : OrderlyIn run (State.validAnswer s station orderNumber ticketIndex v) := by
  unfold State.validAnswer
  dsimp only
  split
  · split
    · exact State.linkIdle_orderly _ (State.onKlc_orderly _ _ rfl h)
    · exact h
  · split
    · exact h
    · rename_i c hc
      have hg : OrderlyIn run (s.onKlc fun k => { k with gap := true }) := State.onKlc_orderly _ _ rfl h
      have hm : (s.onKlc fun k => { k with gap := true }).klc.context.map (·.order) = some c.order := by
        show s.klc.context.map _ = _
        rw [hc]
        rfl
      split
      · exact h
      · split
        · split
          · exact State.ticketAccepted_orderly _ _ _ hm hg
          · exact State.recallAccepted_orderly _ _ _ hg
          · exact State.softFault_orderly _ _ _ hm hg
          · exact hg
        · split
          · exact h
          · exact State.mismatch_orderly _ _ hm hg

theorem State.presentKlc_orderly (s : State) (h : OrderlyIn run s) : OrderlyIn run (State.presentKlc s) := by
  simp only [State.presentKlc]
  repeat (first
    | with_reducible exact h | with_reducible refine State.present_orderly _ _ ?_ | split)

theorem State.finalDone_orderly (s : State) (error : Bool)
    (h : OrderlyIn run s) : OrderlyIn run (State.finalDone s error) := by
  simp only [State.finalDone]
  repeat (first
    | with_reducible exact h | with_reducible refine State.onKlc_orderly _ _ rfl ?_
    | with_reducible refine State.setFlags_orderly _ _ ?_ | split)

theorem State.kitchenClear_orderly (s : State) (h : OrderlyIn run s) : OrderlyIn run (State.kitchenClear s) := by
  unfold State.kitchenClear
  split
  · exact State.linkIdle_orderly _ h
  · rename_i c hc
    have hk : OrderlyIn run (s.onKlc fun k => { k with halt := .none }) := State.onKlc_orderly _ _ rfl h
    have hm : (s.onKlc fun k => { k with halt := .none }).klc.context.map (·.order) = some c.order := by
      show s.klc.context.map _ = _
      rw [hc]
      rfl
    dsimp only
    split
    · exact State.linkIdle_orderly _ hk
    · split
      · exact State.assemble_decided_orderly _ _ _ hm hk
      · split
        · exact State.assemble_decided_orderly _ { c with ticketIndex := _ } _ hm hk
        · exact State.linkIdle_orderly _ (State.dispose_orderly _ _ _ (State.decideOrder_orderly _ _ _ hk))

theorem State.restartKlc_orderly (s : State) (h : OrderlyIn run s) : OrderlyIn run (State.restartKlc s) := by
  unfold State.restartKlc
  split
  case h_3 => exact State.linkIdle_orderly _ h
  all_goals
    exact OrderlyIn.of_less (s := s) (Nat.le_refl _) (List.Sublist.refl _) (List.Sublist.refl _) (Or.inl rfl) rfl rfl h

theorem State.onExchangeWith_orderly (s : State) (r : Room) (f : Exchange → Exchange)
    (h : OrderlyIn run s) : OrderlyIn run (State.onExchangeWith s r f) := by
  simp only [State.onExchangeWith]
  repeat (first
    | with_reducible exact h | with_reducible refine State.setLoop_orderly _ _ _ ?_ | split)

theorem State.setDirty_orderly (s : State) (r : Room) (h : OrderlyIn run s) : OrderlyIn run (State.setDirty s r) := by
  simp only [State.setDirty]
  repeat (first
    | with_reducible exact h | with_reducible refine State.setPanel_orderly _ _ _ ?_
    | with_reducible refine State.onExchangeWith_orderly _ _ _ ?_ | split)

theorem State.chimeRequest_orderly (s : State) (r : Room) (c : Chime)
    (h : OrderlyIn run s) : OrderlyIn run (State.chimeRequest s r c) := by
  simp only [State.chimeRequest]
  repeat (first
    | with_reducible exact h | with_reducible refine State.setPanel_orderly _ _ _ ?_
    | with_reducible refine State.onExchangeWith_orderly _ _ _ ?_ | with_reducible refine State.setDirty_orderly _ _ ?_
    | split)

theorem State.startRound_orderly (s : State) (l : LoopNo) (h : OrderlyIn run s) : OrderlyIn run (State.startRound s l) := by
  simp only [State.startRound]
  repeat (first
    | with_reducible exact h | with_reducible refine State.setLoop_orderly _ _ _ ?_ | split)

theorem State.makeFast_orderly (s : State) (l : LoopNo) (h : OrderlyIn run s) : OrderlyIn run (State.makeFast s l) := by
  simp only [State.makeFast]
  repeat (first
    | with_reducible exact h | with_reducible refine State.setLoop_orderly _ _ _ ?_ | split)

theorem State.endRound_orderly (s : State) (l : LoopNo) (h : OrderlyIn run s) : OrderlyIn run (State.endRound s l) := by
  simp only [State.endRound]
  repeat (first
    | with_reducible exact h | with_reducible refine State.setLoop_orderly _ _ _ ?_
    | with_reducible refine State.startRound_orderly _ _ ?_ | split)

theorem State.loopMinute_orderly (s : State) (l : LoopNo) (h : OrderlyIn run s) : OrderlyIn run (State.loopMinute s l) := by
  simp only [State.loopMinute]
  repeat (first
    | with_reducible exact h | with_reducible refine State.setLoop_orderly _ _ _ ?_
    | with_reducible refine State.makeFast_orderly _ _ ?_ | split)

theorem State.pluMinute_orderly (s : State) (h : OrderlyIn run s) : OrderlyIn run (State.pluMinute s) := by
  simp only [State.pluMinute]
  repeat (first
    | with_reducible exact h | with_reducible refine State.loopMinute_orderly _ _ ?_
    | with_reducible refine foldl_orderly _ (fun _ _ h => ?_) _ _ ?_ | split)

theorem State.startLoop_orderly (s : State) (l : LoopNo) (h : OrderlyIn run s) : OrderlyIn run (State.startLoop s l) := by
  simp only [State.startLoop]
  repeat (first
    | with_reducible exact h | with_reducible refine State.setLoop_orderly _ _ _ ?_
    | with_reducible refine State.startRound_orderly _ _ ?_ | split)

theorem State.startPanel_orderly (s : State) (r : Room) (h : OrderlyIn run s) : OrderlyIn run (State.startPanel s r) := by
  simp only [State.startPanel]
  repeat (first
    | with_reducible exact h | with_reducible refine State.setPanel_orderly _ _ _ ?_ | split)

theorem State.onOcf_queues (s : State) (f : Ocf → Ocf) (h : QueuesAgree s) : QueuesAgree (s.onOcf f) := h

theorem State.startPlu_queues (s : State) (h : QueuesAgree s) : QueuesAgree (State.startPlu s) := by
  unfold State.startPlu
  refine List.foldlRecOn (motive := QueuesAgree) _ _ ?_ fun u hu l _ => ?_
  · refine List.foldlRecOn (motive := QueuesAgree) _ _ ⟨Nat.zero_le _, h.2⟩ fun u hu r _ => ?_
    unfold State.startPanel
    split <;> exact hu
  · unfold State.startLoop State.startRound
    dsimp only
    split <;> exact hu

theorem State.sendPoll_orderly (s : State) (l : LoopNo) (h : OrderlyIn run s) : OrderlyIn run (State.sendPoll s l) := by
  simp only [State.sendPoll]
  repeat (first
    | with_reducible exact h | with_reducible refine State.setLoop_orderly _ _ _ ?_ | split)

theorem State.exchangeStep_orderly (s : State) (l : LoopNo) (before after : ExchangeStage)
    (h : OrderlyIn run s) : OrderlyIn run (State.exchangeStep s l before after) := by
  simp only [State.exchangeStep]
  repeat (first
    | with_reducible exact h | with_reducible refine State.setLoop_orderly _ _ _ ?_ | split)

theorem State.endExchange_orderly (s : State) (l : LoopNo) (h : OrderlyIn run s) : OrderlyIn run (State.endExchange s l) := by
  simp only [State.endExchange]
  repeat (first
    | with_reducible exact h | with_reducible refine State.setLoop_orderly _ _ _ ?_ | split)

theorem State.missExchange_orderly (s : State) (l : LoopNo)
    (h : OrderlyIn run s) : OrderlyIn run (State.missExchange s l) := by
  simp only [State.missExchange]
  repeat (first
    | with_reducible exact h | with_reducible refine State.setPanel_orderly _ _ _ ?_
    | with_reducible refine State.endExchange_orderly _ _ ?_ | split)

theorem State.swapPositions_orderly (s : State) (l : LoopNo) (a b : Nat)
    (h : OrderlyIn run s) : OrderlyIn run (State.swapPositions s l a b) := by
  simp only [State.swapPositions]
  repeat (first
    | with_reducible exact h | with_reducible refine State.setLoop_orderly _ _ _ ?_ | split)

theorem State.markUninitialised_orderly (s : State) (r : Room)
    (h : OrderlyIn run s) : OrderlyIn run (State.markUninitialised s r) := by
  simp only [State.markUninitialised]
  repeat (first
    | with_reducible exact h | with_reducible refine State.setFilter_orderly _ _ _ ?_ | split)

theorem State.recompose_orderly (s : State) (r : Room) (h : OrderlyIn run s) : OrderlyIn run (State.recompose s r) := by
  simp only [State.recompose]
  repeat (first
    | with_reducible exact h | with_reducible refine State.setRoomState_orderly _ _ _ ?_
    | with_reducible refine State.setDirty_orderly _ _ ?_ | split)

theorem State.recomposeAll_orderly (s : State) (h : OrderlyIn run s) : OrderlyIn run (State.recomposeAll s) := by
  simp only [State.recomposeAll]
  repeat (first
    | with_reducible exact h | with_reducible refine State.recompose_orderly _ _ ?_
    | with_reducible refine foldl_orderly _ (fun _ _ h => ?_) _ _ ?_ | split)

theorem State.mapBookings_orderly (s : State) (r : Room) (f : PoolEntry → PoolEntry)
    (h : OrderlyIn run s) : OrderlyIn run (State.mapBookings s r f) := by
  simp only [State.mapBookings]
  repeat (first
    | with_reducible exact h | with_reducible refine State.setEntry_orderly _ _ _ ?_
    | with_reducible refine foldl_orderly _ (fun _ _ h => ?_) _ _ ?_ | split)

theorem State.applyReport_orderly (r : Room) (s : State) (t : Stamp)
    (h : OrderlyIn run s) : OrderlyIn run (State.applyReport r s t) := by
  simp only [State.applyReport]
  repeat (first
    | with_reducible exact h | with_reducible refine State.setRoomState_orderly _ _ _ ?_
    | with_reducible refine State.mapBookings_orderly _ _ _ ?_ | split)

theorem State.holdReport_orderly (s : State) (r : Room) (t : Stamp)
    (h : OrderlyIn run s) : OrderlyIn run (State.holdReport s r t) := by
  simp only [State.holdReport]
  repeat (first
    | with_reducible exact h | with_reducible refine State.onAtu_orderly _ _ rfl rfl rfl ?_ | split)

theorem State.applyReports_orderly (s : State) (r : Room) (h : OrderlyIn run s) : OrderlyIn run (State.applyReports s r) := by
  simp only [State.applyReports]
  repeat (first
    | with_reducible exact h | with_reducible refine State.onAtu_orderly _ _ rfl rfl rfl ?_
    | with_reducible refine State.applyReport_orderly _ _ _ ?_
    | with_reducible refine foldl_orderly _ (fun _ _ h => ?_) _ _ ?_ | split)

theorem State.holdReturn_orderly (s : State) (r : Room) (t : Stamp)
    (h : OrderlyIn run s) : OrderlyIn run (State.holdReturn s r t) := by
  simp only [State.holdReturn]
  repeat (first
    | with_reducible exact h | with_reducible refine State.onAtu_orderly _ _ rfl rfl rfl ?_ | split)

theorem State.applyReturned_orderly (r : Room) (s : State) (t : Stamp) (h : OrderlyIn run s) :
    OrderlyIn run (State.applyReturned r s t) := by
  simp only [State.applyReturned]
  repeat (first
    | with_reducible exact h | with_reducible refine State.setFilter_orderly _ _ _ ?_
    | with_reducible refine State.mapBookings_orderly _ _ _ ?_ | split)

theorem State.applyReturn_orderly (s : State) (r : Room) (h : OrderlyIn run s) :
    OrderlyIn run (State.applyReturn s r) := by
  simp only [State.applyReturn]
  repeat (first
    | with_reducible exact h | with_reducible refine State.onAtu_orderly _ _ rfl rfl rfl ?_
    | with_reducible refine State.applyReturned_orderly _ _ _ ?_
    | with_reducible refine foldl_orderly _ (fun _ _ h => ?_) _ _ ?_ | split)

theorem State.walkOn_orderly (s : State) (h : OrderlyIn true s) : OrderlyIn true (State.walkOn s) := by
  unfold State.walkOn
  split
  · exact h
  · split <;> exact State.onAtu_orderly_running _ _ h

theorem State.clearRefusals_orderly (s : State) (h : OrderlyIn run s) : OrderlyIn run (State.clearRefusals s) := by
  simp only [State.clearRefusals]
  repeat (first
    | with_reducible exact h | with_reducible refine State.setRoomState_orderly _ _ _ ?_
    | with_reducible refine foldl_orderly _ (fun _ _ h => ?_) _ _ ?_ | split)

theorem State.sweepRoom_orderly (s : State) (r : Room)
    (h : OrderlyIn run s) : OrderlyIn run (State.sweepRoom s r) := by
  simp only [State.sweepRoom]
  repeat (first
    | with_reducible exact h | with_reducible refine State.mapBookings_orderly _ _ _ ?_ | split)

theorem State.warnRoom_orderly (now : Nat) (s : State) (r : Room)
    (h : OrderlyIn run s) : OrderlyIn run (State.warnRoom now s r) := by
  simp only [State.warnRoom]
  repeat (first
    | with_reducible exact h | with_reducible refine State.chimeRequest_orderly _ _ _ ?_ | split)

theorem State.workExpiry_orderly (s : State) (t : Nat) (h : OrderlyIn true s) : OrderlyIn true (State.workExpiry s t) := by
  unfold State.workExpiry
  refine State.onAtu_orderly_running _ _ (State.recomposeAll_orderly _ ?_)
  refine foldl_orderly _ (fun _ _ => State.warnRoom_orderly _ _ _) _ _ ?_
  exact foldl_orderly _ (fun _ _ => State.sweepRoom_orderly _ _) _ _ (State.clearRefusals_orderly _ h)

theorem State.workExpiries_running (s : State) (h : OrderlyIn true s) : OrderlyIn true (State.workExpiries s) := by
  unfold State.workExpiries
  split
  · exact h
  · split
    · exact h
    · refine State.walkOn_orderly _ (foldl_orderly _ (fun _ _ => State.workExpiry_orderly _ _) _ _ ?_)
      exact State.onAtu_orderly_running _ _ h

/-- Outside RUNNING no expiry waits. -/
theorem State.workExpiries_orderly (s : State) (h : OrderlyIn run s) : OrderlyIn run (State.workExpiries s) := by
  by_cases hp : s.ctu.phase = .running
  · have hr := State.workExpiries_running s ⟨h.1, h.2.1, fun _ => hp⟩
    exact ⟨hr.1, hr.2.1, fun _ => hr.2.2 rfl⟩
  · have he := (h.2.1 hp).2.2
    unfold State.workExpiries
    split
    · exact h
    · rw [he]
      exact h

theorem State.atuMinute_orderly (s : State) (h : OrderlyIn true s) : OrderlyIn true (State.atuMinute s) :=
  State.workExpiries_running _ (State.onAtu_orderly_running _ _ h)

theorem State.workWindows_orderly (s : State) (h : OrderlyIn run s) : OrderlyIn run (State.workWindows s) := by
  simp only [State.workWindows]
  repeat (first
    | with_reducible exact h | with_reducible refine State.onPlu_orderly _ _ rfl ?_
    | with_reducible refine State.pluMinute_orderly _ ?_ | split)

/-- START leaves the walk at rest, whatever the phase (R138). -/
theorem State.startAtu_orderly (s : State) (h : QueuesAgree s) : Orderly (State.startAtu s) :=
  State.recomposeAll_orderly _ ⟨h, fun _ => ⟨rfl, rfl, rfl⟩, nofun⟩

theorem State.applyDrafts_orderly (s : State) (h : OrderlyIn run s) : OrderlyIn run (State.applyDrafts s) := by
  simp only [State.applyDrafts]
  repeat (first
    | with_reducible exact h | with_reducible refine State.onAdu_orderly _ _ ?_
    | with_reducible refine foldl_orderly _ (fun _ _ h => ?_) _ _ ?_ | split)

theorem State.applyNotices_orderly (s : State) (h : OrderlyIn run s) : OrderlyIn run (State.applyNotices s) := by
  simp only [State.applyNotices]
  repeat (first
    | with_reducible exact h | with_reducible refine State.applyReports_orderly _ _ ?_
    | with_reducible refine State.applyReturn_orderly _ _ ?_ | with_reducible refine State.applyDrafts_orderly _ ?_
    | with_reducible refine foldl_orderly _ (fun _ _ h => ?_) _ _ ?_)

theorem State.noticesBetweenClaims_orderly (s : State) (h : OrderlyIn run s) :
    OrderlyIn run (State.noticesBetweenClaims s) := by
  unfold State.noticesBetweenClaims
  split
  · exact State.applyNotices_orderly _ h
  · exact h

theorem State.take_orderly (s : State) (c : ClaimSource) (h : Orderly s) : Orderly (State.take s c) := by
  have hn := State.applyNotices_orderly s h
  unfold State.take
  generalize s.applyNotices = u at hn
  cases c
  case minute => exact ⟨hn.1, fun hp => ⟨(hn.2.1 hp).1, rfl, (hn.2.1 hp).2.2⟩, nofun⟩
  all_goals exact hn

theorem State.endClaim_orderly (s : State) (h : Orderly s) : Orderly (State.endClaim s) := by
  unfold State.endClaim
  extract_lets u v
  have hv : Orderly v := State.workExpiries_orderly _ (State.workWindows_orderly _ (State.applyNotices_orderly _ h))
  clear_value v
  split
  · rename_i hw
    by_cases hp : v.ctu.phase = .running
    · exact (State.walkOn_orderly _ ⟨hv.1, hv.2.1, fun _ => hp⟩).forget
    · simp [(hv.2.1 hp).1] at hw
  · exact hv

theorem State.presentTail_orderly (s : State) (h : Orderly s) : Orderly (State.presentTail s) := by
  simp only [State.presentTail]
  repeat (first
    | with_reducible exact h | with_reducible refine State.present_orderly _ _ ?_ | split)

theorem State.presentClaim_orderly (s : State) (h : Orderly s) : Orderly (State.presentClaim s) := by
  simp only [State.presentClaim]
  repeat (first
    | with_reducible exact h | with_reducible refine State.present_orderly _ _ ?_ | split)

theorem State.leaveTail_orderly (s : State) (todo : List WordWrite) (k : TailKind)
    (h : Orderly s) : Orderly (State.leaveTail s todo k) := by
  simp only [State.leaveTail]
  repeat (first
    | with_reducible exact h | with_reducible refine State.onAdu_orderly _ _ ?_ | split)

theorem State.tailDone_orderly (s : State) (error : Bool) (h : Orderly s) : Orderly (State.tailDone s error) := by
  simp only [State.tailDone]
  repeat (first
    | with_reducible exact h | with_reducible refine State.onAdu_orderly _ _ ?_
    | with_reducible refine State.setFlags_orderly _ _ ?_ | split)

theorem State.recomposeToday_orderly (s : State) (b : Book) (r : Room)
    (h : Orderly s) : Orderly (State.recomposeToday s b r) := by
  simp only [State.recomposeToday]
  repeat (first
    | with_reducible exact h | with_reducible refine State.recompose_orderly _ _ ?_ | split)

theorem State.answerPanel_orderly (s : State) (r : Room) (confirmed : Bool)
    (h : Orderly s) : Orderly (State.answerPanel s r confirmed) := by
  simp only [State.answerPanel]
  repeat (first
    | with_reducible exact h | with_reducible refine State.onAtu_orderly _ _ rfl rfl rfl ?_
    | with_reducible refine State.setRoomState_orderly _ _ _ ?_
    | with_reducible refine State.chimeRequest_orderly _ _ _ ?_ | with_reducible refine State.recompose_orderly _ _ ?_
    | split)

theorem State.beginLife_orderly (s : State) (w : LifeWork) (h : Orderly s) : Orderly (State.beginLife s w) := by
  simp only [State.beginLife]
  repeat (first
    | with_reducible exact h | with_reducible refine State.onAdu_orderly _ _ ?_ | split)

theorem State.commitLife_orderly (s : State) (w : LifeWork) (h : Orderly s) : Orderly (State.commitLife s w) := by
  simp only [State.commitLife]
  repeat (first
    | with_reducible exact h | with_reducible refine State.setEntry_orderly _ _ _ ?_
    | with_reducible refine State.freeEntry_orderly _ _ ?_ | with_reducible refine State.notices_orderly _ _ ?_ | split)

theorem State.endLife_orderly (s : State) (w : LifeWork) (h : Orderly s) : Orderly (State.endLife s w) := by
  simp only [State.endLife]
  repeat (first
    | with_reducible exact h | with_reducible refine State.markChanged_orderly _ _ ?_
    | with_reducible refine State.endClaim_orderly _ ?_ | with_reducible refine State.recomposeToday_orderly _ _ _ ?_
    | with_reducible refine State.answerPanel_orderly _ _ _ ?_ | split)

theorem State.lifeWritten_orderly (s : State) (w : LifeWork) (words todo : List WordWrite) (failed second error : Bool)
    (h : Orderly s) : Orderly (State.lifeWritten s w words todo failed second error) := by
  unfold State.lifeWritten
  have h1 : ∀ c, Orderly (s.onAdu fun a => { a with claim := c }) := fun c => h
  generalize (failed || error) = f
  cases second <;> cases f <;> rcases todo.drop 1 with _ | ⟨a, _ | ⟨b, l⟩⟩ <;> dsimp only <;>
    first
      | with_reducible exact h1 _
      | with_reducible exact State.endLife_orderly _ _ (State.leaveTail_orderly _ _ _ (State.commitLife_orderly _ _ (h1 _)))
      | with_reducible exact State.endLife_orderly _ _ (State.leaveTail_orderly _ _ _ (h1 _))
      | with_reducible exact State.commitLife_orderly _ _ (h1 _)
      | exact State.onAdu_orderly _ _ (h1 _)

theorem presentAll_orderly (s : State) (h : Orderly s) : Orderly (presentAll s) := by
  unfold presentAll
  exact State.presentClaim_orderly _ (State.presentTail_orderly _ (State.presentKlc_orderly _ (State.presentCqu_orderly _
    (State.lookForWork_orderly _ h))))

theorem settle_orderly (s : State) (h : Orderly s) : Orderly (settle s) :=
  State.arbitrate_orderly _ (presentAll_orderly s h)

theorem State.release_orderly (s : State) (h : Orderly s) : Orderly (State.release s) := by
  simp only [State.release]
  repeat (first
    | with_reducible exact h | with_reducible refine State.present_orderly _ _ ?_
    | with_reducible refine State.arbitrate_orderly _ ?_ | with_reducible refine State.presentTail_orderly _ ?_ | split)

theorem State.drop_orderly (s : State) (h : Orderly s) : Orderly (State.drop s) := by
  unfold State.drop
  exact State.onMps_orderly _ _ h

theorem State.endAdmission_orderly (s : State) (a : Admission) (withheld confirmed : Bool)
    (h : Orderly s) : Orderly (State.endAdmission s a withheld confirmed) := by
  simp only [State.endAdmission]
  repeat (first
    | with_reducible exact h | with_reducible refine State.endClaim_orderly _ ?_
    | with_reducible refine State.answerPanel_orderly _ _ _ ?_ | with_reducible refine State.release_orderly _ ?_
    | with_reducible refine State.drop_orderly _ ?_ | split)

theorem State.withhold_orderly (s : State) (a : Admission) (j : Judged) (kind : Kind)
    (h : Orderly s) : Orderly (State.withhold s a j kind) := by
  simp only [State.withhold]
  repeat (first
    | with_reducible exact h | with_reducible refine State.presentTrap_orderly _ _ ?_
    | with_reducible refine State.endAdmission_orderly _ _ _ _ ?_ | split)

theorem State.commitRefusal_orderly (s : State) (at_ : SlotRef) (r : Reason)
    (h : Orderly s) : Orderly (State.commitRefusal s at_ r) := by
  simp only [State.commitRefusal]
  repeat (first
    | with_reducible exact h | with_reducible refine State.setEntry_orderly _ _ _ ?_ | split)

theorem State.commit_orderly (s : State) (a : Admission) (o : Judgement)
    (h : Orderly s) : Orderly (State.commit s a o) := by
  simp only [State.commit]
  repeat (first
    | with_reducible exact h | with_reducible refine State.takeEntry_orderly _ _ ?_
    | with_reducible refine State.freeEntry_orderly _ _ ?_ | with_reducible refine State.changeEntry_orderly _ _ _ ?_
    | with_reducible refine State.notices_orderly _ _ ?_ | with_reducible refine State.commitRefusal_orderly _ _ _ ?_
    | split)

theorem State.reportTraps_orderly (s : State) (a : Admission) (j : Judged) (interval : Nat × Nat)
    (h : Orderly s) : Orderly (State.reportTraps s a j interval) := by
  simp only [State.reportTraps]
  repeat (first
    | with_reducible exact h | with_reducible refine State.setFlags_orderly _ _ ?_
    | with_reducible refine State.presentTrap_orderly _ _ ?_ | split)

theorem State.finishAdmission_orderly (s : State) (a : Admission) (j : Judged) (wrote : Bool) (back : List Word)
    (h : Orderly s) : Orderly (State.finishAdmission s a j wrote back) := by
  simp only [State.finishAdmission]
  repeat (first
    | with_reducible exact h | with_reducible refine State.markChanged_orderly _ _ ?_
    | with_reducible refine State.recomposeToday_orderly _ _ _ ?_
    | with_reducible refine State.endAdmission_orderly _ _ _ _ ?_ | with_reducible refine State.commit_orderly _ _ _ ?_
    | with_reducible refine State.reportTraps_orderly _ _ _ _ ?_ | split)

theorem State.beginWriting_orderly (s : State) (a : Admission) (j : Judged) (back : List Word) (second : Bool)
    (h : Orderly s) : Orderly (State.beginWriting s a j back second) := by
  simp only [State.beginWriting]
  repeat (first
    | with_reducible exact h | with_reducible refine State.onAdu_orderly _ _ ?_
    | with_reducible refine State.finishAdmission_orderly _ _ _ _ _ ?_ | split)

theorem State.decideAdmission_orderly (s : State) (a : Admission) (p : Proposal)
    (h : Orderly s) : Orderly (State.decideAdmission s a p) := by
  simp only [State.decideAdmission]
  repeat (first
    | with_reducible exact h | with_reducible refine State.withhold_orderly _ _ _ _ ?_
    | with_reducible refine State.beginWriting_orderly _ _ _ _ _ ?_ | split)

theorem State.advanceAdmission_orderly (s : State) (a : Admission) (got : List (Option Word))
    (h : Orderly s) : Orderly (State.advanceAdmission s a got) := by
  simp only [State.advanceAdmission]
  repeat (first
    | with_reducible exact h | with_reducible refine State.onAdu_orderly _ _ ?_
    | with_reducible refine State.decideAdmission_orderly _ _ _ ?_ | split)

theorem State.voidMemory_orderly (s : State) (a : Admission) (back : List Word)
    (h : Orderly s) : Orderly (State.voidMemory s a back) := by
  simp only [State.voidMemory]
  repeat (first
    | with_reducible exact h | with_reducible refine State.finishAdmission_orderly _ _ _ _ _ ?_
    | with_reducible refine State.beginWriting_orderly _ _ _ _ _ ?_ | split)

theorem State.presentLast_orderly (s : State) (rest : List WordWrite) (h : Orderly s) :
    Orderly (State.presentLast s rest) := by
  unfold State.presentLast
  exact State.arbitrate_orderly _ (State.presentTail_orderly _ (State.leaveTail_orderly _ _ _ h))

theorem State.admissionWritten_orderly (s : State) (a : Admission) (j : Judged) (back : List Word) (todo : List WordWrite)
    (second error : Bool)
    (h : Orderly s) : Orderly (State.admissionWritten s a j back todo second error) := by
  unfold State.admissionWritten
  dsimp only
  split
  · exact State.voidMemory_orderly _ _ _ h
  · rcases todo.drop 1 with _ | ⟨a, _ | ⟨b, l⟩⟩
    · exact State.onAdu_orderly _ _ h
    · exact State.finishAdmission_orderly _ _ _ _ _ (State.presentLast_orderly _ _ h)
    · exact State.onAdu_orderly _ _ h

theorem State.backReadDone_orderly (s : State) (a : Admission) (j : Judged) (got : List (Option Word))
    (h : Orderly s) : Orderly (State.backReadDone s a j got) := by
  unfold State.backReadDone
  split
  · exact State.beginWriting_orderly _ _ _ _ _ h
  · exact State.finishAdmission_orderly _ _ _ _ _ h
  · exact State.onAdu_orderly _ _ h

theorem State.takeRequest_orderly (s : State) (rk : RequestKind) (go : State → RequestClaim → State)
    (hg : ∀ s r, Orderly s → Orderly (go s r))
    (h : Orderly s) : Orderly (State.takeRequest s rk go) := by
  simp only [State.takeRequest]
  repeat (first
    | with_reducible exact h | with_reducible refine State.take_orderly _ _ ?_ | with_reducible refine hg _ _ ?_
    | split)

theorem State.requestNone_orderly (s : State) (r : RequestClaim)
    (h : Orderly s) : Orderly (State.requestNone s r) := by
  simp only [State.requestNone]
  repeat (first
    | with_reducible exact h | with_reducible refine State.setSlot_orderly _ _ _ ?_
    | with_reducible refine State.endClaim_orderly _ ?_ | with_reducible refine State.release_orderly _ ?_ | split)

theorem State.beginRequest_orderly (k : AdmissionKind) (s : State) (r : RequestClaim)
    (h : Orderly s) : Orderly (State.beginRequest k s r) := by
  simp only [State.beginRequest]
  repeat (first
    | with_reducible exact h | with_reducible refine State.advanceAdmission_orderly _ _ _ ?_ | split)

theorem State.takePanel_orderly (s : State) (b : Button) (go : State → PanelEvent → State) (hg : ∀ s e, Orderly s → Orderly
    (go s e))
    (h : Orderly s) : Orderly (State.takePanel s b go) := by
  simp only [State.takePanel]
  repeat (first
    | with_reducible exact h | with_reducible refine State.take_orderly _ _ ?_ | with_reducible refine hg _ _ ?_
    | split)

/-- A minute expiry reaches the blocks in RUNNING (R96). -/
theorem State.minuteReaches_orderly (s : State) (h : OrderlyIn true s) : OrderlyIn true (State.minuteReaches s) := by
  unfold State.minuteReaches
  refine State.atuMinute_orderly _ (State.workWindows_orderly _ (State.onPlu_orderly _ _ rfl ?_))
  exact State.cateringMinute_orderly _ (State.noticesBetweenClaims_orderly _ h)

theorem State.minuteExpiry_orderly (s : State) (h : Orderly s) : Orderly (State.minuteExpiry s) := by
  unfold State.minuteExpiry
  split
  · exact h
  · exact State.onClock_orderly _ _ h
  · rename_i hr
    exact (State.minuteReaches_orderly _ ⟨h.1, h.2.1, fun _ => hr⟩).forget

theorem State.dayEndActs_orderly (s : State) (h : OrderlyIn run s) : OrderlyIn run s.dayEndActs := by
  unfold State.dayEndActs
  exact State.dayClose_orderly _ _ (State.onBsc_orderly _ _ (State.onClock_orderly _ _ (State.noticesBetweenClaims_orderly _ h)))

theorem State.dayEndExpiry_orderly (s : State) (h : Orderly s) : Orderly (State.dayEndExpiry s) := by
  unfold State.dayEndExpiry
  split
  · exact h
  · exact State.onClock_orderly _ _ h
  · split
    · exact State.onClock_orderly _ _ h
    · exact State.dayEndActs_orderly _ h

theorem State.carry_orderly (s : State) (h : Orderly s) : Orderly (State.carry s) := by
  unfold State.carry
  split
  · exact State.minuteExpiry_orderly _ (State.onClock_orderly _ _ h)
  · exact State.minuteExpiry_orderly _ (State.dayEndExpiry_orderly _ (State.onClock_orderly _ _ h))

theorem State.pulse_orderly (s : State) (h : Orderly s) : Orderly (State.pulse s) := by
  unfold State.pulse
  split
  · exact h
  · split
    · exact State.onClock_orderly _ _ h
    · exact State.carry_orderly _ h

/-- The deferred marks are taken in RUNNING (R96). -/
theorem State.takeDeferred_orderly (s : State) (h : OrderlyIn true s) : OrderlyIn true s.takeDeferred := by
  unfold State.takeDeferred
  extract_lets t
  have h1 : OrderlyIn true t := by
    show OrderlyIn true (if s.clock.deferredDayEnd = true then _ else s)
    split
    · exact State.dayEndActs_orderly _ (State.onClock_orderly _ _ h)
    · exact h
  clear_value t
  split
  · exact State.minuteReaches_orderly _ (State.onClock_orderly _ _ h1)
  · exact h1

/-- A phase that becomes RUNNING lets the walk go (R96). -/
theorem State.onCtu_orderly_running (s : State) (f : Ctu → Ctu) (hf : (f s.ctu).phase = .running) (h : Orderly s) :
    OrderlyIn true (s.onCtu f) :=
  ⟨h.1, fun hp => absurd hf hp, fun _ => hf⟩

theorem State.passEnd_orderly (s : State) (h : Orderly s) : Orderly (State.passEnd s) := by
  unfold State.passEnd
  have hu : Orderly (s.onBsc fun _ => {}).raiseScan := State.raiseScan_orderly _ (State.onBsc_orderly _ _ h)
  generalize s.bsc.pass = pass
  generalize (s.onBsc fun _ => {}).raiseScan = u at hu ⊢
  cases pass <;> dsimp only
  case clean => exact (State.takeDeferred_orderly _ (State.onCtu_orderly_running _ _ rfl hu)).forget
  case keep => exact (State.takeDeferred_orderly _ (State.onCtu_orderly_running _ _ rfl hu)).forget
  case turnover =>
    split
    · exact State.dayEndActs_orderly _ (State.onClock_orderly _ _ hu)
    · exact hu
  case none => exact hu

theorem State.visitEnded_orderly (s : State) (h : Orderly s) : Orderly (State.visitEnded s) := by
  unfold State.visitEnded
  have h1 := State.endClaim_orderly _ h
  generalize s.endClaim = t at h1 ⊢
  dsimp only
  split
  · exact State.onBsc_orderly _ _ h1
  · exact State.passEnd_orderly _ h1

theorem State.visitWritten_orderly (s : State) (todo : List WordWrite) (again : List WordWrite → Claim)
    (h : Orderly s) : Orderly (State.visitWritten s todo again) := by
  unfold State.visitWritten
  rcases todo.drop 1 with _ | ⟨a, _ | ⟨b, l⟩⟩
  · exact State.onAdu_orderly _ _ h
  · exact State.visitEnded_orderly _ (State.leaveTail_orderly _ _ _ h)
  · exact State.onAdu_orderly _ _ h

theorem State.clearSlot_orderly (s : State) (r : SlotRef) (h : Orderly s) : Orderly (State.clearSlot s r) := by
  simp only [State.clearSlot]
  repeat (first
    | with_reducible exact h | with_reducible refine State.setSlot_orderly _ _ _ ?_ | split)

theorem State.beginClean_orderly (s : State) (h : Orderly s) : Orderly (State.beginClean s) := by
  simp only [State.beginClean]
  repeat (first
    | with_reducible exact h | with_reducible refine State.onAdu_orderly _ _ ?_
    | with_reducible refine State.clearSlot_orderly _ _ ?_ | split)

theorem State.turnoverFree_orderly (s : State) (r : SlotRef)
    (h : Orderly s) : Orderly (State.turnoverFree s r) := by
  simp only [State.turnoverFree]
  repeat (first
    | with_reducible exact h | with_reducible refine State.freeEntry_orderly _ _ ?_
    | with_reducible refine State.markChanged_orderly _ _ ?_ | with_reducible refine State.notices_orderly _ _ ?_ | split)

theorem State.beginTurnover_orderly (s : State) (h : Orderly s) : Orderly (State.beginTurnover s) := by
  simp only [State.beginTurnover]
  repeat (first
    | with_reducible exact h | with_reducible refine State.onAdu_orderly _ _ ?_
    | with_reducible refine State.turnoverFree_orderly _ _ ?_ | split)

theorem State.openTurnover_orderly (s : State) (h : Orderly s) : Orderly (State.openTurnover s) := by
  simp only [State.openTurnover]
  exact State.endClaim_orderly _ (State.onBsc_orderly _ _ (State.onAdu_orderly _ _ h))

theorem State.endKeep_orderly (s : State) (r : SlotRef) (rebuilt : Bool)
    (h : Orderly s) : Orderly (State.endKeep s r rebuilt) := by
  simp only [State.endKeep]
  repeat (first
    | with_reducible exact h | with_reducible refine State.recomposeToday_orderly _ _ _ ?_
    | with_reducible refine State.visitEnded_orderly _ ?_ | split)

theorem State.keepWrite_orderly (s : State) (r : SlotRef) (rebuilt : Bool) (l : List WordWrite)
    (h : Orderly s) : Orderly (State.keepWrite s r rebuilt l) := by
  simp only [State.keepWrite]
  repeat (first
    | with_reducible exact h | with_reducible refine State.onAdu_orderly _ _ ?_
    | with_reducible refine State.markChanged_orderly _ _ ?_ | split)

theorem State.handOver_orderly (s : State) (o : OrderIx) (fate : Fate) (st : Option OrderState) (resend : Bool)
    (e : OrderEntry) (h : Orderly s) : Orderly (s.handOver o fate st resend e).1 := by
  unfold State.handOver
  dsimp only
  split
  · exact h
  · rcases fate with _ | _ | _ <;> rcases st with _ | (_ | _ | _ | _ | _ | _ | _ | _ | _ | _) <;>
      (try dsimp only) <;> (try split) <;>
      first
        | with_reducible exact h
        | with_reducible exact State.queueOrder_orderly _ _ _ h
        | with_reducible exact State.decideOrder_orderly _ _ _ h
        | with_reducible exact State.recallOrder_orderly _ _ _ _ h
        | with_reducible exact State.enqueue_orderly _ _ (State.decideOrder_orderly _ _ _ h)

theorem State.keepHandOver_orderly (s : State) (r : SlotRef) (t : Taken) (k : KeepReads) (j : KeepJudgement)
    (h : Orderly s) : Orderly (s.keepHandOver r t k j).1 := by
  unfold State.keepHandOver
  split
  · exact h
  · dsimp only
    split
    · exact h
    · exact State.handOver_orderly _ _ _ _ _ _ h

theorem State.judgeKeep_orderly (s : State) (r : SlotRef) (t : Taken) (k : KeepReads)
    (h : Orderly s) : Orderly (State.judgeKeep s r t k) := by
  have hh : ∀ j, Orderly (s.keepHandOver r t k j).1 := fun j => State.keepHandOver_orderly s r t k j h
  simp only [State.judgeKeep]
  split
  · exact State.endKeep_orderly _ _ _ h
  · split
    · exact State.keepWrite_orderly _ _ _ _ (State.setFlags_orderly _ _ (hh _))
    · exact State.keepWrite_orderly _ _ _ _ (hh _)
    · split
      · exact State.keepWrite_orderly _ _ _ _ (State.takeEntry_orderly _ _ (hh _))
      · exact State.endKeep_orderly _ _ _ (State.takeEntry_orderly _ _ (hh _))

theorem State.advanceKeep_orderly (s : State) (r : SlotRef) (t : Taken) (got : List (Option Word))
    (h : Orderly s) : Orderly (State.advanceKeep s r t got) := by
  simp only [State.advanceKeep]
  repeat (first
    | with_reducible exact h
    | with_reducible refine State.onAdu_orderly _ _ ?_
    | with_reducible refine State.judgeKeep_orderly _ _ _ _ ?_ | split)

theorem State.keepReadDone_orderly (s : State) (r : SlotRef) (t : Taken) (got : List (Option Word)) (data : Word)
    (error : Bool)
    (h : Orderly s) : Orderly (State.keepReadDone s r t got data error) := by
  simp only [State.keepReadDone]
  repeat (first
    | with_reducible exact h
    | with_reducible refine State.advanceKeep_orderly _ _ _ _ ?_
    | with_reducible refine State.setFlags_orderly _ _ ?_
    | with_reducible refine State.keepWrite_orderly _ _ _ _ ?_ | split)

theorem State.beginKeep_orderly (s : State) (h : Orderly s) : Orderly (State.beginKeep s) := by
  simp only [State.beginKeep]
  repeat (first
    | with_reducible exact h | with_reducible refine State.onAdu_orderly _ _ ?_ | split)

theorem State.claimAccessDone_orderly (s : State) (data : Word) (error : Bool)
    (h : Orderly s) : Orderly (State.claimAccessDone s data error) := by
  unfold State.claimAccessDone
  have hf : Orderly (if error = true then s.setFlags flagMemerr else s) := by
    split
    · exact State.setFlags_orderly _ _ h
    · exact h
  split
  · exact h
  · split <;> (try dsimp only)
    · exact State.advanceAdmission_orderly _ _ _ h
    · exact State.backReadDone_orderly _ _ _ _ h
    · exact State.admissionWritten_orderly _ _ _ _ _ _ _ h
    · exact State.lifeWritten_orderly _ _ _ _ _ _ _ h
    · exact State.visitWritten_orderly _ _ _ hf
    · exact State.visitWritten_orderly _ _ _ hf
    · exact State.keepReadDone_orderly _ _ _ _ _ _ h
    · split
      · exact State.endKeep_orderly _ _ _ (State.leaveTail_orderly _ _ _ hf)
      · exact State.onAdu_orderly _ _ hf

theorem State.takeVisit_orderly (s : State) (pass : PassKind) (opening : Bool) (go : State → State)
    (hg : ∀ s, Orderly s → Orderly (go s))
    (h : Orderly s) : Orderly (State.takeVisit s pass opening go) := by
  simp only [State.takeVisit]
  repeat (first
    | with_reducible exact h | with_reducible refine State.take_orderly _ _ ?_ | with_reducible refine hg _ ?_ | split)

theorem State.beginMinute_orderly (s : State) (c : MinuteClaim)
    (h : Orderly s) : Orderly (State.beginMinute s c) := by
  simp only [State.beginMinute]
  repeat (first
    | with_reducible exact h | with_reducible refine State.endClaim_orderly _ ?_
    | with_reducible refine State.beginLife_orderly _ _ ?_ | split)

theorem State.takeMinute_orderly (s : State) (rows : List WalkRow)
    (h : Orderly s) : Orderly (State.takeMinute s rows) := by
  simp only [State.takeMinute]
  repeat (first
    | with_reducible exact h | with_reducible refine State.take_orderly _ _ ?_
    | with_reducible refine State.beginMinute_orderly _ _ ?_ | split)

theorem State.takeEvent_orderly (s : State) (h : Orderly s) : Orderly (State.takeEvent s) := by
  unfold State.takeEvent
  split
  · exact h
  · rename_i ev rest he
    split
    · refine State.onAtu_orderly _ _ rfl rfl rfl ?_
      refine OrderlyIn.of_less (s := s) ?_ (List.Sublist.refl _) (List.Sublist.refl _) (Or.inr rfl) rfl rfl h
      rw [he]
      exact Nat.le_succ _
    · exact h

theorem State.beginPanelLife_orderly (s : State) (b : Nat × PoolEntry) (change : LifeChange)
    (h : Orderly s) : Orderly (State.beginPanelLife s b change) := by
  simp only [State.beginPanelLife]
  repeat (first
    | with_reducible exact h | with_reducible refine State.beginLife_orderly _ _ ?_ | split)

theorem State.beginCheckin_orderly (s : State) (ev : PanelEvent)
    (h : Orderly s) : Orderly (State.beginCheckin s ev) := by
  simp only [State.beginCheckin]
  repeat (first
    | with_reducible exact h | with_reducible refine State.endClaim_orderly _ ?_
    | with_reducible refine State.answerPanel_orderly _ _ _ ?_
    | with_reducible refine State.beginPanelLife_orderly _ _ _ ?_ | split)

theorem State.beginEnd_orderly (s : State) (ev : PanelEvent) (h : Orderly s) : Orderly (State.beginEnd s ev) := by
  simp only [State.beginEnd]
  repeat (first
    | with_reducible exact h | with_reducible refine State.endClaim_orderly _ ?_
    | with_reducible refine State.answerPanel_orderly _ _ _ ?_
    | with_reducible refine State.beginPanelLife_orderly _ _ _ ?_ | split)

theorem State.draftNotice_orderly (s : State) (r : SlotRef) (h : Orderly s) : Orderly (State.draftNotice s r) := by
  simp only [State.draftNotice]
  repeat (first
    | with_reducible exact h | with_reducible refine State.onAdu_orderly _ _ ?_ | split)

theorem State.linkGood_orderly (s : State) (r : Room) (h : Orderly s) : Orderly (State.linkGood s r) := by
  simp only [State.linkGood]
  repeat (first
    | with_reducible exact h | with_reducible refine State.setPanel_orderly _ _ _ ?_
    | with_reducible refine State.setDirty_orderly _ _ ?_ | with_reducible refine State.markUninitialised_orderly _ _ ?_
    | with_reducible refine State.holdReturn_orderly _ _ _ ?_ | split)

theorem State.settleMarks_orderly (s : State) (l : LoopNo) (r : Room)
    (h : Orderly s) : Orderly (State.settleMarks s l r) := by
  simp only [State.settleMarks]
  repeat (first
    | with_reducible exact h | with_reducible refine State.setPanel_orderly _ _ _ ?_ | split)

theorem State.takeSample_orderly (s : State) (r : Room) (count : Nat)
    (h : Orderly s) : Orderly (State.takeSample s r count) := by
  simp only [State.takeSample]
  repeat (first
    | with_reducible exact h | with_reducible refine State.setFilter_orderly _ _ _ ?_
    | with_reducible refine State.present_orderly _ _ ?_ | with_reducible refine State.makeFast_orderly _ _ ?_
    | with_reducible refine State.holdReport_orderly _ _ _ ?_ | split)

theorem State.handCount_orderly (s : State) (r : Room) (page : Bool) (count : Nat)
    (h : Orderly s) : Orderly (State.handCount s r page count) := by
  simp only [State.handCount]
  repeat (first
    | with_reducible exact h | with_reducible refine State.takeSample_orderly _ _ _ ?_ | split)

theorem State.buttonEvent_orderly (s : State) (l : LoopNo) (r : Room) (x : Button) (arg : Nat) (tag : BitVec 3)
    (h : OrderlyIn run s) : OrderlyIn run (State.buttonEvent s l r x arg tag) := by
  unfold State.buttonEvent
  dsimp only
  split
  · exact h
  · split
    · exact State.setPanel_orderly _ _ _ h
    · split
      · rename_i hl
        refine State.makeFast_orderly _ _ (State.setPanel_orderly _ _ _ ⟨⟨?_, h.1.2⟩, h.2⟩)
        show (s.plu.events ++ [_]).length ≤ 24
        rw [List.length_append]
        exact hl
      · exact State.makeFast_orderly _ _ h

theorem State.goodReply_orderly (s : State) (l : LoopNo) (x : Exchange) (bs : List Byte)
    (h : Orderly s) : Orderly (State.goodReply s l x bs) := by
  simp only [State.goodReply]
  repeat (first
    | with_reducible exact h | with_reducible refine settle_orderly _ ?_
    | with_reducible refine State.linkGood_orderly _ _ ?_ | with_reducible refine State.settleMarks_orderly _ _ _ ?_
    | with_reducible refine State.handCount_orderly _ _ _ _ ?_
    | with_reducible refine State.buttonEvent_orderly _ _ _ _ _ _ ?_ | split)

theorem State.reply_orderly (s : State) (l : LoopNo) (bs : List Byte)
    (h : Orderly s) : Orderly (State.reply s l bs) := by
  simp only [State.reply]
  repeat (first
    | with_reducible exact h | with_reducible refine State.endExchange_orderly _ _ ?_
    | with_reducible refine State.missExchange_orderly _ _ ?_ | with_reducible refine State.goodReply_orderly _ _ _ _ ?_
    | split)

theorem State.hardwareReset_orderly (straps : BitVec 3) (s : State) : Orderly (State.hardwareReset straps s) := by
  refine ⟨⟨Nat.zero_le _, List.nodup_nil, List.nodup_nil, nofun, nofun⟩, fun _ => ⟨rfl, rfl, rfl⟩, nofun⟩

theorem State.endOfReset_orderly (s : State) (h : Orderly s) : Orderly (State.endOfReset s) := by
  unfold State.endOfReset
  split
  · exact State.onMps_orderly _ _ h
  · exact h

theorem State.restart_orderly (s : State) : Orderly (State.restart s) :=
  ⟨⟨Nat.zero_le _, List.nodup_nil, List.nodup_nil, nofun, nofun⟩, fun _ => ⟨rfl, rfl, rfl⟩, nofun⟩

theorem State.loadClock_orderly (s : State) (w : Word) (h : Orderly s) : Orderly (State.loadClock s w) := by
  unfold State.loadClock
  split
  · exact State.onCtu_orderly _ _ rfl (State.onClock_orderly _ _ h)
  · exact State.onCtu_orderly _ _ rfl h

theorem State.loadBank_orderly (s : State) (w : Word) (h : Orderly s) : Orderly (State.loadBank s w) := by
  simp only [State.loadBank]
  repeat (first
    | with_reducible exact h | with_reducible refine State.onClock_orderly _ _ ?_ | split)

theorem State.storeSetting_orderly (s : State) (n : Nat) (data : Word) (lanes : Lanes)
    (h : Orderly s) : Orderly (State.storeSetting s n data lanes) := by
  simp only [State.storeSetting]
  repeat (first
    | with_reducible exact h | with_reducible refine State.onCtu_orderly _ _ rfl ?_
    | with_reducible refine State.loadClock_orderly _ _ ?_ | with_reducible refine State.loadBank_orderly _ _ ?_ | split)

theorem State.setCommand_orderly (s : State) (w : Word) (st : CommandStatus) (r : CommandReason)
    (h : Orderly s) : Orderly (State.setCommand s w st r) := by
  simp only [State.setCommand]
  repeat (first
    | with_reducible exact h | with_reducible refine State.onCtu_orderly _ _ rfl ?_ | split)

theorem State.start_orderly (s : State) (k : StartKind) (h : Orderly s) : Orderly (s.start k) := by
  unfold State.start
  exact State.startAtu_orderly _ (State.onOcf_queues _ _ (State.startPlu_queues _ h.1))

theorem State.rebase_orderly (s : State) (w : Word) (h : Orderly s) : Orderly (State.rebase s w) := by
  simp only [State.rebase]
  repeat (first
    | with_reducible exact h | with_reducible refine State.markUninitialised_orderly _ _ ?_
    | with_reducible refine foldl_orderly _ (fun _ _ h => ?_) _ _ ?_ | split)

theorem State.carryOut_orderly (s : State) (c : CommandCode) (w : Word)
    (h : Orderly s) : Orderly (State.carryOut s c w) := by
  simp only [State.carryOut]
  repeat (first
    | with_reducible exact h | with_reducible refine State.kitchenClear_orderly _ ?_
    | with_reducible refine State.swapPositions_orderly _ _ _ _ ?_ | with_reducible refine State.restart_orderly _
    | with_reducible refine State.start_orderly _ _ ?_ | with_reducible refine State.rebase_orderly _ _ ?_ | split)

theorem State.commandWrite_orderly (s : State) (w : Word) (h : Orderly s) : Orderly (State.commandWrite s w) := by
  unfold State.commandWrite
  split
  · exact State.setCommand_orderly _ _ _ _ h
  · exact State.setCommand_orderly _ _ _ _ (State.carryOut_orderly _ _ _ h)

theorem State.trapTaken_orderly (s : State) (h : Orderly s) : Orderly (State.trapTaken s) := by
  simp only [State.trapTaken]
  repeat (first
    | with_reducible exact h | with_reducible refine State.onCtu_orderly _ _ rfl ?_ | split)

theorem State.clearCauses_orderly (s : State) (w : Word) (h : Orderly s) : Orderly (State.clearCauses s w) := by
  simp only [State.clearCauses]
  repeat (first
    | with_reducible exact h | with_reducible refine State.onCtu_orderly _ _ rfl ?_ | split)

theorem State.act_orderly (s : State) (n : Nat) (w : Word) (h : Orderly s) : Orderly (State.act s n w) := by
  simp only [State.act]
  repeat (first
    | with_reducible exact h | with_reducible refine State.clearFlags_orderly _ _ ?_
    | with_reducible refine State.commandWrite_orderly _ _ ?_ | with_reducible refine State.trapTaken_orderly _ ?_
    | with_reducible refine State.clearCauses_orderly _ _ ?_ | split)

theorem State.frameSent_orderly (s : State) (h : Orderly s) : Orderly (State.frameSent s) := by
  simp only [State.frameSent]
  repeat (first
    | with_reducible exact h | with_reducible refine State.onKlc_orderly _ _ rfl ?_ | split)

theorem State.kitchenAnswer_orderly (s : State) (sync station orderNumber ticketIndex verdict checksum : Word)
    (h : Orderly s) : Orderly (State.kitchenAnswer s sync station orderNumber ticketIndex verdict checksum) := by
  simp only [State.kitchenAnswer]
  repeat (first
    | with_reducible exact h | with_reducible refine State.validAnswer_orderly _ _ _ _ _ ?_ | split)

theorem State.frameResend_orderly (s : State) (h : Orderly s) : Orderly (State.frameResend s) := by
  simp only [State.frameResend]
  repeat (first
    | with_reducible exact h | with_reducible refine State.onKlc_orderly _ _ rfl ?_ | split)

theorem State.answerWaitExpiry_orderly (s : State) (h : Orderly s) : Orderly (State.answerWaitExpiry s) := by
  simp only [State.answerWaitExpiry]
  repeat (first
    | with_reducible exact h | with_reducible refine State.onKlc_orderly _ _ rfl ?_
    | with_reducible refine State.linkIdle_orderly _ ?_ | with_reducible refine State.haltLink_orderly _ _ ?_ | split)

theorem State.nextFrameGapEnd_orderly (s : State) (h : Orderly s) : Orderly (State.nextFrameGapEnd s) := by
  simp only [State.nextFrameGapEnd]
  repeat (first
    | with_reducible exact h | with_reducible refine State.onKlc_orderly _ _ rfl ?_ | split)

theorem State.toMemory_orderly (s : State) (a : HostAccess) (h : Orderly s) : Orderly (State.toMemory s a) := by
  simp only [State.toMemory]
  repeat (first
    | with_reducible exact h | with_reducible refine State.onMps_orderly _ _ ?_
    | with_reducible refine State.present_orderly _ _ ?_ | split)

theorem State.completeHost_orderly (s : State) (data : Option Word) (error : Bool)
    (h : Orderly s) : Orderly (State.completeHost s data error) := by
  simp only [State.completeHost]
  repeat (first
    | with_reducible exact h | with_reducible refine State.onMps_orderly _ _ ?_ | split)

theorem State.withholdWrite_orderly (s : State) (h : Orderly s) : Orderly (State.withholdWrite s) := by
  simp only [State.withholdWrite]
  repeat (first
    | with_reducible exact h | with_reducible refine State.setFlags_orderly _ _ ?_
    | with_reducible refine State.completeHost_orderly _ _ _ ?_ | split)

theorem State.readControl_orderly (s : State) (n : Nat) (lanes : Lanes)
    (h : Orderly s) : Orderly (State.readControl s n lanes) := by
  simp only [State.readControl]
  repeat (first
    | with_reducible exact h | with_reducible refine State.onCtu_orderly _ _ rfl ?_
    | with_reducible refine State.completeHost_orderly _ _ _ ?_ | split)

theorem State.writeControl_orderly (s : State) (n : Nat) (a : HostAccess)
    (h : Orderly s) : Orderly (State.writeControl s n a) := by
  simp only [State.writeControl]
  repeat (first
    | with_reducible exact h | with_reducible refine State.setFlags_orderly _ _ ?_
    | with_reducible refine State.storeSetting_orderly _ _ _ _ ?_ | with_reducible refine State.act_orderly _ _ _ ?_
    | with_reducible refine State.toMemory_orderly _ _ ?_ | with_reducible refine State.withholdWrite_orderly _ ?_ | split)

theorem State.noteDraft_orderly (s : State) (r : SlotRef) (h : Orderly s) : Orderly (State.noteDraft s r) := by
  simp only [State.noteDraft]
  repeat (first
    | with_reducible exact h | with_reducible refine State.onAdu_orderly _ _ ?_ | split)

theorem State.holdRequest_orderly (s : State) (r : SlotRef) (a : HostAccess)
    (h : Orderly s) : Orderly (State.holdRequest s r a) := by
  simp only [State.holdRequest]
  repeat (first
    | with_reducible exact h | with_reducible refine State.onMps_orderly _ _ ?_
    | with_reducible refine State.onAdu_orderly _ _ ?_ | split)

theorem State.writeSlot_orderly (s : State) (r : SlotRef) (n : Nat) (a : HostAccess)
    (h : Orderly s) : Orderly (State.writeSlot s r n a) := by
  simp only [State.writeSlot]
  repeat (first
    | with_reducible exact h | with_reducible refine State.setFlags_orderly _ _ ?_
    | with_reducible refine State.toMemory_orderly _ _ ?_ | with_reducible refine State.withholdWrite_orderly _ ?_
    | with_reducible refine State.noteDraft_orderly _ _ ?_ | with_reducible refine State.holdRequest_orderly _ _ _ ?_
    | split)

theorem State.writeOrder_orderly (s : State) (o : OrderIx) (n : Nat) (a : HostAccess)
    (h : Orderly s) : Orderly (State.writeOrder s o n a) := by
  simp only [State.writeOrder]
  repeat (first
    | with_reducible exact h | with_reducible refine State.toMemory_orderly _ _ ?_
    | with_reducible refine State.withholdWrite_orderly _ ?_ | split)

theorem State.captureLine_orderly (s : State) (r : Room) (n : Nat) (data : Word) (lanes : Lanes)
    (h : Orderly s) : Orderly (State.captureLine s r n data lanes) := by
  simp only [State.captureLine]
  repeat (first
    | with_reducible exact h | with_reducible refine State.setPanel_orderly _ _ _ ?_
    | with_reducible refine State.setDirty_orderly _ _ ?_ | split)

theorem State.writePage_orderly (s : State) (r : Room) (n : Nat) (a : HostAccess)
    (h : Orderly s) : Orderly (State.writePage s r n a) := by
  simp only [State.writePage]
  repeat (first
    | with_reducible exact h | with_reducible refine State.toMemory_orderly _ _ ?_
    | with_reducible refine State.captureLine_orderly _ _ _ _ _ ?_ | split)

theorem State.captureDirectory_orderly (s : State) (r : Room) (n : Nat) (data : Word) (lanes : Lanes)
    (h : Orderly s) : Orderly (State.captureDirectory s r n data lanes) := by
  simp only [State.captureDirectory]
  repeat (first
    | with_reducible exact h | with_reducible refine State.onCtu_orderly _ _ rfl ?_ | split)

theorem State.hostWrite_orderly (s : State) (a : HostAccess) (h : Orderly s) : Orderly (State.hostWrite s a) := by
  simp only [State.hostWrite]
  repeat (first
    | with_reducible exact h | with_reducible refine State.toMemory_orderly _ _ ?_
    | with_reducible refine State.withholdWrite_orderly _ ?_ | with_reducible refine State.writeControl_orderly _ _ _ ?_
    | with_reducible refine State.writeSlot_orderly _ _ _ _ ?_ | with_reducible refine State.writeOrder_orderly _ _ _ _ ?_
    | with_reducible refine State.writePage_orderly _ _ _ _ ?_
    | with_reducible refine State.captureDirectory_orderly _ _ _ _ _ ?_ | split)

theorem State.hostRead_orderly (s : State) (a : HostAccess) (h : Orderly s) : Orderly (State.hostRead s a) := by
  simp only [State.hostRead]
  repeat (first
    | with_reducible exact h | with_reducible refine State.toMemory_orderly _ _ ?_
    | with_reducible refine State.completeHost_orderly _ _ _ ?_ | with_reducible refine State.readControl_orderly _ _ _ ?_
    | split)

theorem State.hostTreat_orderly (s : State) (a : HostAccess) (h : Orderly s) : Orderly (State.hostTreat s a) := by
  simp only [State.hostTreat]
  repeat (first
    | with_reducible exact h | with_reducible refine State.hostWrite_orderly _ _ ?_
    | with_reducible refine State.hostRead_orderly _ _ ?_ | split)

theorem State.deliver_orderly (s : State) (a : Access) (data : Word) (error : Bool)
    (h : Orderly s) : Orderly (State.deliver s a data error) := by
  unfold State.deliver
  split
  · exact State.completeHost_orderly _ _ _ h
  · exact State.onMps_orderly _ _ (State.completeHost_orderly _ _ _ h)
  · exact State.claimAccessDone_orderly _ _ _ h
  · exact State.claimAccessDone_orderly _ _ _ h
  · exact State.tailDone_orderly _ _ h
  · exact State.cquDone_orderly _ _ h
  · exact State.assemblyRead_orderly _ _ _ h
  · exact State.finalDone_orderly _ _ h
  all_goals first | exact h | (split <;> exact h)

theorem State.accessComplete_orderly (s : State) (error nextFirst : Bool)
    (h : Orderly s) : Orderly (State.accessComplete s error nextFirst) := by
  unfold State.accessComplete
  split
  · exact h
  · refine State.deliver_orderly _ _ _ _ ?_
    split
    · exact h
    · exact State.arbitrate_orderly _ (State.onMps_orderly _ _ h)

theorem settleAfter_orderly (before after : State) (nextFirst : Bool)
    (h : Orderly after) : Orderly (settleAfter before after nextFirst) := by
  unfold settleAfter
  dsimp only
  split
  · exact presentAll_orderly _ h
  · exact State.arbitrate_orderly _ (presentAll_orderly _ h)

end Sys2Proof.Machine
end

