-- ==== Sys2Proof/Laws/PanelMarks.lean ====
section
/-! SUPPORT. The page and chime renewal marks of an exchange (R120, R121): what page-dirty and a chime request do to the loops. -/

namespace Sys2Proof.Machine

/-- A loop as it reads after one loop has been written. -/
theorem State.setLoop_loop (s : State) (l m : LoopNo) (v : Loop) (h : Table.wf {} s.plu.loops = true) :
    (s.setLoop l v).loop m = if m = l then v else s.loop m := by
  unfold State.setLoop State.loop
  rw [State.onPlu_plu, Table.get_set _ _ _ _ _ h]
  simp only [Fin.ext_iff]

/-- The exchange in progress with a room's panel is updated, and nothing else of a loop is. -/
theorem State.onExchangeWith_loop (s : State) (r : Room) (f : Exchange → Exchange) (l : LoopNo)
    (h : Table.wf {} s.plu.loops = true) :
    (s.onExchangeWith r f).loop l =
      { s.loop l with
        exchange := (s.loop l).exchange.map fun x => if l = s.loopOf r ∧ x.listed.room = r then f x else x } := by
  have same : ∀ o : Option Exchange, o = (s.loop l).exchange → s.loop l = { s.loop l with exchange := o } :=
    fun o ho => by rw [ho]
  unfold State.onExchangeWith
  dsimp only
  split
  · next hx =>
    refine same _ ?_
    by_cases hl : l = s.loopOf r
    · rw [hl, hx]; rfl
    · simp [hl]
  · next x hx =>
    split
    · next hr =>
      rw [State.setLoop_loop _ _ _ _ h]
      split
      · next hl => simp [hl, hx, hr]
      · next hl => exact same _ (by simp [hl])
    · next hr =>
      refine same _ ?_
      by_cases hl : l = s.loopOf r
      · simp [hl, hx, hr]
      · simp [hl]

/-- Which loop a panel hangs on is a property of its room. -/
theorem State.loopOf_setPanel (s : State) (q r : Room) (v : Panel) : (s.setPanel q v).loopOf r = s.loopOf r := rfl

/-- Updating an exchange leaves the Control Unit as it is. -/
theorem State.onExchangeWith_ctu (s : State) (r : Room) (f : Exchange → Exchange) : (s.onExchangeWith r f).ctu = s.ctu := by
  unfold State.onExchangeWith
  dsimp only
  split
  · rfl
  · split <;> rfl

/-- Setting page-dirty renews the page of the exchange in progress with the panel (R120). -/
theorem State.setDirty_marksRenewed (s : State) (r : Room) (h : Table.wf {} s.plu.loops = true) (hp : s.hasPanel r = true) :
    MarksRenewed s (s.setDirty r) r false := by
  intro l
  have hf : (fun x : Exchange => if x.page then { x with pageRenewal := true } else x) =
      fun x => { x with pageRenewal := x.pageRenewal || x.page, chimeRenewal := x.chimeRenewal || false } := by
    funext ⟨_, _, page, _, _, _, _, _⟩
    cases page <;> simp
  unfold State.setDirty
  rw [if_pos hp, hf]
  exact State.onExchangeWith_loop (s.setPanel r { s.panel r with dirty := true }) r _ l h

/-- A chime request renews the page and the chime of the exchange in progress with the panel (R121). -/
theorem State.chimeRequest_marksRenewed (s : State) (r : Room) (c : Chime) (h : TablesCanonical s) (hp : s.hasPanel r = true) :
    MarksRenewed s (s.chimeRequest r c) r true := by
  intro l
  have h1 : TablesCanonical (s.setPanel r { s.panel r with chime := c }) := State.setPanel_tables _ _ _ h
  have hd := State.setDirty_marksRenewed (s.setPanel r { s.panel r with chime := c }) r h1.2.2.2.1.1 hp
  have hl : ((s.setPanel r { s.panel r with chime := c }).setDirty r).loopOf r = s.loopOf r := by
    unfold State.setDirty
    split
    · unfold State.loopOf State.panelLoop State.dirWord
      rw [State.onExchangeWith_ctu]
      rfl
    · rfl
  unfold State.chimeRequest
  rw [if_pos hp, State.onExchangeWith_loop _ _ _ _ (State.setDirty_tables _ r h1).2.2.2.1.1, hd l, hl]
  show ({ s.loop l with exchange := ((s.loop l).exchange.map _).map _ } : Loop) = _
  rw [Option.map_map]
  refine congrArg (fun f => { s.loop l with exchange := (s.loop l).exchange.map f }) (funext fun x => ?_)
  show (if l = s.loopOf r ∧ (if l = s.loopOf r ∧ x.listed.room = r then _ else x).listed.room = r then _ else _) = _
  by_cases hx : l = s.loopOf r ∧ x.listed.room = r
  · obtain ⟨rfl, hx⟩ := hx
    simp [hx, State.loopOf_setPanel]
  · simp [hx, State.loopOf_setPanel]

end Sys2Proof.Machine
end

