-- ==== Sys2Proof/WellFormed.lean ====
section
/-! DEFINITION. Which commands are well formed: the operands the rows of the opcode table can carry. The machine gives
every command a meaning, well formed or not. -/

namespace Sys2Proof

/-- A word is "at a byte address that is a multiple of 4" (00_scope.md, Conventions). -/
def Addr.aligned (a : Addr) : Bool := a.toNat % 4 == 0

/-- A partial access "carries fewer" than four byte enables (00_scope.md, Conventions), and at least one. -/
def Lanes.partialLanes (l : Lanes) : Bool := l != 0#4 && l != 15#4

/-- The Control Page words with a class of R6 whose writes have no row of their own: the report words, the bases and the
setting words 24 to 28. -/
def controlWordWithoutRow (n : Nat) : Bool :=
  n == 0 || (4 ≤ n && n ≤ 8) || (12 ≤ n && n ≤ 15) || (18 ≤ n && n ≤ 22) || (24 ≤ n && n ≤ 28)

/-- The action words of R6. -/
def actionWord (n : Nat) : Bool := n == 1 || n == 10 || n == 11 || n == 17

/-- The operands a command can carry. -/
def Instr.wellFormed : Instr → Bool
  | .hardwareReset _ | .tick | .minuteExpiry | .dayEndExpiry => true
  | .hostAccessPass a => Addr.aligned a.addr && a.lanes != 0#4
  | .withheldWrite a _ l => Addr.aligned a && l != 0#4
  | .controlPageWrite n _ l => controlWordWithoutRow n.val && l != 0#4
  | .partialActionWrite n _ l => actionWord n.val && Lanes.partialLanes l
  | .clockWrite _ l | .bankWrite _ l | .trapEnableWrite _ l | .intEnableWrite _ l => l != 0#4
  | .flagsWrite _ | .trapTaken _ | .intPendingWrite _ => true
  | .changeSummaryRead _ l => l != 0#4
  | .startClean _ | .startKeep _ | .restart _ | .kitchenClear _ | .rebase _ | .swap _ => true
  | .commandUnknown c _ => c.toNat == 0 || 7 ≤ c.toNat
  | .hostProposalWrite a _ l => Addr.aligned a && a.toNat / 4 % 8 < 3 && l != 0#4
  | .draftNotice _ _ _ => true
  | .hostRequestWrite a _ => Addr.aligned a && a.toNat / 4 % 8 == 3
  | .partialRequestWrite a _ l => Addr.aligned a && a.toNat / 4 % 8 == 3 && Lanes.partialLanes l
  | .orderWordWrite a _ l => Addr.aligned a && a.toNat / 4 % 8 < 4 && l != 0#4
  | .pageLine1Write a _ l => Addr.aligned a && a.toNat / 4 % 16 < 8 && l != 0#4
  | .directoryWrite a _ l => Addr.aligned a && l != 0#4
  | .memoryAccessComplete _ _ => true
  | .requestNew | .requestAmend | .requestCancel | .requestNone | .badRequest => true
  | .cleanVisit | .keepVisit | .turnoverOpening | .turnoverVisit => true
  | .autoCheckin | .timeEnd | .resolve | .vacancyEnd => true
  | .panelEventTaken | .checkin | .endBooking | .extend | .booknow => true
  | .presenceReport _ | .returnNotice _ => true
  | .roundStart _ | .poll _ | .replyWaitExpiry _ | .replyGapExpiry _ => true
  | .reply _ bs => bs.length == 8
  | .frameSent | .kitchenAnswer _ _ _ _ _ _ | .frameResend | .answerWaitExpiry => true
  | .endOfReset | .pollSent _ | .replyStartBit _ | .roundEndAfterGap _ | .nextFrameGapEnd => true

end Sys2Proof
end

