-- ==== Sys2Proof/Tests/Slice0.lean ====
section
/-! SUPPORT. Tests: ill-formed commands that the check refuses, the model on values worked out from the spec, and for every
obligation with hypotheses a state and operands that meet them, clause by clause. -/

namespace Sys2Proof.Tests

open Sys2Proof.Machine

set_option maxRecDepth 100000

/-! ### States the tests start from -/

/-- The state a command leads to, where it answers one. -/
def after (c : Instr) (s : State) : Option State :=
  match exec c s with
  | .next t => some t
  | .fault _ => none
  | .refused _ => none

/-- SETUP with a valid layout, and two rooms in service: room 4 without a panel (capacity 10), room 5 with panel address 1 of
loop 0, WALK-UP and VACANCY-END (capacity 12, threshold 30). -/
def good : State :=
  { ctu :=
      { shadow := { w4 := 0x400000, w5 := 0x408000, w6 := 0x410000, w7 := 0x411000, w8 := 0x412000 }
        directory := [(8, 0x01001E0A), (10, 0x07001E0C), (11, 0x00000001)] } }

/-- `good` in WALKING, in a CLEAN pass. -/
def walking : State :=
  { good with
    ctu := { good.ctu with phase := .walking, runningStart := some .clean }
    mps := { windows := some good.ctu.shadow.windows }
    bsc := { pass := .clean, presented := true } }

/-- `good` in RUNNING on day 90 at minute 600. -/
def run : State :=
  { good with
    ctu := { good.ctu with phase := .running }
    mps := { windows := some good.ctu.shadow.windows }
    clock := { second := 59, minute := 600, day := 90 } }

/-- A booking of room 5, slot 1, from 600 to 660, with order 8. -/
def e5 : PoolEntry :=
  { at_ := ⟨.bookA, 5, 1⟩, start := 600, stop := 660, attendees := 4, state := .booked, source := .none
    checkinMinute := none, origin := .request, order := some 8, marks := {}, reason := .none, presenceSeen := false
    deadline := 610 }

/-- `s` with one booking of room 5, slot 1 as pool entry 0. -/
def withEntry (s : State) (e : PoolEntry) : State :=
  { s with
    adu :=
      { s.adu with
        pool := [(0, some e)], freeList := [1, 2], schedules := [(5, [0])], slotMap := [(81, .live 0)]
        bindings := [(8, some 0)] } }

/-- `e5` checked in at 600. -/
def e5InUse : PoolEntry := { e5 with state := .inUse, source := .panel, checkinMinute := some 600 }

/-- An order of `e5` in a state. -/
def order8 (st : OrderState) : OrderEntry :=
  { state := st, resend := false, at_ := ⟨.bookA, 5, 1⟩, role := .today, start := 600, lead := 5, due := 595, accepted := 0
    total := 2, verdict := .none, retries := 0, failure := .none }

/-- `s` with that order held. -/
def withOrder (s : State) (e : OrderEntry) : State := { s with cqu := { s.cqu with entries := [(8, some e)] } }

/-- The kitchen link with order 8 in its context. -/
def withContext (s : State) (link : Link) (kind : FrameKind) (mark : Disposition) (mismatches : Nat) : State :=
  { s with klc := { s.klc with link := link, context := some ⟨8, kind, 1, mark, mismatches⟩ } }

/-- `s` with a request of a kind for room 5, slot 1 handed over and its write held. -/
def withRequest (s : State) (w : Word) : State :=
  { s with
    adu := { s.adu with request := some ⟨⟨.bookA, 5, 1⟩, w⟩ }
    mps := { s.mps with held := some ⟨true, 0x400A2C, w, 15#4⟩, hostResult := .stalled } }

/-- `s` with an access granted at the memory side. -/
def granting (s : State) (o : Owner) (write : Bool) (addr : Addr) : State :=
  { s with mps := { s.mps with granted := some ⟨o, write, addr, 7, 15#4⟩ } }

/-- `s` with a claim in progress. -/
def claiming (s : State) (c : Claim) : State := { s with adu := { s.adu with claim := some c } }

/-- The admission of a claim of a kind for room 5, slot 1, now 600. -/
def admission5 (k : AdmissionKind) : Admission :=
  { kind := k, book := .bookA, room := 5, slot := some 1, taken := ⟨.today, 600, 90⟩, quietTrim := false, quietShort := false
    minutes := 0 }

/-- A proposal of start, length, attendees and order field, without an order record. -/
def proposal (start length attendees order : Nat) : Proposal :=
  { w0 := place start 0 ||| place length 16, w1 := place attendees 0, w2 := place order 0, o0 := 0, o4 := 0, error := false }

/-- `s` with a panel event of room 5 taken and its claim presented. -/
def withPanelEvent (s : State) (b : Button) (argument : Nat) : State :=
  { s with atu := { s.atu with panelEvent := some ⟨5, b, argument, 3⟩ } }

/-- An exchange of loop 0 with the panel of room 5. -/
def exchange5 (st : ExchangeStage) : Exchange :=
  { position := 0, listed := ⟨1, 5⟩, page := true, chime := .warn, stage := st, frame := [] }

/-- `run` with loop 0 in a round over room 5, in an exchange or not. -/
def inRound (x : Option Exchange) (polls : Nat) (timer : RoundTimer) : State :=
  { run with
    plu :=
      { loops :=
          [(0, { positions := [(0, some ⟨1, 5⟩)], timer := timer, inRound := true, roundList := [(0, ⟨1, 5⟩)], polls := polls,
                 exchange := x })]
        panels := [(5, { online := true, misses := 2, lastTag := some 2, dirty := true, chime := .warn })] } }

/-- A reply frame of address 1. -/
def reply1 (button tag : Byte) (count : Nat) : List Byte :=
  let body : List Byte := [1, button, tag, BitVec.ofNat 8 (count / 256), BitVec.ofNat 8 count]
  0x6C :: body ++ crcBytes body

/-- Two windows of which one ends at or below the other share no byte. -/
theorem disjoint_of_apart {b1 n1 b2 n2 : Nat} (h : b1 + n1 ≤ b2 ∨ b2 + n2 ≤ b1) : Disjoint2 b1 n1 b2 n2 := by
  intro a
  unfold InWindow
  omega

/-- The layout of `good` is valid. -/
theorem good_layout : LayoutHolds good := by
  unfold LayoutHolds Placed
  refine ⟨by decide, ⟨?_, ?_, ?_, ?_⟩, ⟨?_, ?_, ?_⟩, ⟨?_, ?_, ?_⟩, ?_, ?_, ?_, ?_, ?_⟩
  all_goals exact disjoint_of_apart (by decide)

/-- Its settings are valid. -/
theorem good_settings : SettingsHold good := by
  unfold SettingsHold
  decide

/-- The bases after reset are all 0: the windows overlap. -/
theorem reset_layout : ¬ LayoutHolds State.reset := by
  unfold LayoutHolds Placed Disjoint2 InWindow
  intro h
  exact h.2.1.1 0 (by decide)

/-! ### Witnesses: the hypotheses of each obligation are met -/

theorem witness_StepRunsTheFrontCommand :
      ({ State.reset with pending := [.tick] }).pending = [.tick]
      ∧ State.reset.pending = [] := by
  decide

theorem witness_HardwareResetAndItsEnd :
      ({ State.reset with resetAsserted := true }).resetAsserted = true
      ∧ State.reset.klc.stage ≠ .onWire := by
  decide

theorem witness_PulseAdvancesTheClock :
      ({ run with clock := { second := 58 } }).clock.second < 59
      ∧ run.resetAsserted = false
      ∧ ({ run with resetAsserted := true }).resetAsserted = true
      ∧ good.ctu.phase ≠ .running
      ∧ walking.ctu.phase ≠ .running
      ∧ ({ walking with clock := { second := 59, minute := 1438 } }).clock.minute < 1439
      ∧ ({ walking with clock := { second := 59, minute := 1439 } }).clock.minute = 1439 := by
  decide

theorem witness_MinuteExpiryInRunning :
      run.resetAsserted = false
      ∧ run.clock.second = 59
      ∧ run.clock.minute < 1439
      ∧ run.ctu.phase = .running
      ∧ (claiming run (.cleanVisit ⟨.bookA, 5, 1⟩ [])).adu.claim.isSome
      ∧ run.adu.claim = none
      ∧ run.atu.minuteClaim = none
      ∧ run.atu.expiries = []
      ∧ NoNoticeWaits run
      ∧ TablesCanonical (withEntry run e5) := by
  unfold NoNoticeWaits TablesCanonical
  decide

theorem witness_MinuteExpiryInRunning_order :
      TablesCanonical { withOrder run { order8 .attached with due := 601 } with cqu := { entries := [(8, some { order8 .attached with due := 601 })], queue := [8] } }
      ∧ (withOrder run { order8 .attached with due := 602 }).orderEntry 8 = some { order8 .attached with due := 602 }
      ∧ (order8 .attached).at_.book = run.clock.today := by
  unfold TablesCanonical
  decide

theorem witness_DayEndInRunning :
      ({ run with clock := { second := 59, minute := 1439 } }).clock.minute = 1439
      ∧ run.ctu.phase = .running
      ∧ run.bsc.pass ≠ .turnover
      ∧ ({ run with bsc := { pass := .turnover } }).bsc.pass = .turnover
      ∧ TablesCanonical run
      ∧ NoNoticeWaits run
      ∧ run.adu.claim = none
      ∧ (claiming run (.cleanVisit ⟨.bookA, 5, 1⟩ [])).adu.claim.isSome
      ∧ (withOrder run (order8 .accepted)).orderEntry 8 = some (order8 .accepted)
      ∧ (8 : OrderIx) ∉ (withOrder run (order8 .accepted)).cqu.queue := by
  unfold NoNoticeWaits TablesCanonical
  decide

theorem witness_AddressesNameTheirWords :
      run.mps.controlOn = true
      ∧ LayoutHolds run
      ∧ run.mps.windows = some run.ctu.shadow.windows
      ∧ good.mps.windows = none
      ∧ baseOf good.ctu.shadow.w8 % 0x200 = 0
      ∧ ¬ InWindow 0xFFF000 0x100 (0xFFEFFC : Addr).toNat
      ∧ (∀ n ∈ [(0xFFF000, 0x100), (baseOf run.ctu.shadow.w4, 0x8000), (baseOf run.ctu.shadow.w5, 0x8000), (baseOf run.ctu.shadow.w6, 0x1000), (baseOf run.ctu.shadow.w7, 0x1000), (baseOf run.ctu.shadow.w8, 0x200)], ¬ InWindow n.1 n.2 (0x412200 : Addr).toNat) := by
  unfold InWindow
  exact ⟨by decide, good_layout, by decide, by decide, by decide, by decide, by decide⟩

theorem witness_DirectoryCapturesInSetup :
      Disjoint2 (baseOf good.ctu.shadow.w8) 0x200 (0xFFF000 + 0x100 * good.mps.straps.toNat) 0x100
      ∧ ¬ (baseOf (0x412100 : Word) % 0x200 = 0) := ⟨disjoint_of_apart (by decide), by decide⟩

theorem witness_PassedAccessGoesToMemory :
      Passes run ⟨true, 0x000004, 7, 15#4⟩
      ∧ Passes run ⟨false, 0x400A30, 0, 15#4⟩
      ∧ Passes run ⟨true, 0x41010C, 7, 1#4⟩
      ∧ Passes run ⟨true, 0xFFF05C, 7, 15#4⟩
      ∧ Passes run ⟨true, 0x411164, 7, 15#4⟩
      ∧ HostFree run
      ∧ ({ run with mps := { run.mps with hostResult := .stalled } }).mps.hostResult = .stalled :=
  ⟨trivial, by change _ = _; decide, by change _ ∨ _; decide, by change _ ∨ _; decide, by change _ ∨ _; decide,
    by unfold HostFree; decide⟩

theorem witness_WithheldWriteSetsProtect :
      Protected run 0xFFF000
      ∧ Protected run 0xFFF010
      ∧ Protected run 0x400A3C
      ∧ Protected run 0x410110
      ∧ Protected run 0x412028
      ∧ Protected run (run.controlAddr (22 : Fin 64).val)
      ∧ Protected { run with mps := { run.mps with locked := [(8, true)] } } 0x410100
      ∧ HostReady run
      ∧ run.ctu.phase ≠ .setup :=
  ⟨by change _ ∨ _; decide, by change _ ∨ _; decide, by change _ ≤ _; decide, by change _ ∨ _; decide, trivial,
    by change _ ∨ _; decide, by change _ ∨ _; decide, by unfold HostReady HostFree; decide⟩

theorem witness_SettingWriteIsStored :
      HostReady good
      ∧ good.ctu.phase = .setup
      ∧ HostReady run := by
  unfold HostReady HostFree
  decide

theorem witness_ClockAndBankWrites :
      HostReady good
      ∧ good.ctu.phase = .setup
      ∧ (bits (mergeLanes good.ctu.shadow.w2 0x000167FB 15#4) 16 6 ≤ 1439 ∧ bits (mergeLanes good.ctu.shadow.w2 0x000167FB 15#4) 5 0 ≤ 59)
      ∧ (¬ (bits (mergeLanes good.ctu.shadow.w2 0x00016800 15#4) 16 6 ≤ 1439 ∧ bits (mergeLanes good.ctu.shadow.w2 0x00016800 15#4) 5 0 ≤ 59)) := by
  unfold HostReady HostFree
  decide

theorem witness_ActionWritesClearOrSetPartial :
      HostReady run
      ∧ (1 : Fin 64).val ∈ [1, 10, 11, 17]
      ∧ (7#4 : Lanes) ≠ 15#4 := by
  unfold HostReady HostFree
  decide

/-- A trap record. -/
def record5 : TrapRecord :=
  { kind := .void, completed := false, kinds := { void := true }, reason := .badTime, origin := .request, request := .new
    book := .bookA, role := .today, room := 5, slot := some 1, day := 90, minute := 600, start := 0, stop := 0 }

theorem witness_TrapSlotHoldsOneRecord :
      HostReady run
      ∧ run.ctu.trapSlot = none
      ∧ ({ run.ctu with trapSlot := some record5 }).trapSlot.isSome
      ∧ (7#4 : Lanes) ≠ 15#4 := by
  unfold HostReady HostFree
  decide

theorem witness_PhaseWordReads :
      PhaseAgrees good
      ∧ PhaseAgrees walking
      ∧ PhaseAgrees run
      ∧ PhaseAgrees { run with bsc := { pass := .turnover, cursor := ⟨.bookB, 63, 15⟩ } }
      ∧ HostReady good
      ∧ HostReady walking
      ∧ HostReady run := by
  refine ⟨?_, ?_, ?_, ?_, by unfold HostReady HostFree; decide⟩ <;> (change _ ∧ _ ∧ _; decide)

/-- `run` with 24 panel events, orders in the Catering Queue and on the Recall List, and order 8 in flight. -/
def queued : State :=
  { withContext run .awaiting .ticket .none 0 with
    plu := { events := List.replicate 24 ⟨4, .end_, 0, 3⟩ }, cqu := { queue := [9, 10], recalls := [11] } }

theorem witness_ControlPageReads :
      HostReady queued
      ∧ queued.plu.events.length ≤ 24
      ∧ (queued.cqu.queue.Nodup ∧ queued.cqu.recalls.Nodup)
      ∧ ClockInRange { second := 59, minute := 1439, day := 65535 }
      ∧ (withContext run .halted .ticket .none 0).klc.link = .halted
      ∧ (withContext run .halted .ticket .none 0).klc.context = some ⟨8, .ticket, 1, .none, 0⟩
      ∧ (({ run.klc with link := .halted }).link = .halted ∧ ({ run.klc with link := .halted }).context = none)
      ∧ run.klc.link ≠ .halted := by
  unfold HostReady HostFree ClockInRange
  decide

theorem witness_IntFollowsPendingAndEnabled :
      HostReady run := by unfold HostReady; unfold HostFree; decide

theorem witness_StartChecksLayoutAndSettings :
      HostReady good
      ∧ good.ctu.phase = .setup
      ∧ good.ctu.runningStart = none
      ∧ ¬ LayoutHolds State.reset
      ∧ LayoutHolds good
      ∧ SettingsHold good := by
  refine ⟨?_, by decide, by decide, reset_layout, good_layout, good_settings⟩
  unfold HostReady HostFree
  decide

/-- `good` with MINLEN 4. -/
def badSetting : State := { good with ctu := { good.ctu with shadow := { good.ctu.shadow with w24 := 0x1EA7AA84 } } }

theorem witness_RefusedCommandChangesTheCommandStateAlone :
      HostReady walking
      ∧ walking.ctu.runningStart.isSome
      ∧ HostReady run
      ∧ run.ctu.runningStart = none
      ∧ run.ctu.phase ≠ .setup
      ∧ good.ctu.runningStart = none
      ∧ good.ctu.phase ≠ .running
      ∧ run.klc.link ≠ .halted
      ∧ 3 < bits ((0x0000040 : BitVec 28) ++ 6#4) 10 8
      ∧ 15 < bits ((0x0010000 : BitVec 28) ++ 6#4) 20 16
      ∧ 15 < bits ((0x1000000 : BitVec 28) ++ 6#4) 28 24 := by
  unfold HostReady HostFree
  decide

theorem witness_RefusedCommandSetting :
      LayoutHolds badSetting
      ∧ ¬ SettingsHold badSetting := by
  refine ⟨good_layout, fun h => ?_⟩
  exact absurd h.2.1.1 (by decide)

theorem witness_StartIsAccepted :
      HostReady good
      ∧ good.ctu.phase = .setup
      ∧ good.ctu.runningStart = none
      ∧ LayoutHolds good
      ∧ SettingsHold good := by
  refine ⟨?_, by decide, by decide, good_layout, good_settings⟩
  unfold HostReady HostFree
  decide

/-- `run` with the link in the byte time before a resend. -/
def resending : State :=
  let s := withContext run .sending .ticket .none 1
  { s with klc := { s.klc with stage := .resendGap } }

/-- `run` with an access of every requester waiting, and with words of a final write to be made. -/
def crowded (klc : Owner) : State :=
  let wait : Owner → Option Access := fun o => some ⟨o, true, 0x400A38, 7, 15#4⟩
  { run with
    mps := { run.mps with waiting := { adu := wait .aduClaim, cqu := wait .cqu, klc := wait klc, bsc := wait .bsc } }
    klc := { final := [(0x410118, 1), (0x41011C, 2)] } }

theorem witness_RestartReturnsToSetup :
      (∀ o ∈ [Owner.cqu, .bsc, .klcFinal, .aduClaim, .aduTail], (granting run o true 0x400A38).mps.granted = some ⟨o, true, 0x400A38, 7, 15#4⟩)
      ∧ (∀ c ∈ [Claim.cleanVisit ⟨.bookA, 5, 1⟩ [(0x400A38, 4)], .turnoverVisit ⟨.bookA, 5, 1⟩ [(0x400A38, 4)], .keepWriting ⟨.bookA, 5, 1⟩ true [(0x400A38, 4)]], (granting (claiming walking c) .aduClaim true 0x400A38).adu.claim = some c)
      ∧ (granting { run with adu := { run.adu with tail := some ⟨[(0x400A3C, 7)], .scanner⟩ } } .aduTail true 0x400A3C).adu.tail = some ⟨[(0x400A3C, 7)], .scanner⟩
      ∧ HostReady run
      ∧ run.ctu.phase ≠ .setup
      ∧ ({ run.klc with stage := .onWire }).stage = .onWire
      ∧ ((withContext run .awaiting .ticket .none 0).klc.stage = .quiet ∧ (withContext run .awaiting .ticket .none 0).klc.link = .awaiting)
      ∧ (¬ (run.klc.stage = .onWire ∨ (run.klc.stage = .quiet ∧ run.klc.link = .awaiting)))
      ∧ HostReady resending
      ∧ resending.ctu.phase ≠ .setup
      ∧ (¬ (resending.klc.stage = .onWire ∨ (resending.klc.stage = .quiet ∧ resending.klc.link = .awaiting)))
      ∧ (HostReady (crowded .klcFinal) ∧ (crowded .klcFinal).ctu.phase ≠ .setup)
      ∧ (crowded .klcFinal).mps.waiting.klc = some ⟨.klcFinal, true, 0x400A38, 7, 15#4⟩
      ∧ (crowded .klcAssembly).klc.final = (0x410118, 1) :: [(0x41011C, 2)]
      ∧ (run.mps.granted = none ∧ (granting run .cqu true 0x400A38).mps.granted ≠ none) := by
  unfold HostReady HostFree
  decide

/-- RESTART withdraws the waiting accesses of the blocks it resets and a waiting read of an assembly, whose place the next word
of the final write takes. -/
theorem test_restartWithdrawsWaitingAccesses :
    (after (.restart 0) (crowded .klcAssembly)).map (fun t => (t.mps.waiting, t.mps.granted.map (·.owner))) =
      some ({ klc := some ⟨.klcFinal, true, 0x410118, 1, 15#4⟩ }, some .host) := by
  decide

theorem witness_KitchenClearResumesOrDisposes :
      HostReady run
      ∧ run.ctu.phase = .running
      ∧ run.ctu.runningStart = none
      ∧ (∀ m ∈ [Disposition.none, .move, .release, .short, .ended], ∀ k ∈ [FrameKind.ticket, .recall], (withContext (withOrder run (order8 .sending)) .halted k m 0).klc.context = some ⟨8, k, 1, m, 0⟩)
      ∧ (withContext (withOrder run (order8 .sending)) .halted .ticket .ended 0).orderEntry 8 = some (order8 .sending)
      ∧ (order8 .sending).accepted = 0
      ∧ (order8 .sending).accepted ≠ (order8 .sending).total
      ∧ 0 < ({ order8 .sending with accepted := 1 }).accepted
      ∧ (({ order8 .sending with accepted := 2 }).accepted ≠ 0 ∧ ({ order8 .sending with accepted := 2 }).accepted = (order8 .sending).total)
      ∧ ((order8 .sending).at_.book = run.clock.today ∧ (order8 .sending).due ≤ run.clock.minute)
      ∧ (¬ ((order8 .sending).at_.book = run.clock.today ∧ ({ order8 .sending with due := 601 }).due ≤ run.clock.minute))
      ∧ TablesCanonical (withContext (withOrder run (order8 .sending)) .halted .ticket .none 0) := by
  unfold HostReady HostFree TablesCanonical
  decide

theorem witness_RebaseAndSwap :
      HostReady run
      ∧ run.ctu.phase = .running
      ∧ run.ctu.runningStart = none
      ∧ TablesCanonical run
      ∧ PanelsAgree (inRound none 0 .stopped)
      ∧ bits ((0x0F0F030 : BitVec 28) ++ 6#4) 10 8 = (3 : LoopNo).val
      ∧ bits ((0x0F0F030 : BitVec 28) ++ 6#4) 20 16 ≤ 15
      ∧ bits ((0x0F0F030 : BitVec 28) ++ 6#4) 28 24 ≤ 15 := by
  unfold HostReady HostFree PanelsAgree TablesCanonical
  decide

theorem witness_ProposalWriteLeavesADraftNotice :
      HostFree run
      ∧ TablesCanonical run
      ∧ run.target 0x400A20 = .slot ⟨.bookA, 5, 1⟩ 0
      ∧ run.target 0x40FFE8 = .slot ⟨.bookB, 63, 15⟩ 2 := by
  unfold HostFree TablesCanonical
  decide

theorem witness_DraftNoticeMakesFreeDraft :
      run.adu.claim = none
      ∧ Table.get false ({ run.adu with drafts := [(81, true)] }).drafts (SlotRef.key ⟨.bookA, 5, 1⟩) = true
      ∧ (claiming run (.cleanVisit ⟨.bookA, 5, 1⟩ [])).adu.claim.isSome
      ∧ Table.get false run.adu.drafts (SlotRef.key ⟨.bookA, 5, 1⟩) = false := by
  decide

/-- `run` with a draft notice for room 5, slot 1, and a return notice and a PRESENT report for room 5, all waiting. -/
def notified : State :=
  { run with
    adu := { run.adu with drafts := [(81, true)] }
    atu := { reports := [(5, [⟨90, 595⟩])], returns := [(5, [⟨90, 600⟩])] } }

theorem witness_NoticesComeBeforeTheNextClaim :
      notified.adu.claim = none
      ∧ TablesCanonical notified
      ∧ Table.get false notified.adu.drafts (SlotRef.key ⟨.bookA, 5, 1⟩) = true
      ∧ notified.slotState ⟨.bookA, 5, 1⟩ = .free := by
  unfold TablesCanonical
  decide

theorem witness_NoticesComeBeforeAnExpiry :
      notified.resetAsserted = false
      ∧ notified.clock.second = 59
      ∧ notified.clock.minute < 1439
      ∧ notified.ctu.phase = .running
      ∧ notified.adu.claim = none
      ∧ TablesCanonical notified
      ∧ ({ notified with clock := { second := 59, minute := 1439 } }).clock.minute = 1439 := by
  unfold TablesCanonical
  decide

theorem witness_RequestWriteIsHeld :
      HostFree run
      ∧ run.target 0x400A2C = .slot ⟨.bookA, 5, 1⟩ 3
      ∧ (1#4 : Lanes) ≠ 15#4 := by
  unfold HostFree
  decide

theorem witness_OrderAndDirectoryWrites :
      HostFree run
      ∧ run.target 0x410FEC = .order 127 3
      ∧ run.locked 127 = false
      ∧ HostFree good
      ∧ TablesCanonical good
      ∧ good.target 0x4121FC = .capture 63 1 := by
  unfold HostFree TablesCanonical
  decide

theorem witness_PageWritesAndLine2Reads :
      HostFree run
      ∧ TablesCanonical run
      ∧ run.target 0x41115C = .page 5 7
      ∧ run.hasPanel 5 = true
      ∧ run.target 0x411100 = .page 4 0
      ∧ run.hasPanel 4 = false
      ∧ run.target 0x41117C = .page 5 (8 + 7) := by
  unfold HostFree TablesCanonical
  decide

theorem witness_ArbiterAndCompletedAccess :
      (granting run .host true 0x400A20).mps.granted.isSome
      ∧ run.mps.granted = none
      ∧ ({ host := none, adu := none, cqu := none, klc := none, bsc := some ⟨.bsc, false, 0, 0, 15#4⟩ } : Waiting).bsc = some ⟨.bsc, false, 0, 0, 15#4⟩
      ∧ (granting run .cqu true 0xFFFFFC).mps.granted = some ⟨.cqu, true, 0xFFFFFC, 7, 15#4⟩
      ∧ Memory.wf run.mem = true := by
  decide

/-- A host access is granted and a write of an order record waits. -/
def contended : State :=
  granting { run with mps := { run.mps with waiting := { cqu := some ⟨.cqu, true, 0x410110, 1, 15#4⟩ } } } .host false 0x400A20

theorem witness_NextHostAccessTakesPartInTheGrant :
      Passes contended ⟨false, 0x400A24, 0, 15#4⟩
      ∧ contended.mps.granted = some ⟨.host, false, 0x400A20, 7, 15#4⟩
      ∧ ({ contended.mps with granted := none } : Mps).arbitrate.granted = some ⟨.cqu, true, 0x410110, 1, 15#4⟩
      ∧ contended.mps.waiting.host = none
      ∧ contended.mps.waiting.of .cqu = some ⟨.cqu, true, 0x410110, 1, 15#4⟩ :=
  ⟨by change _ = _; decide, by decide⟩

theorem witness_HostAccessCompletes :
      (granting run .host false 0x400A20).mps.granted = some ⟨.host, false, 0x400A20, 7, 15#4⟩
      ∧ (granting run .hostRelease true 0x400A2C).mps.granted = some ⟨.hostRelease, true, 0x400A2C, 7, 15#4⟩ := by
  decide

theorem witness_MemoryErrorsOfThePart :
      (granting run .cqu true 0x410110).mps.granted = some ⟨.cqu, true, 0x410110, 7, 15#4⟩
      ∧ (granting run .klcFinal true 0x410118).mps.granted = some ⟨.klcFinal, true, 0x410118, 7, 15#4⟩
      ∧ (granting { run with adu := { run.adu with tail := some ⟨[(0x400A3C, 7)], .scanner⟩ } } .aduTail true 0x400A3C).adu.tail = some ⟨[(0x400A3C, 7)], .scanner⟩
      ∧ (granting { run with adu := { run.adu with tail := some ⟨[(0x400A3C, 7)], .ignored⟩ } } .aduTail true 0x400A3C).adu.tail = some ⟨[(0x400A3C, 7)], .ignored⟩
      ∧ (granting (claiming walking (.cleanVisit ⟨.bookA, 0, 0⟩ [(0, 1), (4, 2), (8, 3)])) .aduClaim true 0).adu.claim = some (.cleanVisit ⟨.bookA, 0, 0⟩ [(0, 1), (4, 2), (8, 3)])
      ∧ (granting (claiming run (.turnoverVisit ⟨.bookA, 0, 0⟩ [(0, 1), (4, 2), (8, 3)])) .aduClaim true 0).adu.claim = some (.turnoverVisit ⟨.bookA, 0, 0⟩ [(0, 1), (4, 2), (8, 3)])
      ∧ (granting (claiming walking (.keepWriting ⟨.bookA, 0, 0⟩ false [(0, 1), (4, 2), (8, 3)])) .aduClaim true 0).adu.claim = some (.keepWriting ⟨.bookA, 0, 0⟩ false [(0, 1), (4, 2), (8, 3)])
      ∧ (granting (claiming walking (.keepWriting ⟨.bookA, 0, 0⟩ true [(8, 3), (12, 4)])) .aduClaim true 8).adu.claim = some (.keepWriting ⟨.bookA, 0, 0⟩ true [(8, 3), (12, 4)])
      ∧ (granting { withContext run .sending .ticket .none 0 with klc := { (withContext run .sending .ticket .none 0).klc with stage := .assembling [1] } } .klcAssembly false 0x410100).klc.stage = .assembling [1] := by
  decide

/-- A write of an admission for room 5, slot 1, with more than W7 left to be written. -/
def writing (s : State) (k : AdmissionKind) (back : List Word) (second : Bool) : State :=
  granting
    (claiming s
      (.admission (admission5 k) (.writing ⟨{}, {}, .cancelled []⟩ back [(0x400A34, 3), (0x400A38, 4), (0x400A3C, 5)] second)))
    .aduClaim true 0x400A34

theorem witness_AdmissionWriteErrors :
      (writing run .new [] false).mps.granted = some ⟨.aduClaim, true, 0x400A34, 7, 15#4⟩
      ∧ (admission5 .new).slot = some 1
      ∧ (∀ k ∈ [AdmissionKind.new, .amend, .cancel, .badRequest, .booknow], ∀ back ∈ [[], [1, 2, 3]], ∀ second ∈ [true, false], (writing run k back second).adu.claim = some (.admission (admission5 k) (.writing ⟨{}, {}, .cancelled []⟩ back [(0x400A34, 3), (0x400A38, 4), (0x400A3C, 5)] second)))
      ∧ (writing (withEntry run e5) .amend [] false).liveEntry ⟨.bookA, 5, 1⟩ = some e5
      ∧ (writing run .new [] false).liveEntry ⟨.bookA, 5, 1⟩ = none
      ∧ NothingHeldBack (writing run .amend [] false)
      ∧ NothingHeldBack (writing run .booknow [] false)
      ∧ TablesCanonical (writing run .booknow [] false)
      ∧ (writing run .booknow [] false).hasPanel (admission5 .booknow).room = true
      ∧ (writing run .booknow [] false).trapEnables.void = false
      ∧ ({ writing run .booknow [] false with ctu := { run.ctu with shadow := { run.ctu.shadow with w9 := 1 } } }).trapEnables.void = true
      ∧ run.ctu.trapSlot = none := by
  unfold NothingHeldBack NoNoticeWaits TablesCanonical
  decide

theorem witness_RequestBeginsWithItsReads :
      CursorHasPassed run .bookA 5
      ∧ ¬ CursorHasPassed { walking with bsc := { walking.bsc with cursor := ⟨.bookA, 5, 0⟩ } } .bookA 5
      ∧ ArbiterFree (withRequest run 1)
      ∧ (withRequest run 2).adu.request = some ⟨⟨.bookA, 5, 1⟩, 2⟩
      ∧ bits 1 3 0 = 1
      ∧ bits 2 3 0 = 2
      ∧ run.mps.outstanding .adu = false
      ∧ run.adu.tail = none :=
  ⟨trivial, by change ¬ (_ ∨ _); decide, by unfold ArbiterFree NoNoticeWaits; decide⟩

theorem witness_RequestWaitsForTheWalk :
      ({ run.atu with minuteClaim := some ⟨.resolve, ⟨.bookA, 5, 1⟩, 0⟩ }).minuteClaim.isSome
      ∧ (claiming run (.cleanVisit ⟨.bookA, 5, 1⟩ [])).adu.claim.isSome := by
  decide

/-- The read of W1 of a claim of a kind for room 5, slot 1, in a stage. -/
def reading (k : AdmissionKind) (stage : AdmissionStage) : State :=
  granting (claiming run (.admission (admission5 k) stage)) .aduClaim false 0x400A24

theorem witness_ReadsGoOnAfterAnError :
      (reading .amend (.proposal [none])).mps.granted = some ⟨.aduClaim, false, 0x400A24, 7, 15#4⟩
      ∧ (admission5 .amend).slot = some 1
      ∧ ([none] : List (Option Word)).length < 2
      ∧ (reading .amend (.proposal [none])).adu.claim = some (.admission (admission5 .amend) (.proposal [none]))
      ∧ (reading .cancel (.readBack ⟨{ void := true }, {}, .refused .notLive⟩ [some 1])).adu.claim = some (.admission (admission5 .cancel) (.readBack ⟨{ void := true }, {}, .refused .notLive⟩ [some 1])) := by
  decide

/-- The last of the three reads before a CANCEL of a slot that is not LIVE is written back as a refusal. -/
def readingBack (got : List (Option Word)) : State :=
  let s := withRequest run 3
  { reading .cancel (.readBack ⟨{ void := true }, {}, .refused .notLive⟩ got) with
    mps := { s.mps with granted := some ⟨.aduClaim, false, 0x400A38, 7, 15#4⟩ } }

theorem witness_RefusalIsWrittenBack :
      (readingBack [some 1, some 2]).mps.granted = some ⟨.aduClaim, false, 0x400A38, 7, 15#4⟩
      ∧ (admission5 .cancel).slot = some 1
      ∧ (readingBack [some 1, some 2]).liveEntry ⟨.bookA, 5, 1⟩ = none
      ∧ (readingBack [some 1, some 2]).adu.claim
          = some (.admission (admission5 .cancel) (.readBack ⟨{ void := true }, {}, .refused .notLive⟩ [some 1, some 2]))
      ∧ (readingBack [none, some 2]).adu.claim
          = some (.admission (admission5 .cancel) (.readBack ⟨{ void := true }, {}, .refused .notLive⟩ [none, some 2]))
      ∧ NothingHeldBack (readingBack [some 1, some 2]) := by
  unfold NothingHeldBack NoNoticeWaits
  decide

/-- After an error on the third read nothing is written, VOID is set, the write is released and the room is not marked. -/
theorem test_refusalAfterAReadBackError :
    (after (.memoryAccessComplete true false) (readingBack [some 1, some 2])).map
        (fun t => (t.adu.claim, t.ctu.flags, t.ctu.changes, t.mps.granted))
      = some (none, 1, 0, some ⟨.hostRelease, true, 0x400A2C, 3, 15#4⟩) := by
  decide

theorem witness_NoneCancelAndBadRequest :
      CursorHasPassed (withRequest run 0) .bookA 5
      ∧ ArbiterFree (withRequest run 0)
      ∧ NothingHeldBack (withRequest run 0)
      ∧ TablesCanonical (withRequest run 0)
      ∧ (withRequest run 0).mps.held = some ⟨true, 0x400A2C, 0, 15#4⟩
      ∧ bits (0 : Word) 3 0 = 0
      ∧ bits (3 : Word) 3 0 = 3
      ∧ run.inService 5 = true
      ∧ (withRequest (withEntry run e5) 3).liveEntry ⟨.bookA, 5, 1⟩ = some e5
      ∧ (withRequest run 3).liveEntry ⟨.bookA, 5, 1⟩ = none
      ∧ (withRequest run 3).ctu.trapSlot = none
      ∧ ({ withRequest (withEntry run e5) 3 with ctu := { run.ctu with directory := [] } }).inService 5 = false
      ∧ ({ withRequest (withEntry run e5) 3 with ctu := { run.ctu with directory := [] } }).liveEntry ⟨.bookA, 5, 1⟩ = some e5
      ∧ 4 ≤ bits (4 : Word) 3 0
      ∧ 4 ≤ bits (15 : Word) 3 0
      ∧ bit (run.ctu.shadow.w9) 0 = false
      ∧ run.liveEntry ⟨.bookA, 5, 1⟩ = none
      ∧ bit (0x3F : Word) 0 = true :=
  ⟨trivial, by unfold NothingHeldBack ArbiterFree NoNoticeWaits TablesCanonical; decide⟩

theorem witness_ChecksOfARequestInOrder :
      (admission5 .new).slot = some 1
      ∧ run.inService 4 = true
      ∧ run.inService 3 = false
      ∧ ((withEntry run e5).liveEntry ⟨.bookA, 5, 1⟩) = some e5
      ∧ (withEntry run e5InUse).liveEntry ⟨.bookA, 5, 1⟩ = some e5InUse
      ∧ run.liveEntry ⟨.bookA, 5, 1⟩ = none
      ∧ 1440 ≤ bits (proposal 1440 1 0 255).w0 15 0
      ∧ bits (proposal 0 0 0 255).w0 31 16 = 0
      ∧ 1440 < bits (proposal 1439 2 0 255).w0 15 0 + bits (proposal 1439 2 0 255).w0 31 16
      ∧ ((admission5 .new).taken.role = .today ∧ bits (proposal 599 30 0 255).w0 15 0 < (admission5 .new).taken.now)
      ∧ (¬ (1440 ≤ bits (proposal 1439 1 0 255).w0 15 0 ∨ bits (proposal 1439 1 0 255).w0 31 16 = 0 ∨ 1440 < bits (proposal 1439 1 0 255).w0 15 0 + bits (proposal 1439 1 0 255).w0 31 16))
      ∧ (127 < bits (proposal 600 30 0 128).w2 7 0 ∧ bits (proposal 600 30 0 128).w2 7 0 ≠ 255)
      ∧ ({ run.adu with freeList := [] }).freeList = [] := by
  decide

theorem witness_OrderChecks :
      bits (proposal 600 30 0 127).w2 7 0 = (127 : OrderIx).val
      ∧ (1 ≤ bits (0x0001F008 : Word) 3 0 ∧ bits (0x0001F008 : Word) 3 0 ≤ run.stationCount ∧ bits (0x0001F008 : Word) 15 8 ≤ 240 ∧ bits (0x0001F008 : Word) 23 16 ≠ 0)
      ∧ run.stationCount < bits (0x0001F009 : Word) 3 0
      ∧ bits (9 : Word) 3 0 = 9
      ∧ bits (1 : Word) 3 0 = 1
      ∧ ((withEntry run e5).binding 8).isSome
      ∧ run.binding 8 = none := by
  decide

theorem witness_AdmittedIntervalOverlapsNothing :
      clashCheck [e5] 659 700 15 = none
      ∧ clashCheck [e5] 590 700 15 = none
      ∧ clashCheck [e5] 585 700 15 = some (600, true)
      ∧ clashCheck [e5] 660 700 15 = some (700, false)
      ∧ clashCheck [e5] 540 600 15 = some (600, false) := by
  decide

theorem witness_CrowdAndShortDefaults :
      clashCheck (run.others .bookA 5 (run.liveIndex ⟨.bookA, 5, 1⟩)) (bits (proposal 604 30 13 8).w0 15 0) (bits (proposal 604 30 13 8).w0 15 0 + bits (proposal 604 30 13 8).w0 31 16) run.minlen = some (634, false)
      ∧ run.capacity 5 < bits (proposal 604 30 13 8).w1 7 0
      ∧ ((604 : Nat) : Int) - bits (0x00010501 : Word) 15 8 < (admission5 .new).taken.now
      ∧ ¬ ((605 : Nat) : Int) - bits (0x00010501 : Word) 15 8 < (admission5 .new).taken.now := by
  decide

theorem witness_WithheldAdmissionChangesNothing :
      (admission5 .new).kind.origin = .request
      ∧ NothingHeldBack (withRequest run 1)
      ∧ (withRequest run 1).mps.held = some ⟨true, 0x400A2C, 1, 15#4⟩
      ∧ ((run.judge (admission5 .new) (proposal 599 30 4 255)).1.void && ({ run with ctu := { run.ctu with shadow := { run.ctu.shadow with w9 := 1 } } }).trapEnables.void) = true
      ∧ ((withEntry run e5).judge { admission5 .new with slot := some 2 } (proposal 620 30 4 255)).1 = { clash := true } := by
  unfold NothingHeldBack NoNoticeWaits
  decide

/-- `run` with VOID trap-enabled. -/
def trapping : State := { run with ctu := { run.ctu with shadow := { run.ctu.shadow with w9 := 1 } } }

theorem witness_WithheldPanelAdmission :
      PanelMayBeTaken (withPanelEvent trapping .extend 0) ⟨5, .extend, 0, 3⟩
      ∧ PanelMayBeTaken (withPanelEvent { trapping with ctu := { trapping.ctu with directory := [(10, 0x05001E0C), (11, 1)] } } .booknow 4) ⟨5, .booknow, 4, 3⟩
      ∧ (admission5 .booknow).kind.origin = .panel
      ∧ NothingHeldBack trapping
      ∧ TablesCanonical trapping
      ∧ trapping.hasPanel (admission5 .booknow).room = true
      ∧ ((trapping.judge { admission5 .booknow with slot := none } (proposal 0 0 0 255)).1.void && trapping.trapEnables.void) = true
      ∧ trapping.ctu.trapSlot = none
      ∧ bit trapping.ctu.shadow.w9 0 = true
      ∧ trapping.bookingsToday 5 = []
      ∧ ({ trapping with ctu := { trapping.ctu with directory := [(10, 0x05001E0C), (11, 1)] } }).walkUp 5 = false
      ∧ ({ trapping with ctu := { trapping.ctu with directory := [(10, 0x05001E0C), (11, 1)] } }).hasPanel 5 = true :=
  ⟨⟨by unfold ArbiterFree NoNoticeWaits; decide, by decide, by decide, nofun⟩,
    ⟨by unfold ArbiterFree NoNoticeWaits; decide, by decide, by decide, nofun⟩,
    by unfold NothingHeldBack NoNoticeWaits TablesCanonical; decide⟩

/-- The last read of a NEW proposal for room 5, slot 1, from 600 for an hour. -/
def newRead : State :=
  granting
    { claiming run (.admission (admission5 .new) (.proposal [some (place 600 0 ||| place 60 16), some 4])) with
      mem := [(0x400A28, 255)] }
    .aduClaim false 0x400A28

theorem witness_NewIsAdmitted :
      newRead.mps.granted = some ⟨.aduClaim, false, 0x400A28, 7, 15#4⟩
      ∧ bits (readWord newRead.mem 0x400A28) 7 0 = 255
      ∧ newRead.inService 5 = true
      ∧ newRead.liveEntry ⟨.bookA, 5, 1⟩ = none
      ∧ newRead.adu.claim = some (.admission (admission5 .new) (.proposal [some (place 600 0 ||| place 60 16), some 4]))
      ∧ bits (place 600 0 ||| place 60 16) 15 0 = 600
      ∧ bits (place 600 0 ||| place 60 16) 31 16 = 60
      ∧ (admission5 .new).taken.now ≤ 600
      ∧ newRead.adu.freeList ≠ []
      ∧ newRead.bookings .bookA 5 = []
      ∧ bits 4 7 0 ≤ newRead.capacity 5
      ∧ newRead.panelAddress 4 = 0 := by
  decide

theorem witness_AdmittedHalfWords :
      ({ e5 with stop := 1440, attendees := 255 }).stop ≤ 1440
      ∧ (⟨.today, 1439, 65535⟩ : Taken).day ≤ 65535 := by
  decide

/-- A trap record and an order's entry with every number at the end of its range. -/
def recordTop : TrapRecord := { record5 with slot := none, room := 63, day := 65535, minute := 1439, start := 1440, stop := 1440 }
def orderTop : OrderEntry :=
  { order8 .failed with due := 1439, at_ := ⟨.bookB, 63, 15⟩, accepted := 8, total := 8, retries := 7, failure := .stale }

theorem witness_RecordAndOrderWords :
      (recordTop.minute ≤ 1439 ∧ recordTop.day ≤ 65535 ∧ recordTop.start ≤ 1440 ∧ recordTop.stop ≤ 1440)
      ∧ (orderTop.due ≤ 1439 ∧ orderTop.accepted ≤ 8 ∧ orderTop.total ≤ 8 ∧ orderTop.retries ≤ 7) := by
  decide

/-- The words of both, worked out from sections 12.2 and 12.4. -/
theorem test_recordAndOrderWords :
    (recordTop.word12 = 0x7FF08811 ∧ recordTop.word13 = 0xFFFF059F ∧ recordTop.word14 = 1440 ∧ recordTop.word15 = 1440)
      ∧ (List.range 4).map (orderWord orderTop) = [9, 0x0F3F059F, 0x808, 0x20700] := by
  decide

/-- The write of W6 of an admission for room 5, slot 1, with its held write. -/
def committing (s : State) (k : AdmissionKind) (kinds : KindSet) (o : Judgement) : State :=
  granting
    (claiming (withRequest s 1) (.admission (admission5 k) (.writing ⟨kinds, {}, o⟩ [] [(0x400A38, 4), (0x400A3C, 5)] false)))
    .aduClaim true 0x400A38

/-- The attach notice of `e5`. -/
def attach5 : Notice := .attach 8 .today ⟨.bookA, 5, 1⟩ 600 595

/-- The commits of a NEW with its order, of an AMEND that moves `e5`, of one that exchanges its order, of a CANCEL, and of a
refusal. -/
def newCommit : State := committing run .new {} (.admitted e5 [attach5])
def amendCommit : State :=
  committing (withEntry run e5) .amend {} (.admitted { e5 with start := 610, deadline := 620 } [.move 8 610 605])
def exchangeCommit : State :=
  committing (withEntry run e5) .amend {}
    (.admitted { e5 with order := some 9 } [.death 8 .cancel, .attach 9 .today ⟨.bookA, 5, 1⟩ 600 595])
def cancelCommit : State := committing (withEntry run e5) .cancel {} (.cancelled [.death 8 .cancel])
def refusalCommit : State := committing (withEntry run e5) .amend { clash := true } (.refused .clash)

theorem witness_NewCommitsAfterW6 :
      newCommit.mps.granted = some ⟨.aduClaim, true, 0x400A38, 7, 15#4⟩
      ∧ newCommit.liveIndex e5.at_ = none
      ∧ newCommit.adu.freeList = 0 :: (List.range 1024).tail
      ∧ newCommit.mps.held = some ⟨true, 0x400A2C, 1, 15#4⟩
      ∧ newCommit.adu.claim = some (.admission (admission5 .new) (.writing ⟨{}, {}, .admitted e5 [attach5]⟩ [] [(0x400A38, 4), (0x400A3C, 5)] false))
      ∧ e5.order = some 8
      ∧ e5.order ≠ some 9
      ∧ NothingHeldBack newCommit
      ∧ TablesCanonical newCommit
      ∧ (admission5 .booknow).kind = .booknow
      ∧ newCommit.hasPanel (admission5 .booknow).room = true
      ∧ (committing run .booknow {} (.admitted e5 [])).adu.claim = some (.admission (admission5 .booknow) (.writing ⟨{}, {}, .admitted e5 []⟩ [] [(0x400A38, 4), (0x400A3C, 5)] false)) := by
  unfold NothingHeldBack NoNoticeWaits TablesCanonical
  decide

theorem witness_AmendCommitsAfterW6 :
      amendCommit.mps.granted = some ⟨.aduClaim, true, 0x400A38, 7, 15#4⟩
      ∧ amendCommit.liveIndex e5.at_ = some 0
      ∧ amendCommit.entry 0 = some e5
      ∧ NothingHeldBack amendCommit
      ∧ TablesCanonical amendCommit
      ∧ amendCommit.adu.claim = some (.admission (admission5 .amend) (.writing ⟨{}, {}, .admitted { e5 with start := 610, deadline := 620 } [.move 8 610 605]⟩ [] [(0x400A38, 4), (0x400A3C, 5)] false))
      ∧ e5.start ≠ 610
      ∧ e5.start = ({ e5 with order := some 9 }).start
      ∧ amendCommit.mps.held = some ⟨true, 0x400A2C, 1, 15#4⟩
      ∧ exchangeCommit.adu.claim = some (.admission (admission5 .amend) (.writing ⟨{}, {}, .admitted { e5 with order := some 9 } [.death 8 .cancel, .attach 9 .today ⟨.bookA, 5, 1⟩ 600 595]⟩ [] [(0x400A38, 4), (0x400A3C, 5)] false))
      ∧ ({ e5 with order := some 9 }).order = some 9
      ∧ (8 : OrderIx) ≠ 9
      ∧ (({ e5 with order := some 9 }).order ≠ some 8 ∧ e5.order = some 8)
      ∧ exchangeCommit.hasPanel 5 = true
      ∧ (committing (withEntry run e5) .extend {} (.admitted { e5 with stop := 675 } [])).adu.claim = some (.admission (admission5 .extend) (.writing ⟨{}, {}, .admitted { e5 with stop := 675 } []⟩ [] [(0x400A38, 4), (0x400A3C, 5)] false)) := by
  unfold NothingHeldBack NoNoticeWaits TablesCanonical
  decide

theorem witness_CancelCommitsAfterW6 :
      cancelCommit.mps.granted = some ⟨.aduClaim, true, 0x400A38, 7, 15#4⟩
      ∧ cancelCommit.liveIndex e5.at_ = some 0
      ∧ cancelCommit.entry 0 = some e5
      ∧ NothingHeldBack cancelCommit
      ∧ TablesCanonical cancelCommit
      ∧ cancelCommit.mps.held = some ⟨true, 0x400A2C, 1, 15#4⟩
      ∧ cancelCommit.adu.claim = some (.admission (admission5 .cancel) (.writing ⟨{}, {}, .cancelled [.death 8 .cancel]⟩ [] [(0x400A38, 4), (0x400A3C, 5)] false)) := by
  unfold NothingHeldBack NoNoticeWaits TablesCanonical
  decide

theorem witness_RefusalCommitsAfterW6 :
      refusalCommit.mps.granted = some ⟨.aduClaim, true, 0x400A38, 7, 15#4⟩
      ∧ refusalCommit.liveIndex e5.at_ = some 0
      ∧ refusalCommit.entry 0 = some e5
      ∧ NothingHeldBack refusalCommit
      ∧ TablesCanonical refusalCommit
      ∧ refusalCommit.mps.held = some ⟨true, 0x400A2C, 1, 15#4⟩
      ∧ refusalCommit.adu.claim = some (.admission (admission5 .amend) (.writing ⟨{ clash := true }, {}, .refused .clash⟩ [] [(0x400A38, 4), (0x400A3C, 5)] false))
      ∧ (committing run .new { void := true } (.refused .badTime)).liveEntry ⟨.bookA, 5, 1⟩ = none
      ∧ (committing (withEntry run e5) .extend { clash := true } (.refused .clash)).adu.claim = some (.admission (admission5 .extend) (.writing ⟨{ clash := true }, {}, .refused .clash⟩ [] [(0x400A38, 4), (0x400A3C, 5)] false))
      ∧ run.hasPanel 5 = true := by
  unfold NothingHeldBack NoNoticeWaits TablesCanonical
  decide

theorem witness_DeathFreesTheEntry :
      (withEntry run e5).entry 0 = some e5
      ∧ TablesCanonical (withEntry run e5)
      ∧ e5.order = some 8
      ∧ e5.order ≠ some 9 := by
  unfold TablesCanonical
  decide

/-- The write of W6 of an admission with its K, its trap marks and its outcome. -/
def reporting (kinds enabled : KindSet) (o : Judgement) : State :=
  claiming (committing run .new kinds o)
    (.admission (admission5 .new) (.writing ⟨kinds, enabled, o⟩ [] [(0x400A38, 4), (0x400A3C, 5)] false))

theorem witness_ReportsOfACompletedAdmission :
      (reporting { trim := true, short := true } { trim := true, short := true } (.admitted e5 [])).adu.claim = some (.admission (admission5 .new) (.writing ⟨{ trim := true, short := true }, { trim := true, short := true }, .admitted e5 []⟩ [] [(0x400A38, 4), (0x400A3C, 5)] false))
      ∧ (reporting {} {} (.admitted e5 [])).mps.granted = some ⟨.aduClaim, true, 0x400A38, 7, 15#4⟩
      ∧ NothingHeldBack (reporting {} {} (.admitted e5 []))
      ∧ TablesCanonical (reporting {} {} (.admitted e5 []))
      ∧ (reporting {} {} (.admitted e5 [])).ctu.trapSlot = none
      ∧ ({ run.ctu with trapSlot := some record5 }).trapSlot.isSome
      ∧ ¬ (({ clash := true } : KindSet).clash && ({ trim := true } : KindSet).clash) = true
      ∧ (({ trim := true } : KindSet).trim && ({ trim := true } : KindSet).trim) = true
      ∧ (reporting { void := true } { void := true } (.refused .memory)).adu.claim = some (.admission (admission5 .new) (.writing ⟨{ void := true }, { void := true }, .refused .memory⟩ [] [(0x400A38, 4), (0x400A3C, 5)] false))
      ∧ (reporting { void := true } { void := true } (.refused .memory)).liveEntry ⟨.bookA, 5, 1⟩ = none
      ∧ (committing (withEntry run e5) .amend { void := true } (.refused .memory)).liveEntry ⟨.bookA, 5, 1⟩ = some e5 := by
  unfold NothingHeldBack NoNoticeWaits TablesCanonical
  decide

theorem witness_CleanAndKeepVisitsBegin :
      walking.adu.claim = none
      ∧ NoNoticeWaits walking
      ∧ walking.bsc.opening = false
      ∧ TablesCanonical walking
      ∧ walking.bsc.pass = .clean
      ∧ ({ walking.bsc with pass := .keep }).pass = .keep
      ∧ walking.mps.outstanding .adu = false
      ∧ walking.adu.tail = none
      ∧ walking.mps.outstanding .bsc = false := by
  unfold NoNoticeWaits TablesCanonical
  decide

/-- A TURNOVER pass at room 5, slot 1. -/
def turning (opening : Bool) : State :=
  { withEntry run e5 with bsc := { pass := .turnover, cursor := ⟨.bookA, 5, 1⟩, opening := opening, presented := true } }

theorem witness_TurnoverClaims :
      (turning true).adu.claim = none
      ∧ NoNoticeWaits (turning true)
      ∧ (turning true).bsc.pass = .turnover
      ∧ TablesCanonical (turning true)
      ∧ NothingHeldBack (turning true)
      ∧ (turning false).liveIndex ⟨.bookA, 5, 1⟩ = some 0
      ∧ (turning false).entry 0 = some e5
      ∧ e5.at_ = (turning false).bsc.cursor
      ∧ (turning false).liveIndex ⟨.bookA, 5, 2⟩ = none := by
  unfold NothingHeldBack NoNoticeWaits TablesCanonical
  decide

/-- The write of W6 of a CLEAN visit. -/
def visiting (r : SlotRef) : State :=
  granting { claiming walking (.cleanVisit r [(0x400A38, 4), (0x400A3C, 5)]) with bsc := { pass := .clean, cursor := r } }
    .aduClaim true 0x400A38

theorem witness_CleanVisitEnds :
      (∀ r ∈ [SlotRef.mk .bookA 5 14, .mk .bookA 62 15, .mk .bookA 63 15, .mk .bookB 63 15], (visiting r).adu.claim = some (.cleanVisit r [(0x400A38, 4), (0x400A3C, 5)]) ∧ (visiting r).bsc.cursor = r)
      ∧ (visiting ⟨.bookB, 63, 15⟩).bsc.pass = .clean
      ∧ NothingHeldBack (visiting ⟨.bookB, 63, 15⟩)
      ∧ walking.ctu.runningStart = some .clean
      ∧ walking.clock.deferredMinute = false := by
  unfold NothingHeldBack NoNoticeWaits
  decide

/-- The write of W6 of a visit of a pass at a slot, with deferred and held marks as given. -/
def ending (pass : PassKind) (c : List WordWrite → Claim) (r : SlotRef) (deferred held : Bool) : State :=
  granting
    { claiming walking (c [(0x400A38, 4), (0x400A3C, 5)]) with
      bsc := { pass := pass, cursor := r }
      clock := { deferredMinute := deferred, deferredDayEnd := deferred, heldDayEnd := held } }
    .aduClaim true 0x400A38

theorem witness_PassesEndWithTheirMarks :
      (ending .keep (.keepWriting ⟨.bookB, 63, 15⟩ true) ⟨.bookB, 63, 15⟩ true false).mps.granted = some ⟨.aduClaim, true, 0x400A38, 7, 15#4⟩
      ∧ (ending .keep (.keepWriting ⟨.bookB, 63, 15⟩ true) ⟨.bookB, 63, 15⟩ true false).adu.claim = some (.keepWriting ⟨.bookB, 63, 15⟩ true [(0x400A38, 4), (0x400A3C, 5)])
      ∧ (ending .clean (.cleanVisit ⟨.bookB, 63, 15⟩) ⟨.bookB, 63, 15⟩ true false).adu.claim = some (.cleanVisit ⟨.bookB, 63, 15⟩ [(0x400A38, 4), (0x400A3C, 5)])
      ∧ NothingHeldBack (ending .keep (.keepWriting ⟨.bookB, 63, 15⟩ true) ⟨.bookB, 63, 15⟩ true false)
      ∧ TablesCanonical (ending .keep (.keepWriting ⟨.bookB, 63, 15⟩ true) ⟨.bookB, 63, 15⟩ true false)
      ∧ walking.ctu.runningStart = some .clean
      ∧ (ending .keep (.keepWriting ⟨.bookB, 63, 15⟩ true) ⟨.bookB, 63, 15⟩ true false).clock.deferredDayEnd = true
      ∧ (ending .keep (.keepWriting ⟨.bookB, 63, 15⟩ true) ⟨.bookB, 63, 15⟩ true false).clock.deferredMinute = true
      ∧ ((ending .keep (.keepWriting ⟨.bookB, 63, 15⟩ true) ⟨.bookB, 63, 15⟩ true false).atu.walk = none ∧ (ending .keep (.keepWriting ⟨.bookB, 63, 15⟩ true) ⟨.bookB, 63, 15⟩ true false).atu.minuteClaim = none)
      ∧ (ending .keep (.keepWriting ⟨.bookA, 5, 14⟩ false) ⟨.bookA, 5, 14⟩ false false).adu.claim = some (.keepWriting ⟨.bookA, 5, 14⟩ false [(0x400A38, 4), (0x400A3C, 5)])
      ∧ (15 : SlotNo).val = (14 : SlotNo).val + 1
      ∧ (ending .turnover (.turnoverVisit ⟨.bookA, 63, 15⟩) ⟨.bookA, 63, 15⟩ false true).adu.claim = some (.turnoverVisit ⟨.bookA, 63, 15⟩ [(0x400A38, 4), (0x400A3C, 5)])
      ∧ (ending .turnover (.turnoverVisit ⟨.bookA, 5, 14⟩) ⟨.bookA, 5, 14⟩ false true).bsc.pass = .turnover
      ∧ (ending .turnover (.turnoverVisit ⟨.bookA, 63, 15⟩) ⟨.bookA, 63, 15⟩ false true).clock.heldDayEnd = true
      ∧ (withOrder run (order8 .accepted)).orderEntry 8 = some (order8 .accepted)
      ∧ (order8 .accepted).at_.book = run.clock.today := by
  unfold NothingHeldBack NoNoticeWaits TablesCanonical
  decide

theorem witness_KeepChecksAndReadErrors :
      (granting (claiming walking (.keepReading ⟨.bookA, 5, 1⟩ ⟨.today, 600, 90⟩ [some 1, some 2])) .bsc false 0x400A38).adu.claim = some (.keepReading ⟨.bookA, 5, 1⟩ ⟨.today, 600, 90⟩ [some 1, some 2])
      ∧ run.inService 3 = false
      ∧ run.inService 5 = true
      ∧ bits (wordW4 600 600) 26 16 ≤ bits (wordW4 600 600) 10 0
      ∧ bits (wordW4 599 600) 26 16 ≤ 600
      ∧ (bits (wordW4 1439 1440) 10 0 < bits (wordW4 1439 1440) 26 16 ∧ bits (wordW4 1439 1440) 26 16 ≤ 1440)
      ∧ run.adu.freeList ≠ []
      ∧ (withEntry run e5).bookings .bookA 5 = [(0, e5)]
      ∧ Overlaps 659 700 e5.start e5.stop
      ∧ ¬ Overlaps 660 700 e5.start e5.stop := by
  unfold Overlaps
  decide

theorem witness_KeepOrderReadsGoOn :
      (granting (claiming walking (.keepReading ⟨.bookA, 5, 1⟩ ⟨.today, 600, 90⟩ [some 1, some 2, some 0x00080004, none])) .bsc false 0x410110).adu.claim = some (.keepReading ⟨.bookA, 5, 1⟩ ⟨.today, 600, 90⟩ [some 1, some 2, some 0x00080004, none])
      ∧ bits (1 : Word) 2 0 = 1
      ∧ bits (2 : Word) 2 0 = 2
      ∧ bits (0x00080004 : Word) 23 16 < 128
      ∧ bits (0x007F0004 : Word) 23 16 < 128 := by
  decide

/-- The last read of a KEEP visit of room 5, slot 1, in the order the reads are made. -/
def keeping (got : List (Option Word)) (addr : Addr) (mem : List Host.Cell) : State :=
  granting
    { claiming walking (.keepReading ⟨.bookA, 5, 1⟩ ⟨.today, 600, 90⟩ got) with
      bsc := { pass := .keep, cursor := ⟨.bookA, 5, 1⟩ }, mem := mem }
    .bsc false addr

/-- A KEEP visit of room 5, slot 1, that has read W5 and an interval in W4, at the read of a W6 of the order field given. -/
def keepingW6 (start stop : Nat) (order : Byte) : State :=
  keeping [some 1, some (wordW4 start stop)] 0x400A38 [(0x400A38, 4), (0x400A3A, order)]

theorem witness_KeepVisitIsJudged :
      (keepingW6 600 660 255).mps.granted = some ⟨.bsc, false, 0x400A38, 7, 15#4⟩
      ∧ (keepingW6 600 660 255).adu.claim = some (.keepReading ⟨.bookA, 5, 1⟩ ⟨.today, 600, 90⟩ [some 1, some (wordW4 600 660)])
      ∧ (keepingW6 600 660 255).bsc.pass = .keep
      ∧ (keepingW6 600 660 255).bsc.cursor = ⟨.bookA, 5, 1⟩
      ∧ NothingHeldBack (keepingW6 600 660 255)
      ∧ TablesCanonical (keepingW6 600 660 255)
      ∧ bits (readWord (keepingW6 600 660 255).mem 0x400A38) 23 16 = 255
      ∧ (128 ≤ bits (readWord (keepingW6 600 660 128).mem 0x400A38) 23 16 ∧ bits (readWord (keepingW6 600 660 128).mem 0x400A38) 23 16 ≠ 255)
      ∧ bits (1 : Word) 2 0 = 1
      ∧ (¬ (bits (3 : Word) 2 0 = 1 ∨ bits (3 : Word) 2 0 = 2))
      ∧ (2 : SlotNo).val = (1 : SlotNo).val + 1
      ∧ (keepingW6 600 660 255).adu.freeList = 0 :: (List.range 1024).tail
      ∧ (keepingW6 600 660 255).keepCheck ⟨.bookA, 5, 1⟩ ⟨.today, 600, 90⟩ ⟨1, wordW4 600 660, 0x00FF0004, 0, 0, 0, false⟩ = .rebuilt
      ∧ (keepingW6 500 600 255).keepCheck ⟨.bookA, 5, 1⟩ ⟨.today, 600, 90⟩ ⟨1, wordW4 500 600, 0x00FF0004, 0, 0, 0, false⟩ = .ended
      ∧ (keepingW6 660 600 255).keepCheck ⟨.bookA, 5, 1⟩ ⟨.today, 600, 90⟩ ⟨1, wordW4 660 600, 0x00FF0004, 0, 0, 0, false⟩ = .refused .badTime .void := by
  unfold NothingHeldBack NoNoticeWaits TablesCanonical
  decide

/-- The read of O6 of order 8 that the visited slot names, with O0 and O4 as given. -/
def handing (o0 o4 : Word) : State := keeping [some 1, some (wordW4 600 660), some 0x00080004, some o0, some o4] 0x410118 []

/-- The same with another interval in W4. -/
def handingAt (start stop : Nat) (o4 : Word := 1) : State :=
  keeping [some 1, some (wordW4 start stop), some 0x00080004, some 0x00400501, some o4] 0x410118 []

theorem witness_KeepVisitHandsItsOrderOver :
      (handing 0x00400501 1).mps.granted = some ⟨.bsc, false, 0x410118, 7, 15#4⟩
      ∧ (handing 0x00400501 1).adu.claim = some (.keepReading ⟨.bookA, 5, 1⟩ ⟨.today, 600, 90⟩ [some 1, some (wordW4 600 660), some 0x00080004, some 0x00400501, some 1])
      ∧ (handing 0x00400501 1).bsc.pass = .keep
      ∧ ((handing 0x00400501 1).bsc.cursor = ⟨.bookA, 5, 1⟩ ∧ (⟨.bookA, 5, 1⟩ : SlotRef) ≠ ⟨.bookB, 63, 15⟩)
      ∧ NothingHeldBack (handing 0x00400501 1)
      ∧ TablesCanonical (handing 0x00400501 1)
      ∧ bits (0x00080004 : Word) 23 16 = (8 : OrderIx).val
      ∧ (1 ≤ bits (0x00400501 : Word) 3 0 ∧ bits (0x00400501 : Word) 3 0 ≤ run.stationCount ∧ bits (0x00400501 : Word) 15 8 ≤ 240 ∧ bits (0x00400501 : Word) 15 8 ≤ bits (wordW4 600 660) 10 0 ∧ bits (0x00400501 : Word) 23 16 ≠ 0)
      ∧ bits (0x00000501 : Word) 23 16 = 0
      ∧ (handing 0x00400501 1).orderEntry 8 = none
      ∧ (withOrder (handing 0x00400501 1) (order8 .due)).orderEntry 8 ≠ none
      ∧ (∀ n ∈ [1, 2, 3, 4, 7], bits (BitVec.ofNat 32 n) 3 0 = n)
      ∧ bits (0 : Word) 3 0 = 0
      ∧ bits (15 : Word) 3 0 = 15
      ∧ (handing 0x00400501 1).keepCheck ⟨.bookA, 5, 1⟩ ⟨.today, 600, 90⟩ ⟨1, wordW4 600 660, 0x00080004, 0x00400501, 1, 0, false⟩ = .rebuilt
      ∧ (handingAt 500 600).adu.claim = some (.keepReading ⟨.bookA, 5, 1⟩ ⟨.today, 600, 90⟩ [some 1, some (wordW4 500 600), some 0x00080004, some 0x00400501, some 1])
      ∧ (handingAt 500 600).keepCheck ⟨.bookA, 5, 1⟩ ⟨.today, 600, 90⟩ ⟨1, wordW4 500 600, 0x00080004, 0x00400501, 1, 0, false⟩ = .ended
      ∧ (handingAt 660 600).keepCheck ⟨.bookA, 5, 1⟩ ⟨.today, 600, 90⟩ ⟨1, wordW4 660 600, 0x00080004, 0x00400501, 1, 0, false⟩ = .refused .badTime .void
      ∧ (handing 0x00400501 1).adu.freeList = 0 :: (List.range 1024).tail := by
  unfold NothingHeldBack NoNoticeWaits TablesCanonical
  decide

/-- The order a rebuilt booking keeps is locked. -/
theorem test_rebuiltBookingLocksItsOrder :
    (after (.memoryAccessComplete false false) (handing 0x00400501 1)).map (·.locked 8) = some true
      ∧ (handing 0x00400501 1).locked 8 = false ∧ (handing 0x00400501 1).ctu.phase ≠ .running := by
  decide

/-- R166 on O4 ACCEPTED: at fate END (W4 500 to 600, now 600) the order stays ACCEPTED, at fate RELEASE (BAD-TIME) it is
RECALLING on the Recall List; either way it is locked. -/
theorem test_ordersOfDeadSlotsAreHandedOver :
    (after (.memoryAccessComplete false false) (handingAt 500 600 4)).map
        (fun t => ((t.orderEntry 8).map (·.state), t.locked 8)) = some (some .accepted, true)
      ∧ (after (.memoryAccessComplete false false) (handingAt 660 600 4)).map
          (fun t => ((t.orderEntry 8).map (·.state), t.locked 8, t.cqu.recalls)) = some (some .recalling, true, [8]) := by
  decide

/-- A minute-driven claim for the booking of room 5 that stands for its turn. -/
def walked (s : State) (e : PoolEntry) (row : WalkRow) (minute : Nat) : State :=
  { withEntry s e with atu := { s.atu with minuteClaim := some ⟨row, ⟨.bookA, 5, 1⟩, 0⟩ }, clock := { s.clock with minute := minute } }

/-- `run` with the panel of room 5 ONLINE. -/
def online : State := { run with plu := { panels := [(5, { online := true })] } }

theorem witness_MinuteClaimsAreJudgedAtTheirTaking :
      (walked run e5 .resolve 610).adu.claim = none
      ∧ NoNoticeWaits (walked run e5 .resolve 610)
      ∧ (walked run e5 .resolve 610).bsc.presented = false
      ∧ (walked run e5 .resolve 610).slotState ⟨.bookA, 5, 1⟩ = .live 0
      ∧ (walked run e5 .resolve 610).entry 0 = some e5
      ∧ ({ walked run e5 .autoCheckin 600 with ctu := { run.ctu with directory := [(10, 0x07001E0C)] } }).hasPanel 5 = false
      ∧ online.panelOnline 5 = true
      ∧ e5.stop ≤ 660
      ∧ e5.deadline ≤ 610
      ∧ e5InUse.stop ≤ 660
      ∧ NothingHeldBack (walked run e5 .resolve 610)
      ∧ (walked run e5 .resolve 609).rowApplies .resolve 5 e5 90 609 = false := by
  unfold NothingHeldBack NoNoticeWaits
  decide

theorem witness_VacancyConditions :
      e5InUse.checkinMinute = some 600
      ∧ online.vacancyDue 5 e5InUse 90 614 = false
      ∧ online.vacancyDue 5 e5InUse 90 615 = true := by
  decide

/-- The write of W6 of a lifecycle claim. -/
def living (change : LifeChange) : State :=
  granting
    (claiming (withOrder (withEntry run e5) (order8 .attached))
      (.lifecycle ⟨change, ⟨.bookA, 5, 1⟩, 0, ⟨.today, 610, 90⟩, false⟩ [] [(0x400A38, 4), (0x400A3C, 5)] false false))
    .aduClaim true 0x400A38

theorem witness_LifecycleCommitsAfterW6 :
      (living .release).mps.granted = some ⟨.aduClaim, true, 0x400A38, 7, 15#4⟩
      ∧ (living .release).entry 0 = some e5
      ∧ (living .release).slotState ⟨.bookA, 5, 1⟩ = .live 0
      ∧ NothingHeldBack (living (.checkin .panel))
      ∧ TablesCanonical (living .release)
      ∧ (living .release).orderEntry 8 = some (order8 .attached) := by
  unfold NothingHeldBack NoNoticeWaits TablesCanonical
  decide

/-- A write of a lifecycle claim, first or second time. -/
def livingOn (todo : List WordWrite) (failed second : Bool) : State :=
  claiming (living .release)
    (.lifecycle ⟨.release, ⟨.bookA, 5, 1⟩, 0, ⟨.today, 610, 90⟩, false⟩ [(0x400A30, 1), (0x400A34, 2), (0x400A38, 4), (0x400A3C, 5)]
      todo failed second)

/-- The claim of `livingOn`. -/
def livingClaim (todo : List WordWrite) (failed second : Bool) : Claim :=
  .lifecycle ⟨.release, ⟨.bookA, 5, 1⟩, 0, ⟨.today, 610, 90⟩, false⟩ [(0x400A30, 1), (0x400A34, 2), (0x400A38, 4), (0x400A3C, 5)]
    todo failed second

theorem witness_LifecycleWriteErrors :
      (livingOn [(0x400A34, 2), (0x400A38, 4), (0x400A3C, 5)] true true).adu.claim = some (livingClaim [(0x400A34, 2), (0x400A38, 4), (0x400A3C, 5)] true true)
      ∧ (livingOn [(0x400A38, 4), (0x400A3C, 5)] true false).adu.claim = some (livingClaim [(0x400A38, 4), (0x400A3C, 5)] true false)
      ∧ (livingOn [(0x400A38, 4), (0x400A3C, 5)] true false).entry 0 = some e5
      ∧ (e5.order = some 8 ∧ (livingOn [(0x400A38, 4), (0x400A3C, 5)] true false).orderEntry 8 = some (order8 .attached))
      ∧ e5.at_ = ⟨.bookA, 5, 1⟩
      ∧ TablesCanonical (livingOn [(0x400A38, 4), (0x400A3C, 5)] true false)
      ∧ (livingOn [(0x400A3C, 5)] true false).adu.claim = some (livingClaim [(0x400A3C, 5)] true false)
      ∧ (livingOn [(0x400A38, 4), (0x400A3C, 5)] false true).adu.claim = some (livingClaim [(0x400A38, 4), (0x400A3C, 5)] false true)
      ∧ NothingHeldBack (livingOn [(0x400A38, 4), (0x400A3C, 5)] false true)
      ∧ (living .release).mps.granted = some ⟨.aduClaim, true, 0x400A38, 7, 15#4⟩
      ∧ (granting { run with adu := { run.adu with tail := some ⟨[(0x400A3C, 7)], .lifecycle [(0x400A30, 1)]⟩ } } .aduTail true 0x400A3C).adu.tail = some ⟨[(0x400A3C, 7)], .lifecycle [(0x400A30, 1)]⟩ := by
  unfold NothingHeldBack NoNoticeWaits TablesCanonical
  decide

theorem witness_PanelEventsCheckInAndEnd :
      CursorHasPassed run .bookA 5
      ∧ ¬ CursorHasPassed { walking with bsc := { walking.bsc with cursor := ⟨.bookA, 5, 15⟩ } } .bookA 5
      ∧ PanelMayBeTaken (withPanelEvent (withEntry run e5) .checkin 0) ⟨5, .checkin, 0, 3⟩
      ∧ ({ run with plu := { events := [⟨5, .checkin, 0, 3⟩] } }).plu.events = [⟨5, .checkin, 0, 3⟩]
      ∧ run.atu.panelEvent = none
      ∧ walking.bsc.pass ≠ .turnover
      ∧ (withEntry run e5).bookingsToday 5 = [(0, e5)]
      ∧ (e5.start - run.early ≤ 600 ∧ 600 < e5.stop)
      ∧ (withEntry run e5InUse).bookingsToday 5 = [(0, e5InUse)]
      ∧ (e5InUse.start ≤ 600 ∧ 600 < e5InUse.stop)
      ∧ NothingHeldBack (withPanelEvent run .end_ 0)
      ∧ TablesCanonical (withPanelEvent run .end_ 0)
      ∧ run.hasPanel 5 = true
      ∧ run.bookingsToday 5 = [] :=
  ⟨trivial, by change ¬ (_ ∨ _); decide, ⟨by unfold ArbiterFree NoNoticeWaits; decide, by decide, by decide, nofun⟩,
    by unfold NothingHeldBack NoNoticeWaits TablesCanonical; decide⟩

theorem witness_BooknowAndExtend :
      PanelMayBeTaken (withPanelEvent run .booknow 4) ⟨5, .booknow, 4, 3⟩
      ∧ PanelMayBeTaken (withPanelEvent (withEntry run e5InUse) .extend 0) ⟨5, .extend, 0, 3⟩
      ∧ run.walkUp 5 = true
      ∧ (withEntry run e5).slotState ⟨.bookA, 5, 0⟩ = .free
      ∧ run.adu.freeList ≠ []
      ∧ 600 + 15 * 4 ≤ 1440
      ∧ ({ run with ctu := { run.ctu with directory := [(10, 0x05001E0C), (11, 1)] } }).walkUp 5 = false
      ∧ bit run.ctu.shadow.w9 0 = false
      ∧ (withEntry run e5InUse).liveEntry ⟨.bookA, 5, 1⟩ = some e5InUse
      ∧ (withEntry run e5InUse).liveIndex ⟨.bookA, 5, 1⟩ = some 0
      ∧ 0 < run.extstep
      ∧ e5InUse.stop + run.extstep ≤ 1440 :=
  ⟨⟨by unfold ArbiterFree NoNoticeWaits; decide, by decide, by decide, nofun⟩,
    ⟨by unfold ArbiterFree NoNoticeWaits; decide, by decide, by decide, nofun⟩, by decide⟩

/-- Three PRESENT reports and two return notices for room 5 came between claims; nothing else waits. -/
def reported : State :=
  { withEntry run e5 with
    atu := { reports := [(5, [⟨90, 594⟩, ⟨90, 595⟩, ⟨90, 660⟩])], returns := [(5, [⟨90, 600⟩, ⟨90, 599⟩])] } }

theorem witness_ReportsAndReturns :
      reported.adu.claim = none
      ∧ TablesCanonical reported
      ∧ Table.get [] reported.atu.reports (5 : Room).val = [⟨90, 594⟩, ⟨90, 595⟩] ++ [⟨90, 660⟩]
      ∧ Table.get [] reported.atu.returns (5 : Room).val = ⟨90, 600⟩ :: [⟨90, 599⟩]
      ∧ 0 ∈ reported.schedule run.clock.today 5
      ∧ reported.entry 0 = some e5
      ∧ (e5.start - run.early ≤ 595 ∧ 595 < e5.stop)
      ∧ ¬ e5.start - run.early ≤ 594
      ∧ ¬ 660 < e5.stop
      ∧ e5InUse.state ≠ .booked
      ∧ (1 : Nat) ∉ reported.schedule run.clock.today 5
      ∧ e5.deadline ≤ 600 + run.grace
      ∧ Table.get [] notified.atu.returns (5 : Room).val = ⟨90, 600⟩ :: [] := by
  unfold TablesCanonical
  decide

theorem witness_RoundsStartAndEnd :
      TablesCanonical (inRound none 1 .runOut)
      ∧ ((inRound none 1 .runOut).loop 0).inRound = true
      ∧ (run.loop 0).inRound = false
      ∧ ((inRound none 0 .stopped).loop 0).silent = false
      ∧ run.ctu.phase ≠ .setup
      ∧ (good.ctu.phase = .setup ∨ (run.loop 2).silent = true)
      ∧ ((inRound none 1 .runOut).loop 0).roundList.length ≤ ((inRound none 1 .runOut).loop 0).polls
      ∧ ((inRound none 1 (.running 2)).loop 0).timer ≠ .runOut
      ∧ ((inRound none 1 .runOut).loop 0).exchange = none := by
  unfold TablesCanonical
  decide

theorem witness_PollsAndTheirFrames :
      TablesCanonical (inRound none 0 (.running 2))
      ∧ ((inRound none 0 (.running 2)).loop 0).roundList[((inRound none 0 (.running 2)).loop 0).polls]? = some (0, ⟨1, 5⟩)
      ∧ ((inRound none 0 (.running 2)).panel 5).line1.length = 16
      ∧ (run.roomState 5).line.length = 16 := by
  unfold TablesCanonical
  decide

theorem witness_FrameStaysAsAssembled :
      TablesCanonical (inRound (some (exchange5 .sending)) 1 .stopped)
      ∧ ((inRound (some (exchange5 .sending)) 1 .stopped).loop 0).exchange = some (exchange5 .sending)
      ∧ HostFree (inRound (some (exchange5 .sending)) 1 .stopped)
      ∧ (inRound (some (exchange5 .sending)) 1 .stopped).target 0x41115C = .page 5 7
      ∧ (run.hasPanel 5 = true ∧ run.hasPanel 4 = false)
      ∧ ((inRound (some (exchange5 .sending)) 1 .stopped).roomState 5).line ≠ (inRound (some (exchange5 .sending)) 1 .stopped).composeLine 5
      ∧ ((run.recompose 5).roomState 5).line = (run.recompose 5).composeLine 5 := by
  unfold HostFree TablesCanonical
  decide

/-- R120 and R121: during an exchange with the panel a line-1 write sets the page renewal mark alone, a refused CHECKIN both. -/
theorem test_renewalMarksOfAnExchange :
    (after (.pageLine1Write 0x41115C 0x41 15#4) (inRound (some (exchange5 .sending)) 1 .stopped)).map (fun t => (t.loop 0).exchange) =
        some (some { exchange5 .sending with pageRenewal := true })
      ∧ (after .checkin (withPanelEvent (inRound (some (exchange5 .sending)) 1 .stopped) .checkin 0)).map (fun t => (t.loop 0).exchange) =
          some (some { exchange5 .sending with pageRenewal := true, chimeRenewal := true }) := by
  decide

theorem witness_LoopLineCarriesTheFrame :
      ((inRound (some (exchange5 .sending)) 1 .stopped).loop 0).exchange = some (exchange5 .sending)
      ∧ 0 < ({ exchange5 .sending with frame := [0xC6] }).frame.length
      ∧ (∀ x, ((inRound (some (exchange5 .waiting)) 1 .stopped).loop 0).exchange = some x → x.stage ≠ .sending) := by
  refine ⟨by decide, by decide, ?_⟩
  intro x h
  cases h
  decide

theorem witness_ExchangesAndMisses :
      (∀ st ∈ [ExchangeStage.sending, .waiting, .receiving], ((inRound (some (exchange5 st)) 1 .stopped).loop 0).exchange = some (exchange5 st))
      ∧ TablesCanonical (inRound (some (exchange5 .waiting)) 1 .stopped)
      ∧ replyGood 1 (reply1 0 0 1000) = true
      ∧ replyGood 1 ((reply1 0 0 1000).set 1 2) = false
      ∧ replyGood 1 (reply1 0 0 1000).dropLast = false := by
  unfold TablesCanonical
  decide

theorem witness_GoodReplies :
      (exchange5 .receiving).stage ≠ .sending
      ∧ (replyButton (reply1 0 0 1000)).isNone
      ∧ ((inRound (some (exchange5 .receiving)) 1 .stopped).panel 5).online = true
      ∧ ({ inRound (some (exchange5 .receiving)) 1 .stopped with plu := { (inRound (some (exchange5 .receiving)) 1 .stopped).plu with panels := [] } }).hasPanel 5 = true
      ∧ run.loopOf 5 = 0
      ∧ (run.panel 5).online = false
      ∧ (run.dropOnRefresh && (exchange5 .receiving).page) = true
      ∧ (run.dropOnRefresh && ({ exchange5 .receiving with page := false }).page) = false
      ∧ TablesCanonical (inRound (some (exchange5 .receiving)) 1 .stopped)
      ∧ ((inRound none 0 .stopped).panel 5).lastTag = some 2
      ∧ (∃ e ∈ [PanelEvent.mk 5 .end_ 0 3], e.room = 5 ∧ e.tag = 3)
      ∧ (List.replicate 23 (PanelEvent.mk 4 .end_ 0 3)).length < 24
      ∧ 24 ≤ (List.replicate 24 (PanelEvent.mk 4 .end_ 0 3)).length := by
  unfold TablesCanonical
  decide

/-- The settings of room 5, and a filter. -/
def sense5 : Sense := run.sense 5

def filter5 : Filter := { initDone := true, history := [1000], baseline := 1000, bucket := 0, low := 19, debounce := 2 }

theorem witness_FilterSamples :
      (sense5.threshold = 30 ∧ sense5.hyst = 10 ∧ sense5.debounce = 3 ∧ sense5.average = 1 ∧ sense5.noise = 40)
      ∧ ({} : Filter).initDone = false
      ∧ filter5.initDone = true
      ∧ filter5.present = false
      ∧ averageOf (enterHistory filter5.history 1041) sense5.average - filter5.baseline = 41
      ∧ sense5.debounce ≤ filter5.debounce + 1
      ∧ ({ filter5 with debounce := 1 }).debounce + 1 < sense5.debounce
      ∧ averageOf (enterHistory filter5.history 1040) sense5.average - filter5.baseline = 40
      ∧ ({ filter5 with present := true }).present = true
      ∧ averageOf (enterHistory filter5.history 1019) sense5.average - filter5.baseline + sense5.hyst < sense5.threshold
      ∧ sense5.threshold ≤ averageOf (enterHistory filter5.history 1020) sense5.average - filter5.baseline + sense5.hyst := by
  decide

theorem witness_FilterBaselines :
      1 ≤ sense5.noise
      ∧ sense5.autoReset = false
      ∧ 0 < sense5.bucket
      ∧ filter5.baseline + sense5.noise ≤ averageOf (enterHistory filter5.history 1040) sense5.average
      ∧ averageOf (enterHistory filter5.history 1039) sense5.average - filter5.baseline < sense5.noise
      ∧ ({ sense5 with bucket := 0 }).bucket = 0
      ∧ sense5.bucket ≤ ({ filter5 with bucket := 61 }).bucket + 39
      ∧ filter5.bucket + 39 < sense5.bucket
      ∧ averageOf (enterHistory filter5.history 999) sense5.average < filter5.baseline
      ∧ filter5.baseline ≤ averageOf (enterHistory filter5.history 980) sense5.average + sense5.negnoise
      ∧ averageOf (enterHistory filter5.history 979) sense5.average + sense5.negnoise < filter5.baseline
      ∧ ({ filter5 with low := 18 }).low + 1 < sense5.lowreset
      ∧ sense5.lowreset ≤ filter5.low + 1 := by
  decide

theorem witness_FilterAverage :
      filter5.initDone = true
      ∧ filter5.history.length ≤ 8
      ∧ (List.replicate 8 (1000 : Nat)).length = 8
      ∧ [1000, 1010, 1020] = [1000] ++ [1010, 1020]
      ∧ ([1010, 1020] : List Nat).length = min 2 ([1000, 1010, 1020] : List Nat).length
      ∧ ([1000] : List Nat).length = min 8 ([1000] : List Nat).length := by
  decide

theorem witness_KitchenLineCarriesTheFrame :
      ({ run.klc with stage := .onWire, buffer := [syncWord] }).stage = .onWire
      ∧ 0 < ({ run.klc with stage := .onWire, buffer := [syncWord] }).buffer.length
      ∧ run.klc.stage ≠ .onWire := by
  decide

theorem witness_KitchenLinkEvents :
      (({ run.klc with stage := .onWire }).stage = .onWire ∧ run.klc.finishing = false)
      ∧ ({ good with klc := { stage := .onWire, finishing := true } }).klc.stage = .onWire
      ∧ ({ good with klc := { stage := .onWire, finishing := true } }).klc.finishing = true
      ∧ ({ good with klc := { stage := .onWire, finishing := true } }).ctu.phase = .setup
      ∧ ({ run.klc with stage := .resendGap }).stage = .resendGap
      ∧ (withContext run .sending .ticket .none 0).klc.link = .sending
      ∧ (withContext run .awaiting .ticket .none 0).klc.link = .awaiting
      ∧ (withContext run .awaiting .ticket .none 0).klc.residue = none
      ∧ ({ run.klc with residue := some ⟨8, .ticket, 1, 0, 2, 0, 0x410118, 0x41011C⟩ }).residue.isSome
      ∧ run.klc.link ≠ .awaiting
      ∧ (0x5A3CC3A4 : Word) ≠ 0x5A3CC3A5
      ∧ ((3 : Word) ≠ 1 ∧ (3 : Word) ≠ 2)
      ∧ (9 : Word) ≠ 1 + 2 + 3 + 1 := by
  decide

/-- A link that awaits the answer to a ticket of order 8 in RUNNING. -/
def awaiting (kind : FrameKind) (mark : Disposition) (mismatches : Nat) (e : OrderEntry) : State :=
  withContext (withOrder run e) .awaiting kind mark mismatches

/-- A read of the assembly of a frame of order 8 (64 items, station 1), after the words `got`. -/
def assemblingAfter (kind : FrameKind) (index : Nat) (got : List Word) : State :=
  let s := granting (withOrder run (order8 .sending)) .klcAssembly false 0x410100
  { s with
    klc := { link := .sending, stage := .assembling got, context := some ⟨8, kind, index, .none, 0⟩ }
    mem := [(0x410100, 1), (0x410101, 5), (0x410102, 64)] }

theorem witness_FramesAreAssembled :
      NoneWaits (assemblingAfter .ticket 1 []) .klc
      ∧ (assemblingAfter .ticket 1 []).mps.granted = some ⟨.klcAssembly, false, 0x410100, 7, 15#4⟩
      ∧ (assemblingAfter .ticket 1 []).klc.final = []
      ∧ (assemblingAfter .ticket 1 []).klc.stage = .assembling []
      ∧ (assemblingAfter .recall 0 [1]).klc.context = some ⟨8, .recall, 0, .none, 0⟩
      ∧ (assemblingAfter .ticket 1 []).orderEntry 8 = some (order8 .sending)
      ∧ TablesCanonical (assemblingAfter .ticket 1 [])
      ∧ (order8 .sending).total ≤ 8
      ∧ bits (readWord (assemblingAfter .ticket 1 []).mem 0x410100) 23 16 = 64
      ∧ min 32 (64 - 32 * (2 - 1)) = 32
      ∧ min 32 (64 - 32 * (3 - 1)) = 0
      ∧ ([] ++ [(0x00400501 : Word)]).length = 1
      ∧ ([0x00400501, 2, 3] ++ [(4 : Word)]).length = 4
      ∧ (List.replicate 35 (0x00400501 : Word) ++ [1]).length = 4 + min 32 (bits ((List.replicate 35 (0x00400501 : Word) ++ [1]).getD 0 0) 23 16 - 32 * (2 - 1))
      ∧ ([1, 2] ++ [(3 : Word)]).length = 3 := by
  refine ⟨.of_empty rfl, ?_⟩
  unfold TablesCanonical
  decide

/-- A link that RESTART left to await an answer. -/
def leftOver : State :=
  { good with klc := { link := .awaiting, residue := some ⟨8, .ticket, 1, 0, 2, 0, 0x410118, 0x41011C⟩ } }

theorem witness_FinalWriteAfterRestart :
      NoneWaits (granting run .klcFinal true 0x410118) .klc
      ∧ TablesCanonical leftOver
      ∧ leftOver.klc.link = .awaiting
      ∧ leftOver.klc.residue = some ⟨8, .ticket, 1, 0, 2, 0, 0x410118, 0x41011C⟩
      ∧ leftOver.ctu.phase = .setup
      ∧ leftOver.klc.final = []
      ∧ leftOver.mps.outstanding .klc = false
      ∧ (1 : Word) ≠ leftOver.klc.frameStation
      ∧ ({ granting run .klcFinal true 0x410118 with klc := { final := [(0x410118, 1), (0x41011C, 2)] } }).klc.final = (0x410118, 1) :: (0x41011C, 2) :: []
      ∧ (granting run .klcFinal true 0x410118).mps.granted = some ⟨.klcFinal, true, 0x410118, 7, 15#4⟩
      ∧ ({ granting run .klcFinal true 0x41011C with klc := { final := [(0x41011C, 2)] } }).klc.final = [(0x41011C, 2)] := by
  refine ⟨.of_empty rfl, ?_⟩
  unfold TablesCanonical
  decide

theorem witness_AnswersOfTheKitchen :
      TablesCanonical (awaiting .ticket .none 15 (order8 .sending))
      ∧ (awaiting .ticket .none 15 (order8 .sending)).klc.residue = none
      ∧ (awaiting .ticket .release 0 (order8 .sending)).orderEntry 8 = some (order8 .sending)
      ∧ (order8 .sending).accepted + 1 < (order8 .sending).total
      ∧ ({ order8 .sending with accepted := 1 }).total ≤ ({ order8 .sending with accepted := 1 }).accepted + 1
      ∧ (order8 .recalling).resend = false
      ∧ run.haltOnSoft = false
      ∧ ({ run with ctu := { run.ctu with shadow := { run.ctu.shadow with w25 := 0x0000832B } } }).haltOnSoft = true
      ∧ ({ order8 .sending with retries := 2 }).retries < run.retries
      ∧ run.retries ≤ ({ order8 .sending with retries := 3 }).retries
      ∧ (order8 .sending).state ≠ .failed
      ∧ (14 : Nat) + 1 < 16
      ∧ (1 : Word) ≠ (awaiting .ticket .none 15 (order8 .sending)).klc.frameStation
      ∧ (∀ m ∈ [Disposition.move, .short, .release, .ended], (awaiting .ticket m 0 (order8 .sending)).klc.context = some ⟨8, .ticket, 1, m, 0⟩)
      ∧ ({ order8 .recalling with resend := true }).resend = true
      ∧ good.ctu.phase ≠ .running := by
  unfold TablesCanonical
  decide

theorem witness_LinkTakesWork :
      run.klc.link = .idle
      ∧ run.klc.context = none
      ∧ run.ctu.phase = .running
      ∧ ({ run with cqu := { recalls := [8] } }).cqu.recalls = [8]
      ∧ TablesCanonical { run with cqu := { recalls := [8] } }
      ∧ ({ withOrder run (order8 .due) with cqu := { entries := [(8, some (order8 .due))], queue := [9, 8] } }).cqu.queue = [9] ++ 8 :: []
      ∧ (withOrder run (order8 .due)).orderEntry 8 = some (order8 .due)
      ∧ ((withOrder run (order8 .due)).orderEntry 9).map (·.state) ≠ some .due := by
  unfold TablesCanonical
  decide

theorem witness_PlacedOrderStandsOnce :
      (withContext run .awaiting .ticket .none 0).klc.context.map (·.order) ≠ some 9
      ∧ (withContext run .awaiting .ticket .none 0).klc.context.map (·.order) = some 8 := by
  decide

/-- The Catering Queue of `run` with orders 8 and 9 due at 595, 7 at 300 and 10 at 596. -/
def dueQueue : State :=
  { run with
    cqu :=
      { entries :=
          [(7, some { order8 .attached with due := 300 }), (8, some (order8 .attached)), (9, some (order8 .attached)),
            (10, some { order8 .attached with due := 596 })]
        queue := [7, 8, 10] } }

/-- An order goes behind the ones of an earlier due minute or of a lower index, before the others; a list in order is there. -/
theorem test_enqueuePlacesByDueMinuteAndIndex :
    (dueQueue.enqueue 9).cqu.queue = [7, 8, 9, 10] ∧ (dueQueue.enqueue 7).cqu.queue = [7, 8, 10]
      ∧ ([7, 8, 10] : List OrderIx).Pairwise (DueBefore (dueMinute dueQueue)) := by
  unfold DueBefore
  decide

/-- Word O(4 + n) of order 8 being written, with the orders of the list after it. -/
def writingOrder (n : Nat) (list : List OrderIx) : State :=
  granting
    { run with
      cqu := { entries := [(8, some (order8 .attached)), (9, some (order8 .recalled))], writing := some (8, n), writeList := list }
      klc := { link := .halted, context := some ⟨9, .recall, 0, .none, 0⟩, halt := .silent } }
    .cqu true (0x410110 + BitVec.ofNat 24 (4 * n))

/-- The same with no access outstanding, and with no order under way. -/
def writingNext (n : Nat) (list : List OrderIx) : State := { writingOrder n list with mps := run.mps }
def listed (list : List OrderIx) : State :=
  { writingNext 0 list with cqu := { (writingOrder 0 list).cqu with writing := none } }

/-- Deciding an order: as its entry stands, with another field, with a new state, to FAILED, on the write list and not. -/
theorem witness_OrdersAreDecided :
      TablesCanonical (writingNext 0 [9])
      ∧ (writingNext 0 [9]).orderEntry 8 = some (order8 .attached)
      ∧ (writingNext 0 [9]).orderEntry 8 ≠ some { order8 .attached with retries := 1 }
      ∧ ((writingNext 0 [9]).orderEntry 8).map (·.state) = some { order8 .attached with retries := 1 }.state
      ∧ ((writingNext 0 [9]).orderEntry 8).map (·.state) ≠ some (order8 .failed).state
      ∧ (order8 .due).state ≠ .failed
      ∧ (9 ∈ (writingNext 0 [9]).cqu.writeList ∧ 8 ∉ (writingNext 0 [9]).cqu.writeList)
      ∧ ((order8 .due).at_.book = run.clock.today ∧ (order8 .due).due ≤ run.clock.minute)
      ∧ ¬ ({ order8 .due with due := 601 }).due ≤ run.clock.minute := by
  unfold TablesCanonical
  decide

theorem witness_OrderWordsAreWritten :
      NoneWaits (writingOrder 0 [9]) .cqu
      ∧ TablesCanonical (writingOrder 0 [9])
      ∧ (writingOrder 0 [9]).mps.granted = some ⟨.cqu, true, 0x410110, 7, 15#4⟩
      ∧ (writingOrder 0 [9]).mps.outstanding .cqu = true
      ∧ (writingOrder 2 [9]).cqu.writing = some (8, 2)
      ∧ (writingOrder 3 [9]).cqu.writing = some (8, 3)
      ∧ (writingOrder 3 [9]).cqu.writeList = 9 :: []
      ∧ ((writingOrder 3 [9]).orderEntry 9 ≠ none ∧ (writingOrder 0 [9]).orderEntry 8 ≠ none)
      ∧ ((writingOrder 3 []).cqu.writeList = [] ∧ (writingOrder 3 []).klc.link ≠ .idle)
      ∧ ((writingNext 3 [9]).mps.outstanding .cqu = false ∧ (writingNext 3 [9]).cqu.writing = some (8, 3))
      ∧ ((listed [9]).mps.outstanding .cqu = false ∧ (listed [9]).cqu.writing = none ∧ (listed [9]).cqu.writeList = 9 :: [])
      ∧ ((listed []).cqu.writing = none ∧ (listed []).cqu.writeList = [] ∧ (listed []).klc.link ≠ .idle) := by
  refine ⟨.of_empty rfl, ?_⟩
  unfold TablesCanonical
  decide

/-- O5 follows O4, with an error too; after O7 the next order's O4 is presented. -/
theorem test_orderWordsFollowOneAnother :
    (after (.memoryAccessComplete true false) (writingOrder 0 [])).map (·.mps.granted) = some (some ⟨.cqu, true, 0x410114, 0x01050253, 15#4⟩)
      ∧ (after (.memoryAccessComplete false false) (writingOrder 3 [9])).map (·.mps.granted)
          = some (some ⟨.cqu, true, 0x410130, 8, 15#4⟩) := by
  decide

theorem witness_StepKeepsTheMemory :
      Memory.wf (granting { run with mem := [(0x400A20, 1)] } .host true 0x400A20).mem = true
      ∧ (∀ error nextFirst, Instr.tick ≠ .memoryAccessComplete error nextFirst) := ⟨by decide, by intro _ _ h; cases h⟩

theorem witness_StepKeepsTheTablesCanonical :
      TablesCanonical (inRound none 0 .stopped)
      ∧ PanelsAgree (inRound none 0 .stopped)
      ∧ step { run with pending := [.tick] } = .next ((after .tick run).getD run)
      ∧ QueuesAgree queued
      ∧ WalkRests queued
      ∧ WalkRests walking
      ∧ step { queued with pending := [.panelEventTaken] } = .next ((after .panelEventTaken queued).getD queued) := by
  unfold TablesCanonical PanelsAgree QueuesAgree WalkRests
  exact ⟨by decide, by decide, rfl, by decide, by decide, by decide, rfl⟩

theorem witness_StepKeepsPhaseAndClock :
      PhaseAgrees run
      ∧ ClockInRange run.clock
      ∧ PhaseAgrees walking
      ∧ ValidatedOutsideSetup run := by
  unfold ClockInRange ValidatedOutsideSetup
  exact ⟨by change _ ∧ _ ∧ _; decide, by decide, by change _ ∧ _ ∧ _; decide, fun _ => ⟨good_layout, good_settings, rfl⟩⟩

/-- A pool of which entry 0 is owned agrees with the free list. -/
theorem witness_StepKeepsThePool :
    PoolAgrees { ({} : Adu) with pool := [(0, some e5)], freeList := (List.range' 1 1023) }
      ∧ step { run with pending := [.tick] } = .next ((after .tick run).getD run) := by
  refine ⟨⟨by decide, List.nodup_range', ?_, ?_⟩, rfl⟩
  · intro i
    simp only [Table.get, List.mem_range'_1]
    split <;> simp <;> omega
  · intro i h
    simp only [Table.get]
    rw [if_neg (by omega)]

/-- `run` with order 8 held and the booking `e5` taken. -/
def booked : State := (withOrder run (order8 .attached)).takeEntry e5

/-- A booking that is taken leaves the booking side in agreement. -/
theorem booked_agrees : Agreed booked := by
  have ht : Tidy (withOrder run (order8 .attached)) := ⟨PoolAgrees.reset, rfl, rfl, rfl, by decide, rfl⟩
  have h := Side.of_free ⟨ht, agrees_of_empty rfl rfl rfl rfl⟩ (by decide) (not_writing rfl)
  have hs := h.takeEntry (ex' := false) e5 (fun j h0 => by cases h0) (by decide) (fun j d hd => by cases hd) (fun o _ => rfl) id
    (fun hp => by rcases hp with hp | hp <;> cases hp)
  exact ((hs.attached fun o ho => by cases ho; decide).reclaim (by unfold ClaimAgrees; trivial)).agreed (by simp)

/-- Every premise of the invariant of the bookings is met in a state with a booking. -/
theorem witness_StepKeepsTheBookings :
    TablesCanonical booked ∧ PoolAgrees booked.adu ∧ PhaseAgrees booked ∧ ClockInRange booked.clock ∧ BookingSideAgrees booked
      ∧ booked.slotState ⟨.bookA, 5, 1⟩ = .live 0 ∧ ∃ t, step { booked with pending := [.poll 0] } = .next t := by
  refine ⟨?_, booked_agrees.1.pool, ?_, ?_, booked_agrees.2, by decide, _, rfl⟩
  · unfold TablesCanonical
    decide
  · change _ ∧ _ ∧ _
    decide
  · unfold ClockInRange
    decide

/-- `booked`, with a presence note of room 5 at a minute, and loop 0 set up with its panel, in SLOW and out of its round. -/
def sweeping (note : Nat) : State :=
  { booked with
    atu := { rooms := [(5, { note := some ⟨90, note⟩ })] }
    plu := { loops := [(0, { positions := [(0, some ⟨1, 5⟩)], mode := .slow, timer := .running 9 })] } }

/-- `run` with one booking of room 5 in use, and with two bookings in their order. -/
def oneInUse (stop : Nat) : State := withEntry run { e5InUse with stop := stop }

def twoBooked : State :=
  let s := withEntry run { e5InUse with stop := 615 }
  { s with
    adu :=
      { s.adu with
        pool := [(0, some { e5InUse with stop := 615 }), (1, some { e5 with at_ := ⟨.bookA, 5, 2⟩, start := 630, order := none })]
        schedules := [(5, [0, 1])] } }

theorem witness_MinuteSweepWarningsAndWindows :
      BookingsAgree (sweeping 595)
      ∧ (sweeping 595).resetAsserted = false
      ∧ (sweeping 595).clock.second = 59
      ∧ (sweeping 595).clock.minute < 1439
      ∧ (sweeping 595).ctu.phase = .running
      ∧ (sweeping 595).adu.claim = none
      ∧ (sweeping 595).atu.minuteClaim = none
      ∧ (sweeping 595).atu.expiries = []
      ∧ NoNoticeWaits (sweeping 595)
      ∧ TablesCanonical (sweeping 595)
      ∧ (sweeping 595).bookingsToday 5 = [(0, e5)]
      ∧ ((sweeping 595).roomState 5).note = some ⟨90, 595⟩
      ∧ (e5.start - run.early ≤ 595 ∧ 595 < e5.stop)
      ∧ ((sweeping 594).roomState 5).note = some ⟨90, 594⟩
      ∧ ¬ e5.start - run.early ≤ 594
      ∧ ¬ 660 < e5.stop
      ∧ (0 < run.warn ∧ run.hasPanel 5 = true)
      ∧ (oneInUse 606).bookingsToday 5 = [(0, { e5InUse with stop := 606 })]
      ∧ 600 + 1 + run.warn = 606
      ∧ 600 + 1 + run.warn ≠ 607
      ∧ Table.get none ((sweeping 595).loop 0).positions 0 = some ⟨1, 5⟩
      ∧ (e5.start - run.early ≤ 600 + 1 ∧ 600 + 1 < e5.deadline)
      ∧ ¬ 600 + 1 < ({ e5 with deadline := 601 }).deadline
      ∧ ({ e5 with start := 606 }).start - run.early = 600 + 1
      ∧ (((sweeping 595).loop 0).mode = .slow ∧ ((sweeping 595).loop 0).inRound = false ∧ ((sweeping 595).loop 0).timer = .running 9)
      ∧ (oneInUse 606).composeLine 5 ≠ ((oneInUse 606).roomState 5).line
      ∧ ((inRound (some (exchange5 .sending)) 1 .stopped).loop (run.loopOf 5)).exchange = some (exchange5 .sending) :=
  ⟨booked_agrees.2.1, by unfold NoNoticeWaits TablesCanonical; decide⟩

theorem witness_StatusLineContent :
      TablesCanonical (sweeping 595)
      ∧ ({ run with atu := { rooms := [(5, { refusal := true })] } }).roomState 5 = { refusal := true }
      ∧ twoBooked.bookingsToday 5 = [] ++ (0, { e5InUse with stop := 615 }) :: [(1, { e5 with at_ := ⟨.bookA, 5, 2⟩, start := 630, order := none })]
      ∧ (e5InUse.start ≤ 600 ∧ 600 < e5InUse.stop)
      ∧ (({ e5InUse with start := 605 }).state = .inUse ∧ e5InUse.checkinMinute = some 600 ∧ (600 : Nat) ≤ 600)
      ∧ ¬ 660 < e5.stop
      ∧ (0 < run.warn ∧ 605 - 600 ≤ run.warn)
      ∧ ¬ 606 - 600 ≤ run.warn
      ∧ run.bookingsToday 5 = []
      ∧ ({ withEntry run { e5 with start := 605 } with pending := [] }).bookingsToday 5 = [] ++ (0, { e5 with start := 605 }) :: []
      ∧ (({ e5 with start := 605 }).state = .booked ∧ ({ e5 with start := 605 }).start - run.early ≤ 600 ∧ 600 < e5.stop)
      ∧ ¬ ({ e5 with start := 606 }).start - run.early ≤ 600
      ∧ (600 : Nat) < 601
      ∧ ¬ (600 : Nat) < 600
      ∧ run.hasPanel 5 = true
      ∧ run.composeLine 5 ≠ (run.roomState 5).line
      ∧ run.recompose 5 = { run with plu := (run.recompose 5).plu, atu := (run.recompose 5).atu }
      ∧ ((run.recompose 5).roomState 5).line = (run.recompose 5).composeLine 5 := by
  unfold TablesCanonical
  decide

/-- A proposal from 600 that names an order, with O0 and O4 of its record. -/
def ordering (order : Nat) (o0 o4 : Word) : Proposal := { proposal 600 30 4 order with o0 := o0, o4 := o4 }

theorem witness_OrderAndFullChecksRefuse :
      (admission5 .new).slot = some 1
      ∧ (ordering 9 0x00400501 0).error = false
      ∧ run.inService 5 = true
      ∧ (bits (ordering 9 0x00400501 0).w0 15 0 = 600 ∧ bits (ordering 9 0x00400501 0).w0 31 16 ≠ 0 ∧ 600 + bits (ordering 9 0x00400501 0).w0 31 16 ≤ 1440)
      ∧ (1440 - 1439 ≠ 0 ∧ bits (proposal 1439 1 0 255).w0 15 0 < 1440 ∧ bits (proposal 1439 1 0 255).w0 15 0 + bits (proposal 1439 1 0 255).w0 31 16 ≤ 1440)
      ∧ run.liveEntry ⟨.bookA, 5, 1⟩ = none
      ∧ (¬ ((admission5 .new).taken.role = .today ∧ 600 < (admission5 .new).taken.now))
      ∧ bits (ordering 9 0x00400501 0).w2 7 0 = (9 : OrderIx).val
      ∧ bits (ordering 127 0x00400501 0).w2 7 0 = (127 : OrderIx).val
      ∧ run.orderCheck (ordering 9 0x00400501 0) = none
      ∧ run.orderCheck (ordering 9 0 1) = some .badOrder
      ∧ (withEntry run e5).orderCheck (ordering 8 0x00400501 0) = some .orderInUse
      ∧ (({ run with adu := { run.adu with freeList := [] } }).orderCheck (ordering 9 0x00400501 0) = none ∧ ({ run with adu := { run.adu with freeList := [] } }).adu.freeList = [])
      ∧ run.adu.freeList ≠ []
      ∧ bits (proposal 600 30 4 255).w2 7 0 = 255
      ∧ (admission5 .amend).kind = .amend
      ∧ (withEntry run e5).liveEntry ⟨.bookA, 5, 1⟩ = some e5
      ∧ (600 : Nat) = e5.start
      ∧ ((601 : Nat) ≠ e5.start ∧ e5.state = .booked)
      ∧ (e5.order ≠ some 9 ∧ e5.order = some 8)
      ∧ ((withEntry run e5).orderCheck (ordering 9 0x00400501 0) = none ∧ (withEntry run e5).orderCheck (ordering 9 0 1) = some .badOrder)
      ∧ (127 < bits (proposal 600 30 4 128).w2 7 0 ∧ bits (proposal 600 30 4 128).w2 7 0 ≠ 255)
      ∧ bits (proposal 600 30 4 254).w2 7 0 ≠ 255 := by
  decide

theorem witness_AmendKeepsAndNotices :
      clashCheck (twoBooked.others .bookA 5 (twoBooked.liveIndex ⟨.bookA, 5, 3⟩)) 600 615 twoBooked.minlen = none
      ∧ clashCheck (run.others .bookA 5 (run.liveIndex ⟨.bookA, 5, 1⟩)) 600 630 run.minlen = some (630, false)
      ∧ clashCheck ((withEntry run e5).others .bookA 5 ((withEntry run e5).liveIndex ⟨.bookA, 5, 1⟩)) 600 630 run.minlen = some (630, false)
      ∧ bits (ordering 9 0x00400501 0).o0 15 8 = 5
      ∧ (((600 : Int) - 5) < 600 ∧ ¬ ((605 : Int) - 5 < 600))
      ∧ ((4 : Int) - 5) < 0
      ∧ (e5.start = 600 ∧ e5.start ≠ 605)
      ∧ (bits (ordering 8 0 0).w2 7 0 = (8 : OrderIx).val ∧ e5.order = some 8)
      ∧ (bits (ordering 9 0 0).w2 7 0 = (9 : OrderIx).val ∧ e5.order ≠ some 9)
      ∧ bits (ordering 255 0 0).w2 7 0 = 255
      ∧ ({ e5 with order := none }).order ≠ some 9
      ∧ ((admission5 .amend).taken.role = .today ∧ run.hasPanel (admission5 .amend).room = true)
      ∧ (({ run with ocf := { filters := [(5, { lastPresent := some ⟨90, 595, .sample⟩ })] } }).filter 5).lastPresent = some ⟨90, 595, .sample⟩
      ∧ ((600 : Nat) - run.early ≤ 595 ∧ ¬ (600 : Nat) - run.early ≤ 594) := by
  decide

theorem witness_PanelAdmissionsAreJudged :
      (admission5 .booknow).kind = .booknow
      ∧ ({ run with ctu := { run.ctu with directory := [(10, 0x05001E0C), (11, 1)] } }).walkUp 5 = false
      ∧ run.walkUp (admission5 .booknow).room = true
      ∧ ({ admission5 .booknow with slot := none }).slot = none
      ∧ (admission5 .booknow).slot = some 1
      ∧ (({ run.adu with freeList := [] }).freeList = [] ∧ run.adu.freeList ≠ [])
      ∧ (withEntry run e5).others .bookA 5 none = [e5]
      ∧ (e5.start ≤ 600 ∧ 600 < e5.stop)
      ∧ (¬ 660 < e5.stop ∧ ¬ e5.start ≤ 599)
      ∧ Overlaps 544 604 e5.start e5.stop
      ∧ ¬ Overlaps 540 600 e5.start e5.stop
      ∧ min (1425 + 60) 1440 = 1440
      ∧ ((1440 : Nat) < 1425 + 60 ∧ ¬ (1440 - 1425 < run.minlen))
      ∧ ((1440 : Nat) < 1426 + 60 ∧ 1440 - 1426 < run.minlen)
      ∧ ¬ ((615 : Nat) < 615)
      ∧ (({ admission5 .extend with slot := none }).slot = none ∧ (admission5 .extend).kind = .extend)
      ∧ twoBooked.liveEntry ⟨.bookA, 5, 1⟩ = some { e5InUse with stop := 615 }
      ∧ twoBooked.others .bookA 5 (twoBooked.liveIndex ⟨.bookA, 5, 1⟩) = [{ e5 with at_ := ⟨.bookA, 5, 2⟩, start := 630, order := none }]
      ∧ ¬ Overlaps 615 (615 + run.extstep) 630 660
      ∧ Overlaps 616 (616 + run.extstep) 630 660
      ∧ min (1430 + run.extstep) 1440 = 1440
      ∧ (Overlaps 630 (630 + run.extstep) 630 660 ∧ ¬ 630 < 630) := by
  unfold Overlaps
  decide

theorem witness_PanelAdmissionsAreCarriedOut :
      PanelMayBeTaken (withPanelEvent (withEntry run e5) .booknow 1) ⟨5, .booknow, 1, 3⟩
      ∧ PanelMayBeTaken (withPanelEvent twoBooked .extend 0) ⟨5, .extend, 0, 3⟩
      ∧ run.walkUp 5 = true
      ∧ (withEntry run e5).slotState ⟨.bookA, 5, 0⟩ = .free
      ∧ (∀ n : SlotNo, (0 : SlotNo) ≤ n)
      ∧ ((withPanelEvent (withEntry run e5) .booknow 1).judge ⟨.booknow, .bookA, 5, some 0, ⟨.today, 600, 90⟩, false, false, 15⟩ (proposal 0 0 0 255)) = ({ clash := true }, .refused .clash)
      ∧ run.trapEnables.clash = false
      ∧ NothingHeldBack (withPanelEvent (withEntry run e5) .booknow 1)
      ∧ TablesCanonical (withPanelEvent (withEntry run e5) .booknow 1)
      ∧ run.hasPanel 5 = true
      ∧ ((withPanelEvent run .booknow 1).judge ⟨.booknow, .bookA, 5, some 0, ⟨.today, 600, 90⟩, false, false, 15⟩ (proposal 0 0 0 255)).1 = {}
      ∧ twoBooked.bookingsToday 5 = [] ++ (0, { e5InUse with stop := 615 }) :: [(1, { e5 with at_ := ⟨.bookA, 5, 2⟩, start := 630, order := none })]
      ∧ (({ e5InUse with stop := 601 }).state = .inUse ∧ 600 < 601 ∧ e5InUse.start ≤ 600)
      ∧ twoBooked.liveEntry ⟨twoBooked.clock.today, 5, 1⟩ = some { e5InUse with stop := 615 }
      ∧ (twoBooked.judge ⟨.extend, .bookA, 5, some 1, ⟨.today, 600, 90⟩, false, false, 0⟩ (proposal 0 0 0 255)) = ({}, .admitted { e5InUse with stop := 630 } [])
      ∧ ((withEntry run { e5InUse with stop := 1440 }).judge ⟨.extend, .bookA, 5, some 1, ⟨.today, 600, 90⟩, false, false, 0⟩ (proposal 0 0 0 255)) = ({ clash := true }, .refused .clash) :=
  ⟨⟨by unfold ArbiterFree NoNoticeWaits; decide, by decide, by decide, nofun⟩,
    ⟨by unfold ArbiterFree NoNoticeWaits; decide, by decide, by decide, nofun⟩,
    by unfold NothingHeldBack NoNoticeWaits TablesCanonical; decide⟩

theorem witness_GoodReplyWithAButton :
      (replyButton (reply1 1 3 1000)) = some (.checkin, 0)
      ∧ (replyButton (reply1 2 3 1000)) = some (.extend, 0)
      ∧ (replyButton (reply1 3 3 1000)) = some (.end_, 0)
      ∧ (replyButton (reply1 0x14 3 1000)) = some (.booknow, 1)
      ∧ (replyButton (reply1 0x44 3 1000)) = some (.booknow, 4)
      ∧ ((replyButton (reply1 0x04 3 1000)) = none ∧ (replyButton (reply1 0x54 3 1000)) = none ∧ (replyButton (reply1 5 3 1000)) = none)
      ∧ TablesCanonical (inRound (some (exchange5 .waiting)) 1 .stopped)
      ∧ ((inRound (some (exchange5 .waiting)) 1 .stopped).loop 0).exchange = some (exchange5 .waiting)
      ∧ ((exchange5 .waiting).stage ≠ .sending ∧ (exchange5 .receiving).stage ≠ .sending)
      ∧ replyGood (exchange5 .waiting).listed.address (reply1 1 3 1000) = true
      ∧ (((inRound (some (exchange5 .waiting)) 1 .stopped).panel 5).online = true ∧ ((inRound (some (exchange5 .waiting)) 1 .stopped).panel 5).lastTag = some 2)
      ∧ (((reply1 1 2 1000).getD 3 0).setWidth 3 = (2 : BitVec 3) ∧ ((reply1 1 3 1000).getD 3 0).setWidth 3 = (3 : BitVec 3))
      ∧ (∃ e ∈ [PanelEvent.mk 5 .end_ 0 3], e.room = 5 ∧ e.tag = 3)
      ∧ ((List.replicate 23 (PanelEvent.mk 4 .end_ 0 3)).length < 24 ∧ 24 ≤ (List.replicate 24 (PanelEvent.mk 4 .end_ 0 3)).length) := by
  unfold TablesCanonical
  decide

/-- Loop 0 in an exchange with room 5, whose filter stands one sample before PRESENT, after the reports `l`. -/
def sampling (l : List Stamp) : State :=
  let s := inRound (some (exchange5 .waiting)) 1 .stopped
  { s with ocf := { filters := [(5, filter5)] }, atu := { reports := Table.set [] [] 5 l } }

theorem witness_PresentSamplesAreReported :
      (∀ l ∈ [[], [Stamp.mk 90 594], [⟨90, 594⟩, ⟨90, 595⟩]], ((sampling l).loop 0).exchange = some (exchange5 .waiting) ∧ Table.get [] (sampling l).atu.reports (5 : Room).val = l ∧ ((sampling l).panel 5).online = true)
      ∧ TablesCanonical (sampling [])
      ∧ TablesCanonical (sampling [⟨90, 594⟩])
      ∧ replyGood (exchange5 .waiting).listed.address (reply1 0 0 1041) = true
      ∧ (((sampling []).filter 5).sample ((sampling []).sense 5) (replyCount (reply1 0 0 1041)) 90 600).present = true
      ∧ (((sampling []).filter 5).sample ((sampling []).sense 5) (replyCount (reply1 0 0 1040)) 90 600).present = false
      ∧ ((sampling []).dropOnRefresh && ({ exchange5 .waiting with page := false }).page) = false
      ∧ ((sampling []).dropOnRefresh && (exchange5 .waiting).page) = true
      ∧ (sampling []).adu.claim = none
      ∧ (claiming (sampling [⟨90, 594⟩]) (.cleanVisit ⟨.bookA, 5, 1⟩ [])).adu.claim.isSome := by
  unfold TablesCanonical
  decide

theorem witness_MemoryErrorsAfterRestart :
      (∀ o ∈ [Owner.orphanVisit, .orphanCqu, .orphanBsc, .orphanAdu, .orphanKlc], (granting good o true 0x400A38).mps.granted = some ⟨o, true, 0x400A38, 7, 15#4⟩) := by
  decide
 
/-! ### Ill-formed commands are refused by the check -/

theorem test_wf_address_and_lanes :
    Instr.wellFormed (.hostAccessPass ⟨true, 1, 0, 15#4⟩) = false
      ∧ Instr.wellFormed (.hostAccessPass ⟨true, 4, 0, 0#4⟩) = false
      ∧ Instr.wellFormed (.withheldWrite 2 0 15#4) = false ∧ Instr.wellFormed (.withheldWrite 4 0 0#4) = false
      ∧ Instr.wellFormed (.directoryWrite 3 0 15#4) = false ∧ Instr.wellFormed (.directoryWrite 4 0 0#4) = false
      ∧ Instr.wellFormed (.hostAccessPass ⟨true, 4, 0, 8#4⟩) = true := by
  decide

theorem test_wf_control_page :
    Instr.wellFormed (.controlPageWrite 9 0 15#4) = false ∧ Instr.wellFormed (.controlPageWrite 4 0 0#4) = false
      ∧ Instr.wellFormed (.partialActionWrite 1 0 15#4) = false ∧ Instr.wellFormed (.partialActionWrite 1 0 0#4) = false
      ∧ Instr.wellFormed (.partialActionWrite 2 0 1#4) = false ∧ Instr.wellFormed (.clockWrite 0 0#4) = false
      ∧ Instr.wellFormed (.bankWrite 0 0#4) = false ∧ Instr.wellFormed (.trapEnableWrite 0 0#4) = false
      ∧ Instr.wellFormed (.intEnableWrite 0 0#4) = false ∧ Instr.wellFormed (.changeSummaryRead true 0#4) = false
      ∧ Instr.wellFormed (.commandUnknown 3 0) = false ∧ Instr.wellFormed (.commandUnknown 7 0) = true := by
  decide

theorem test_wf_records :
    Instr.wellFormed (.hostProposalWrite 0x0C 0 15#4) = false ∧ Instr.wellFormed (.hostProposalWrite 0x08 0 0#4) = false
      ∧ Instr.wellFormed (.hostProposalWrite 0x09 0 15#4) = false ∧ Instr.wellFormed (.hostRequestWrite 0x08 0) = false
      ∧ Instr.wellFormed (.hostRequestWrite 0x0D 0) = false ∧ Instr.wellFormed (.partialRequestWrite 0x0C 0 15#4) = false
      ∧ Instr.wellFormed (.partialRequestWrite 0x08 0 1#4) = false ∧ Instr.wellFormed (.orderWordWrite 0x10 0 15#4) = false
      ∧ Instr.wellFormed (.orderWordWrite 0x0C 0 0#4) = false ∧ Instr.wellFormed (.pageLine1Write 0x20 0 15#4) = false
      ∧ Instr.wellFormed (.pageLine1Write 0x1C 0 0#4) = false ∧ Instr.wellFormed (.reply 0 [0x6C]) = false := by
  decide

/-- The table gives its rows no bits: no word spells a command, and withFetchWord changes nothing. -/
theorem test_no_word_spells_a_command :
    decodeTableWord 32 0 = none ∧ (State.reset.withFetchWord 32 7).pending = [] := by
  decide

/-! ### Values worked out from the spec, one step each -/

/-- "Each reset value follows from the defaults of R18" (section 12.2). -/
theorem test_reset_word24 : State.reset.controlRead 24 = 0x1EA7AA8F ∧ State.reset.minlen = 15 ∧ State.reset.extstep = 15 := by
  decide

theorem test_hardwareReset :
    (after (.hardwareReset 5) run).map (fun t => (t.mps.straps, t.mps.controlOn, t.ctu.phase, t.adu.freeList.length))
      = some (5, false, .setup, 1024) := by
  decide

/-- Straps 5 put the Control Page at 0xFFF500 (section 2, worked sequence). -/
theorem test_endOfReset :
    ((after (.hardwareReset 5) run).bind (after .endOfReset)).map (fun t => (t.mps.controlOn, t.target 0xFFF504))
      = some (true, .control 1) := by
  decide

theorem test_tick :
    (after .tick { run with clock := { second := 58 } }).map (·.clock.second) = some 59
      ∧ (after .tick { good with clock := { second := 59, minute := 1439, day := 65535 } }).map
          (fun t => (t.clock.second, t.clock.minute, t.clock.day)) = some (0, 0, 0) := by
  decide

theorem test_minuteExpiry_walking :
    (after .minuteExpiry { walking with clock := { second := 59, minute := 7 } }).map
        (fun t => (t.clock.minute, t.clock.deferredMinute)) = some (8, true) := by
  decide

theorem test_dayEndExpiry :
    (after .dayEndExpiry { run with clock := { second := 59, minute := 1439, day := 90 } }).map
        (fun t => (t.clock.day, t.clock.today, t.bsc.pass, t.bsc.cursor)) = some (91, .bookB, .turnover, ⟨.bookA, 0, 0⟩) := by
  decide

theorem test_hostAccessPass :
    (after (.hostAccessPass ⟨false, 0x400A2C, 0, 15#4⟩) run).map (fun t => t.mps.granted)
      = some (some ⟨.host, false, 0x400A2C, 0, 15#4⟩) := by
  decide

theorem test_withheldWrite :
    (after (.withheldWrite 0x400A3C 7 15#4) run).map (fun t => (t.ctu.flags, t.mps.hostResult, t.mps.granted))
      = some (0x100, .done none false, none) := by
  decide

theorem test_controlPageWrite :
    (after (.controlPageWrite 24 0x0000000F 1#4) good).map (fun t => t.ctu.shadow.w24) = some 0x1EA7AA0F := by
  decide

theorem test_partialActionWrite :
    (after (.partialActionWrite 1 0x1 1#4) good).map (fun t => (t.ctu.flags, t.ctu.phase)) = some (0x200, .setup) := by
  decide

theorem test_clockWrite :
    (after (.clockWrite 0x00B495FA 15#4) good).map (fun t => (t.clock.day, t.clock.minute, t.clock.second))
        = some (90, 599, 58)
      ∧ (after (.clockWrite 0x00016800 15#4) good).map (fun t => (t.ctu.clockGood, t.clock.minute)) = some (false, 0) := by
  decide

theorem test_bankWrite : (after (.bankWrite 0xFFFFFFFF 15#4) good).map (·.clock.today) = some .bookB := by
  decide

theorem test_trapEnableWrite : (after (.trapEnableWrite 0xFFFFFFFF 15#4) run).map (·.ctu.shadow.w9) = some 0x3F := by
  decide

theorem test_intEnableWrite :
    (after (.intEnableWrite 8 15#4) { run with ctu := { run.ctu with scanCause := true } }).map (·.ctu.intLine) = some true := by
  decide

theorem test_flagsWrite :
    (after (.flagsWrite 0x400) { run with ctu := { run.ctu with flags := 0x500 } }).map (·.ctu.flags) = some 0x100 := by
  decide

theorem test_trapTaken :
    (after (.trapTaken 0) { run with ctu := { run.ctu with trapSlot := some record5 } }).map (·.ctu.trapSlot) = some none := by
  decide

theorem test_intPendingWrite :
    (after (.intPendingWrite 0xF) { run with ctu := { run.ctu with scanCause := true, trapSlot := some record5 } }).map
        (·.ctu.pendingWord) = some 1 := by
  decide

theorem test_changeSummaryRead :
    (after (.changeSummaryRead false 1#4) { run with ctu := { run.ctu with changes := 0x120 } }).map
        (fun t => (t.ctu.changes, t.mps.hostResult)) = some (0x100, .done (some 0x120) false) := by
  decide

/-- The bases are all 0 after reset: START-CLEAN is REFUSED with reason LAYOUT; with bases it is BUSY. -/
theorem test_startClean :
    (after (.startClean 0) State.reset).map (·.ctu.command.word) = some 0xC0000041
      ∧ (after (.startClean 0) good).map (fun t => (t.ctu.command.word, t.ctu.phase)) = some (0x40000001, .walking) := by
  decide

/-- A threshold of 8 is not greater than HYST 10: SETTING (section 2, worked sequence, step 3). -/
theorem test_startKeep :
    (after (.startKeep 0)
        { good with ctu := { good.ctu with directory := [(18, 0x01000814), (19, 0x00000103)] } }).map (·.ctu.command.word)
      = some 0xC0000052 := by
  decide

theorem test_restart :
    (after (.restart 0) walking).map (fun t => (t.ctu.command.word, t.ctu.phase, t.bsc.pass, t.mps.windows))
      = some (0x80000003, .setup, .none, none) := by
  decide

/-- "the BUSY check comes first" (section 2, worked sequence, step 5). -/
theorem test_kitchenClear :
    (after (.kitchenClear 0) walking).map (·.ctu.command.word) = some 0xC0000014
      ∧ (after (.kitchenClear 0) run).map (·.ctu.command.word) = some 0xC0000064 := by
  decide

theorem test_rebase :
    (after (.rebase 0x800) { run with ocf := { filters := [(5, filter5)] } }).map
        (fun t => (t.ctu.command.word, (t.filter 5).initDone)) = some (0x80008005, false) := by
  decide

theorem test_swap :
    (after (.swap 0x0010000) (inRound none 0 .stopped)).map (fun t => (t.loop 0).positions) = some [(0, some ⟨1, 5⟩)]
      ∧ (after (.swap 0x0200000) (inRound none 0 .stopped)).map (fun t => (t.loop 0).positions) = some [(2, some ⟨1, 5⟩)] := by
  decide

theorem test_commandUnknown : (after (.commandUnknown 9 0) run).map (·.ctu.command.word) = some 0xC0000039 := by
  decide

theorem test_hostProposalWrite :
    (after (.hostProposalWrite 0x400A20 7 1#4) run).map (fun t => (t.adu.drafts, t.mps.granted))
      = some ([(81, true)], some ⟨.host, true, 0x400A20, 7, 1#4⟩) := by
  decide

theorem test_draftNotice :
    (after (.draftNotice false 5 1) { run with adu := { run.adu with drafts := [(81, true)] } }).map
        (fun t => (t.adu.slotMap, t.adu.drafts)) = some ([(81, .draft)], []) := by
  decide

theorem test_hostRequestWrite :
    (after (.hostRequestWrite 0x400A2C 1) run).map (fun t => (t.mps.held.isSome, t.mps.granted, t.adu.request))
      = some (true, none, some ⟨⟨.bookA, 5, 1⟩, 1⟩) := by
  decide

theorem test_partialRequestWrite :
    (after (.partialRequestWrite 0x400A2C 1 1#4) run).map (fun t => (t.mps.held, t.adu.request, t.ctu.flags))
      = some (none, none, 0x200) := by
  decide

theorem test_orderWordWrite :
    (after (.orderWordWrite 0x410100 7 15#4) { run with mps := { run.mps with locked := [(8, true)] } }).map
        (fun t => (t.ctu.flags, t.mps.granted)) = some (0x100, none) := by
  decide

theorem test_pageLine1Write :
    (after (.pageLine1Write 0x411140 0x01420041 15#4) run).map
        (fun t => ((t.panel 5).dirty, (t.panel 5).line1.take 2)) = some (true, [⟨0x41, false⟩, ⟨0x42, true⟩]) := by
  decide

theorem test_directoryWrite :
    (after (.directoryWrite 0x412028 0x0000000D 1#4) good).map (fun t => t.capacity 5) = some 13 := by
  decide

/-- A completed write stands in memory little-endian; the next waiting access is granted. -/
theorem test_memoryAccessComplete :
    (after (.memoryAccessComplete false false)
        { run with mps := { run.mps with granted := some ⟨.host, true, 0x000100, 0x00FF0201, 15#4⟩, hostResult := .stalled } }).map
        (fun t => (t.mem, t.mps.granted, t.mps.hostResult))
      = some ([(0x100, 1), (0x101, 2), (0x102, 0xFF)], none, .done none false) := by
  decide

/-- With the host's next access first the port stays free for it, and the waiting access goes on waiting (R14). -/
theorem test_nextHostAccessFirst :
    ((after (.memoryAccessComplete false true) contended).bind (after (.hostAccessPass ⟨false, 0x400A24, 0, 15#4⟩))).map
        (fun t => (t.mps.granted, t.mps.waiting.cqu))
      = some (some ⟨.host, false, 0x400A24, 0, 15#4⟩, some ⟨.cqu, true, 0x410110, 1, 15#4⟩) := by
  decide

/-- A failed read of W0 sets nothing and W1 is read next (R63). -/
theorem test_readAfterAnError :
    (after (.memoryAccessComplete true false)
        (granting (claiming run (.admission (admission5 .new) (.proposal []))) .aduClaim false 0x400A20)).map
        (fun t => (t.mps.granted, t.ctu.flags))
      = some (some ⟨.aduClaim, false, 0x400A24, 0, 15#4⟩, 0) := by
  decide

theorem test_requestNew :
    (after .requestNew (withRequest run 1)).map (fun t => (t.adu.claim, t.mps.granted))
      = some (some (.admission (admission5 .new) (.proposal [])), some ⟨.aduClaim, false, 0x400A20, 0, 15#4⟩) := by
  decide

theorem test_requestAmend :
    (after .requestAmend (withRequest (withEntry run e5) 2)).map (fun t => t.adu.claim)
      = some (some (.admission (admission5 .amend) (.proposal []))) := by
  decide

/-- CANCEL writes W5 = CANCELLED (code 5) over the interval 600 to 660. -/
theorem test_requestCancel :
    (after .requestCancel (withRequest (withEntry run e5) 3)).map (fun t => t.mps.granted)
      = some (some ⟨.aduClaim, true, 0x400A30, 0x02940258, 15#4⟩) := by
  decide

theorem test_requestNone :
    (after .requestNone { withRequest run 0 with adu := { (withRequest run 0).adu with slotMap := [(81, .draft)] } }).map
        (fun t => (t.adu.slotMap, t.adu.claim, t.mps.granted)) = some ([], none, some ⟨.hostRelease, true, 0x400A2C, 0, 15#4⟩) := by
  decide

/-- When W6 of a NEW has completed, W7 takes the free port and the released W3 write waits behind it (R52). -/
theorem test_releaseAfterW7 :
    (after (.memoryAccessComplete false false)
        (granting
          (claiming { run with mps := { run.mps with held := some ⟨true, 0x400A2C, 1, 15#4⟩, hostResult := .stalled } }
            (.admission (admission5 .new)
              (.writing ⟨{}, {}, .admitted { e5 with order := none } []⟩ [] [(0x400A38, 4), (0x400A3C, 5)] false)))
          .aduClaim true 0x400A38)).map (fun t => (t.mps.granted, t.mps.waiting.host, t.adu.claim))
      = some (some ⟨.aduTail, true, 0x400A3C, 5, 15#4⟩, some ⟨.hostRelease, true, 0x400A2C, 1, 15#4⟩, none) := by
  decide

theorem test_badRequest_trapped :
    (after .badRequest
        { withRequest run 9 with ctu := { run.ctu with shadow := { run.ctu.shadow with w9 := 1 } } }).map
        (fun t => (t.ctu.trapSlot.map (·.word12), t.mps.held, t.ctu.flags))
      = some (some 0x04520411, none, 0) := by
  decide

theorem test_cleanVisit :
    (after .cleanVisit walking).map (fun t => t.mps.granted) = some (some ⟨.aduClaim, true, 0x40000C, 0, 15#4⟩) := by
  decide

theorem test_keepVisit :
    (after .keepVisit { walking with bsc := { walking.bsc with pass := .keep } }).map (fun t => t.mps.granted)
      = some (some ⟨.bsc, false, 0x400014, 0, 15#4⟩) := by
  decide

theorem test_turnoverOpening :
    (after .turnoverOpening
        { turning true with adu := { (turning true).adu with slotMap := [(80, .draft), (81, .live 0), (1104, .draft)] } }).map
        (fun t => t.adu.slotMap) = some [(81, .live 0), (1104, .draft)] := by
  decide

theorem test_turnoverVisit :
    (after .turnoverVisit (turning false)).map (fun t => (t.adu.slotMap, t.adu.freeList, t.adu.bindings))
      = some ([], [1, 2, 0], []) := by
  decide

theorem test_resolve :
    (after .resolve (walked online e5 .resolve 610)).map
        (fun t => match t.adu.claim with | some (.lifecycle w _ _ _ _) => some w.change | _ => none) = some (some .release) := by
  decide

/-- A request waits while the walk's claim stands at the arbiter, and while the claim is in progress (R59). -/
theorem test_requestWaitsForTheWalk :
    (after .requestNew (withRequest (walked online e5 .resolve 610) 1)).map (·.adu.request.isSome) = some true
      ∧ ((after .resolve (withRequest (walked online e5 .resolve 610) 1)).bind (after .requestNew)).map
          (·.adu.request.isSome) = some true := by
  decide

/-- The sweep of an expiry worked after midnight asks for a note of the day that has begun (R142). -/
theorem test_sweepAfterMidnight :
    let noted : State := { withEntry run e5 with atu := { rooms := [(5, { note := some ⟨89, 600⟩, line := [] })] } }
    ((noted.sweepRoom 5).entry 0).map PoolEntry.presenceSeen = some false
      ∧ ((State.sweepRoom { noted with clock := { noted.clock with day := 89 } } 5).entry 0).map PoolEntry.presenceSeen = some true := by
  decide

theorem test_timeEnd :
    (after .timeEnd (walked online e5InUse .timeEndInUse 660)).map
        (fun t => match t.adu.claim with | some (.lifecycle w _ _ _ _) => some w.change | _ => none)
      = some (some (.ended .time)) := by
  decide

theorem test_vacancyEnd :
    (after .vacancyEnd (walked online e5InUse .vacancyEnd 615)).map
        (fun t => match t.adu.claim with | some (.lifecycle w _ _ _ _) => some w.change | _ => none)
      = some (some (.ended .vacant)) := by
  decide

theorem test_autoCheckin :
    (after .autoCheckin
        { walked run e5 .autoCheckin 600 with ctu := { run.ctu with directory := [(10, 0x07001E0C)] } }).map
        (fun t => match t.adu.claim with | some (.lifecycle w _ _ _ _) => some w.change | _ => none)
      = some (some (.checkin .auto)) := by
  decide

theorem test_panelEventTaken :
    (after .panelEventTaken { run with plu := { events := [⟨5, .end_, 0, 3⟩, ⟨4, .end_, 0, 1⟩] } }).map
        (fun t => (t.atu.panelEvent, t.plu.events)) = some (some ⟨5, .end_, 0, 3⟩, [⟨4, .end_, 0, 1⟩]) := by
  decide

/-- Check-in opens EARLY minutes before the start: at 595, not at 594. -/
theorem test_checkin :
    (after .checkin { withPanelEvent (withEntry run e5) .checkin 0 with clock := { run.clock with minute := 595 } }).map
        (fun t => t.adu.claim.isSome) = some true
      ∧ (after .checkin { withPanelEvent (withEntry run e5) .checkin 0 with clock := { run.clock with minute := 594 } }).map
          (fun t => (t.adu.claim.isSome, (t.panel 5).chime)) = some (false, .refuse) := by
  decide

theorem test_end :
    (after .endBooking (withPanelEvent (withEntry run e5) .end_ 0)).map
        (fun t => (t.adu.claim.isSome, (t.panel 5).chime, (t.roomState 5).refusal)) = some (false, .refuse, true) := by
  decide

theorem test_extend :
    (after .extend (withPanelEvent (withEntry run e5InUse) .extend 0)).map
        (fun t =>
          match t.adu.claim with
          | some (.admission _ (.writing ⟨_, _, .admitted e _⟩ _ _ _)) => some (e.start, e.stop)
          | _ => none) = some (some (600, 675)) := by
  decide

/-- A walk-up of 60 minutes at 544 before a booking from 560 is trimmed to 16 (chapter 5, worked sequence, step 5). -/
theorem test_booknow :
    (after .booknow
        { withPanelEvent (withEntry run { e5 with start := 560, stop := 600 }) .booknow 4 with
          clock := { run.clock with minute := 544 } }).map
        (fun t =>
          match t.adu.claim with
          | some (.admission a (.writing ⟨k, _, .admitted e _⟩ _ _ _)) => some (a.slot, e.start, e.stop, k)
          | _ => none) = some (some (some 0, 544, 560, { clash := true, trim := true })) := by
  decide

/-- Of three reports that came between claims the middle one alone falls in the check-in window: it counts. -/
theorem test_presenceReport :
    (after (.presenceReport 5)
        { withEntry run e5 with atu := { reports := [(5, [⟨90, 594⟩, ⟨90, 595⟩, ⟨90, 660⟩])] } }).map
        (fun t => ((t.entry 0).map (·.presenceSeen), (t.roomState 5).note, t.atu.reports))
      = some (some true, some ⟨90, 660⟩, []) := by
  decide

theorem test_returnNotice :
    (after (.returnNotice 5) { withEntry run e5 with atu := { returns := [(5, [⟨90, 604⟩])] } }).map
        (fun t => ((t.entry 0).map (·.deadline), (t.filter 5).lastPresent)) = some (some 614, some ⟨90, 604, .returned⟩) := by
  decide

/-- An error on an order record's write that was granted before a RESTART sets MEMERR. -/
theorem test_orphanedOrderWrite :
    ((after (.restart 0) (granting run .cqu true 0x410110)).bind (after (.memoryAccessComplete true false))).map
        (fun t => (t.ctu.phase, t.ctu.flags)) = some (.setup, 0x800) := by
  decide

theorem test_roundStart :
    (after (.roundStart 0) { run with plu := { loops := [(0, { positions := [(0, some ⟨1, 5⟩), (3, some ⟨2, 6⟩)] })] } }).map
        (fun t => ((t.loop 0).roundList, (t.loop 0).inRound)) = some ([(0, ⟨1, 5⟩), (3, ⟨2, 6⟩)], true) := by
  decide

theorem test_poll :
    (after (.poll 0) (inRound none 0 .stopped)).map
        (fun t => (t.loop 0).exchange.map fun x => (x.page, x.chime, x.frame.take 4, x.frame.length))
      = some (some (true, .warn, [0xC6, 0x01, 0x0B, 0x02], 70)) := by
  decide

theorem test_pollSent :
    (after (.pollSent 0) (inRound (some (exchange5 .sending)) 1 .stopped)).map
        (fun t => (t.loop 0).exchange.map (·.stage)) = some (some .waiting) := by
  decide

theorem test_replyStartBit :
    (after (.replyStartBit 0) (inRound (some (exchange5 .waiting)) 1 .stopped)).map
        (fun t => (t.loop 0).exchange.map (·.stage)) = some (some .receiving) := by
  decide

/-- The third miss in a row makes the panel OFFLINE. -/
theorem test_replyWaitExpiry :
    (after (.replyWaitExpiry 0) (inRound (some (exchange5 .waiting)) 1 .stopped)).map
        (fun t => ((t.panel 5).misses, (t.panel 5).online)) = some (3, false) := by
  decide

theorem test_replyGapExpiry :
    (after (.replyGapExpiry 0) (inRound (some (exchange5 .receiving)) 1 .stopped)).map
        (fun t => ((t.loop 0).exchange, (t.panel 5).misses)) = some (none, 3) := by
  decide

/-- The check value of the CRC: nine bytes "123456789" give 0x29B1 (section 12.6). -/
theorem test_crc : crc16 [0x31, 0x32, 0x33, 0x34, 0x35, 0x36, 0x37, 0x38, 0x39] = 0x29B1 := by
  decide

theorem test_reply :
    (after (.reply 0 (reply1 1 4 1000)) (inRound (some (exchange5 .receiving)) 1 .stopped)).map
        (fun t => (t.plu.events, (t.panel 5).lastTag, (t.panel 5).misses, (t.panel 5).dirty))
      = some ([⟨5, .checkin, 0, 4⟩], some 4, 0, false) := by
  decide

theorem test_roundEndAfterGap :
    (after (.roundEndAfterGap 0) (inRound none 1 (.running 2))).map (fun t => (t.loop 0).inRound) = some false := by
  decide

/-- Samples 1 to 6 of the worked sequence of chapter 8. -/
theorem test_filter_rises :
    let k : Sense := { run.sense 5 with average := 2, lowreset := 3 }
    let f := [1000, 1030, 1040, 1050, 1110, 1120].foldl (fun f c => Filter.sample f k c 90 535) ({} : Filter)
    (f.present, f.baseline, f.bucket, f.debounce, f.lastPresent) = (true, 1000, 50, 0, some ⟨90, 535, .sample⟩) := by
  decide

/-- Its samples 11 to 15: the drift, and the low reset. -/
theorem test_filter_falls :
    let k : Sense := { run.sense 5 with average := 2, lowreset := 3 }
    let f : Filter := { initDone := true, history := [1000, 1020], baseline := 1000, bucket := 90 }
    let g := f.sample k 1020 90 539
    let h := [980, 960, 960, 962].foldl (fun f c => Filter.sample f k c 90 702) g
    (g.baseline, g.bucket) = (1001, 0) ∧ (h.baseline, h.bucket, h.low, h.present) = (961, 0, 0, false) := by
  decide

theorem test_frameSent :
    (after .frameSent { run with klc := { link := .sending, stage := .onWire } }).map (fun t => (t.klc.link, t.klc.stage))
      = some (.awaiting, .quiet) := by
  decide

/-- An ACCEPT of the second of two tickets: the order is ACCEPTED and stays locked. -/
theorem test_kitchenAnswer :
    (after (.kitchenAnswer 0x5A3CC3A5 0 0 0 1 1)
        { awaiting .ticket .none 0 { order8 .sending with accepted := 1 } with
          mps := { run.mps with locked := [(8, true)] } }).map
        (fun t => ((t.orderEntry 8).map fun e => (e.state, e.accepted), t.klc.link, t.locked 8))
      = some (some (.accepted, 2), .idle, true) := by
  decide

/-- An attach notice of the order in flight takes it out of the context, and its frame is finished for nobody (R157). -/
theorem test_attachOfTheOrderInFlight :
    let s := withContext (withOrder run (order8 .sending)) .sending .ticket .release 0
    let t := { s with klc := { s.klc with stage := .onWire } }.notice (.attach 8 .today ⟨.bookA, 5, 1⟩ 700 695)
    (t.cqu.queue, t.cqu.recalls, t.klc.context, t.klc.stage, t.klc.finishing) = ([8], [], none, .onWire, true) := by
  decide

/-- The sync word 0x5A3CC3A5 begins on the line with a start bit and 0x5A from its least significant bit (R169). -/
theorem test_kitchenLine :
    ({ stage := .onWire, buffer := [syncWord] } : Klc).line.map (fun l => (l.length, l.take 10))
      = some (40, [.start, .data false, .data true, .data false, .data true, .data true, .data false, .data true,
          .data false, .stop]) := by
  decide

theorem test_frameResend :
    (after .frameResend { run with klc := { link := .sending, stage := .resendGap } }).map (fun t => t.klc.stage)
      = some .onWire := by
  decide

theorem test_answerWaitExpiry :
    (after .answerWaitExpiry (awaiting .ticket .none 0 (order8 .sending))).map
        (fun t => (t.klc.link, t.klc.halt, t.ctu.kitchenCause, (t.controlRead 22))) = some (.halted, .silent, true, 0x00000823) := by
  decide

theorem test_nextFrameGapEnd :
    (after .nextFrameGapEnd { run with klc := { link := .sending, stage := .assembled, gap := true } }).map
        (fun t => (t.klc.stage, t.klc.gap)) = some (.onWire, false) := by
  decide

/-- A host access while one is outstanding is the fault of log entry 6. -/
theorem test_hostBusBusy :
    exec (.hostAccessPass ⟨false, 0, 0, 15#4⟩) (withRequest run 1) = .fault .hostBusBusy := by
  rfl

/-- A step takes the front command; on an empty queue it idles. -/
theorem test_step :
    step { run with pending := [.tick, .requestNone] }
        = .next ((after .tick { run with pending := [.requestNone] }).getD run) ∧ step run = .next run := by
  exact ⟨rfl, rfl⟩

end Sys2Proof.Tests
end

/-! ### The host side at the end of a step

A host access to the Control Page changes the Control Unit, the host's place at the memory-side arbiter and the host-side port.
The end of a step reads none of these but the phase. -/

namespace Sys2Proof.Machine

/-- The state with the Control Unit, the host's waiting access and the host-side port replaced. -/
def State.withHostSide (s : State) (c : Ctu) (w : Option Access) (r : HostResult) : State :=
  { s with ctu := c, mps := { s.mps with waiting := { s.mps.waiting with host := w }, hostResult := r } }

section HostSide
variable (s : State) {c : Ctu} (w : Option Access) (r : HostResult)

/-- A passed or captured access after an act of the Control Unit. -/
theorem State.toMemory_eq_withHostSide (f : Ctu → Ctu) (a : HostAccess) :
    (s.onCtu f).toMemory a = s.withHostSide (f s.ctu) (some ⟨.host, a.write, a.addr, a.data, a.lanes⟩) .stalled := rfl

/-- An access that completes at once. -/
theorem State.completeHost_eq_withHostSide (data : Option Word) (error : Bool) :
    s.completeHost data error = s.withHostSide s.ctu s.mps.waiting.host (.done data error) := rfl

/-- A block of the part presents its access apart from the host side. -/
theorem State.present_withHostSide (a : Access) (ha : a.owner.requester ≠ .host) :
    (s.withHostSide c w r).present a = (s.present a).withHostSide c w r := by
  unfold State.present
  cases hq : a.owner.requester with
  | host => exact absurd hq ha
  | adu | cqu | klc | bsc => rfl

@[simp] theorem State.withHostSide_cqu : (s.withHostSide c w r).cqu = s.cqu := rfl
@[simp] theorem State.withHostSide_klc : (s.withHostSide c w r).klc = s.klc := rfl
@[simp] theorem State.withHostSide_adu : (s.withHostSide c w r).adu = s.adu := rfl
@[simp] theorem State.withHostSide_firstDue : (s.withHostSide c w r).firstDue = s.firstDue := rfl
@[simp] theorem State.withHostSide_claimAccess : (s.withHostSide c w r).claimAccess = s.claimAccess := rfl
@[simp] theorem State.withHostSide_orderEntry (o : OrderIx) : (s.withHostSide c w r).orderEntry o = s.orderEntry o := rfl
@[simp] theorem State.withHostSide_orderAddr (o : OrderIx) (n : Nat) :
    (s.withHostSide c w r).orderAddr o n = s.orderAddr o n := rfl
@[simp] theorem State.withHostSide_nextAssemblyRead (x : Context) (got : List Word) :
    (s.withHostSide c w r).nextAssemblyRead x got = s.nextAssemblyRead x got := rfl

/-- What a block of the part has outstanding does not depend on the host side. -/
theorem State.withHostSide_outstanding {q : Requester} (hq : q ≠ .host) :
    (s.withHostSide c w r).mps.outstanding q = s.mps.outstanding q := by
  cases q with
  | host => exact absurd rfl hq
  | adu | cqu | klc | bsc => rfl

/-- Deciding an order does not touch the host side; FAILED alone raises a cause of the Control Unit (R157). -/
theorem State.decideOrder_withHostSide (o : OrderIx) (e : OrderEntry) (he : e.state ≠ .failed) :
    (s.withHostSide c w r).decideOrder o e = (s.decideOrder o e).withHostSide c w r := by
  unfold State.decideOrder
  simp only [State.withHostSide_orderEntry]
  split
  · rfl
  · split
    · rfl
    · rfl

/-- The look for work reads the phase alone of the host side (R167). -/
theorem State.lookForWork_withHostSide (hc : c.phase = s.ctu.phase) :
    (s.withHostSide c w r).lookForWork = s.lookForWork.withHostSide c w r := by
  have hp : (s.withHostSide c w r).ctu.phase = s.ctu.phase := hc
  unfold State.lookForWork
  simp only [State.withHostSide_klc, State.withHostSide_cqu, State.withHostSide_firstDue, State.withHostSide_orderEntry, hp]
  split
  · cases s.cqu.recalls with
    | cons o rest => rfl
    | nil =>
      cases s.firstDue with
      | none => rfl
      | some o =>
        dsimp only
        split
        · rfl
        · next e _ =>
          exact congrArg (State.assemble · ⟨o, .ticket, e.accepted + 1, .none, 0⟩)
            ((s.unqueue o).decideOrder_withHostSide w r o { e with state := .sending } nofun)
  · rfl

theorem State.presentCqu_withHostSide : (s.withHostSide c w r).presentCqu = s.presentCqu.withHostSide c w r := by
  unfold State.presentCqu
  simp only [s.withHostSide_outstanding w r (q := .cqu) nofun, State.withHostSide_cqu, State.withHostSide_orderEntry,
    State.withHostSide_orderAddr]
  split
  · rfl
  · cases s.cqu.writing with
    | some p => dsimp only; split <;> rfl
    | none =>
      cases s.cqu.writeList with
      | nil => rfl
      | cons o rest => dsimp only; split <;> rfl

theorem State.presentKlc_withHostSide : (s.withHostSide c w r).presentKlc = s.presentKlc.withHostSide c w r := by
  unfold State.presentKlc
  simp only [s.withHostSide_outstanding w r (q := .klc) nofun, State.withHostSide_klc, State.withHostSide_nextAssemblyRead]
  split
  · rfl
  · cases s.klc.final with
    | cons x rest => rfl
    | nil =>
      dsimp only
      split
      · split <;> rfl
      · rfl

theorem State.presentTail_withHostSide : (s.withHostSide c w r).presentTail = s.presentTail.withHostSide c w r := by
  unfold State.presentTail
  simp only [s.withHostSide_outstanding w r (q := .adu) nofun, State.withHostSide_adu]
  split
  · split <;> rfl
  · rfl

theorem State.presentClaim_withHostSide : (s.withHostSide c w r).presentClaim = s.presentClaim.withHostSide c w r := by
  unfold State.presentClaim
  rw [State.withHostSide_claimAccess]
  cases h : s.claimAccess with
  | none => rfl
  | some a =>
    have ha : a.owner.requester ≠ .host := by rcases s.claimAccess_owner a h with ho | ho <;> rw [ho] <;> nofun
    simp only [s.withHostSide_outstanding w r ha, State.withHostSide_adu, s.present_withHostSide w r a ha]
    split <;> rfl

/-- The presentations of a step's end are made apart from the host side. -/
theorem presentAll_withHostSide (hc : c.phase = s.ctu.phase) :
    presentAll (s.withHostSide c w r) = (presentAll s).withHostSide c w r := by
  unfold presentAll
  rw [s.lookForWork_withHostSide w r hc, State.presentCqu_withHostSide, State.presentKlc_withHostSide,
    State.presentTail_withHostSide, State.presentClaim_withHostSide]

/-- They leave the host's place at the arbiter. -/
theorem presentAll_waiting_host : (presentAll s).mps.waiting.host = s.mps.waiting.host :=
  (congrArg (fun t => t.mps.waiting.host) (presentAll_withHostSide s s.mps.waiting.host s.mps.hostResult rfl) :)

/-- They leave the Control Unit. -/
theorem presentAll_ctu : (presentAll s).ctu = s.ctu := (congrArg State.ctu (presentAll_still s) :)

/-- What the end of the step then leaves alone: everything but the host-side port, and the Control Unit where it was
replaced. -/
theorem settle_withHostSide_changesOnly {ps : List Part} (hc : c.phase = s.ctu.phase) (hport : .hostPort ∈ ps)
    (hctu : .ctu ∈ ps ∨ c = s.ctu) : ChangesOnly ps s (settle (s.withHostSide c w r)) := by
  have hp := presentAll_withHostSide s w r hc
  have hcqu : (settle (s.withHostSide c w r)).cqu = (settle s).cqu := (congrArg State.cqu hp : _)
  have hklc : (settle (s.withHostSide c w r)).klc = (settle s).klc := (congrArg State.klc hp : _)
  have hlocked : (settle (s.withHostSide c w r)).mps.locked = (settle s).mps.locked := by
    unfold settle
    rw [hp, State.onMps_mps, State.onMps_mps, Mps.arbitrate_locked, Mps.arbitrate_locked]
    rfl
  refine ⟨fun a => by rw [settle_mem]; rfl, settle_pending _, fun h => absurd hport h, fun _ => ⟨?_, ?_, ?_⟩,
    fun h => ?_, fun _ => settle_clock _, fun _ => settle_adu _, fun _ => settle_bsc _, fun _ => settle_plu _,
    fun _ => settle_ocf _, fun _ => settle_atu _, fun _ => ⟨hcqu, hklc, hlocked⟩, fun _ => settle_resetAsserted _,
    fun _ => settle_freeCount _⟩
  · exact settle_mps_straps _
  · exact settle_mps_controlOn _
  · exact settle_mps_windows _
  · exact (settle_ctu _).trans (hctu.resolve_left h)

end HostSide

/-! ### An access that the Control Unit answers at once (R4, R5) -/

/-- A grant does not read what the host-side port shows. -/
theorem Mps.arbitrate_hostResult (m : Mps) (r : HostResult) :
    Mps.arbitrate { m with hostResult := r } = { m.arbitrate with hostResult := r } := by
  unfold Mps.arbitrate
  dsimp only
  split
  · rfl
  · split <;> rfl

/-- The end of a step commutes with the completion of a host access that needs no memory. -/
theorem settle_completeHost (s : State) (data : Option Word) (error : Bool) :
    settle (s.completeHost data error) = (settle s).completeHost data error := by
  have hp : presentAll (s.completeHost data error) = (presentAll s).completeHost data error := by
    rw [State.completeHost_eq_withHostSide, State.completeHost_eq_withHostSide, presentAll_withHostSide s _ _ rfl,
      presentAll_waiting_host, presentAll_ctu]
  unfold settle
  rw [hp]
  exact congrArg (fun m => { presentAll s with mps := m }) (Mps.arbitrate_hostResult _ _)

/-- It is of the host-side port alone, and gives rise to no access. -/
theorem settle_completeHost_frame (s : State) (data : Option Word) (error : Bool) :
    ChangesOnly [.hostPort] s (settle (s.completeHost data error)) ∧ ArbiterUntouched s (settle (s.completeHost data error))
      ∧ (settle (s.completeHost data error)).mps.hostResult = .done data error := by
  refine ⟨?_, ?_, settle_mps_hostResult _⟩
  · rw [State.completeHost_eq_withHostSide]
    exact settle_withHostSide_changesOnly s _ _ rfl (by decide) (.inr rfl)
  · rw [settle_completeHost]
    exact ⟨rfl, rfl⟩

/-! ### An access that is handed to the memory-side arbiter (R3) -/

/-- A host access that has been handed over stands at the arbiter. -/
theorem settle_toMemory_stands (s : State) (a : HostAccess) : HostAccessStands a (settle (s.toMemory a)) :=
  ⟨settle_mps_hostResult _,
    AccessStands.of_waiting (x := ⟨.host, a.write, a.addr, a.data, a.lanes⟩) (presentAll_waiting_host (s.toMemory a))⟩

/-- An act of the Control Unit that keeps the phase, and the write captured by it, touch the unit and the host side alone. -/
theorem settle_onCtu_toMemory_frame (s : State) (f : Ctu → Ctu) (a : HostAccess) (hf : (f s.ctu).phase = s.ctu.phase) :
    ChangesOnly [.hostPort, .ctu] s (settle ((s.onCtu f).toMemory a)) ∧ HostAccessStands a (settle ((s.onCtu f).toMemory a))
      ∧ (settle ((s.onCtu f).toMemory a)).ctu = f s.ctu := by
  refine ⟨?_, settle_toMemory_stands _ a, settle_ctu _⟩
  rw [State.toMemory_eq_withHostSide]
  exact settle_withHostSide_changesOnly s _ _ hf (by decide) (.inl (by decide))

/-! ### Host accesses to the Control Page (R1, R2, R5, R6) -/

/-- The byte address of a word of the Control Page; the page ends below 2^24 whatever the straps (R1). -/
theorem State.toNat_controlAddr (s : State) {n : Nat} (hn : n < 64) :
    (s.controlAddr n).toNat = s.mps.controlBase + 4 * n := by
  have hs := s.mps.straps.isLt
  unfold State.controlAddr addrAt Mps.controlBase
  rw [BitVec.toNat_ofNat]
  omega

/-- While the page is ON, the address of one of its words names that word (R2). -/
theorem State.target_controlAddr (s : State) (hon : s.mps.controlOn = true) {n : Nat} (hn : n < 64) :
    s.target (s.controlAddr n) = .control n := by
  have ha := s.toNat_controlAddr hn
  have ho : offsetIn s.mps.controlBase 0x100 (s.controlAddr n) = some (4 * n) := by
    unfold offsetIn
    rw [ha, if_pos (by omega), Nat.add_sub_cancel_left]
  unfold State.target
  rw [hon, ho]
  simp

/-- A host read of an interpreted word is answered at once; words 18 and 19 also lose marks by it (R5, R32). -/
theorem exec_controlRead (s : State) (hs : HostReady s) (data : Word) (lanes : Lanes) {n : Nat} (hn : n < 64)
    (hi : wordClass n ≠ .none) (h18 : n ≠ 18) (h19 : n ≠ 19) :
    exec (.hostAccessPass ⟨false, s.controlAddr n, data, lanes⟩) s
      = .next (settle (s.completeHost (some (s.controlRead n)) false)) := by
  obtain ⟨hfree, hon⟩ := hs
  have hr : s.hostTreat ⟨false, s.controlAddr n, data, lanes⟩ = s.completeHost (some (s.controlRead n)) false := by
    change s.hostRead _ = _
    unfold State.hostRead State.readControl
    rw [s.target_controlAddr hon hn]
    dsimp only
    rw [if_neg hi, if_neg (by omega)]
  rw [← hr]
  exact hostAccess_runs _ s hfree

/-- Such a read shows the word at the host-side port and does nothing else (R5). -/
theorem controlRead_runs (s : State) (hs : HostReady s) (data : Word) (lanes : Lanes) {n : Nat} (hn : n < 64)
    (hi : wordClass n ≠ .none) (h18 : n ≠ 18) (h19 : n ≠ 19) :
    Runs (.hostAccessPass ⟨false, s.controlAddr n, data, lanes⟩) s fun t =>
      ChangesOnly [.hostPort] s t ∧ ArbiterUntouched s t ∧ t.mps.hostResult = .done (some (s.controlRead n)) false :=
  ⟨_, exec_controlRead s hs data lanes hn hi h18 h19, settle_completeHost_frame s _ _⟩

/-- A host write to a word of the Control Page is treated by the word's class (R6). -/
theorem controlWrite_runs (s : State) (hs : HostReady s) (data : Word) (lanes : Lanes) {n : Nat} (hn : n < 64) :
    controlWrite n data lanes s = .next (settle (s.writeControl n (controlWriteAt s n data lanes))) := by
  obtain ⟨hfree, hon⟩ := hs
  have hw : s.hostTreat (controlWriteAt s n data lanes) = s.writeControl n (controlWriteAt s n data lanes) := by
    change s.hostWrite _ = _
    unfold State.hostWrite controlWriteAt
    rw [s.target_controlAddr hon hn]
  rw [← hw]
  exact hostAccess_runs _ s hfree

/-- A whole-word write to an action word acts (R6). -/
theorem State.writeControl_action (s : State) {n : Nat} {a : HostAccess} (hc : wordClass n = .action)
    (hl : a.lanes = allLanes) : s.writeControl n a = (s.act n a.data).toMemory a := by
  unfold State.writeControl
  rw [hc]
  exact if_pos hl

/-- A partial write to an action word sets PARTIAL (R7). -/
theorem State.writeControl_partial (s : State) {n : Nat} {a : HostAccess} (hc : wordClass n = .action)
    (hl : a.lanes ≠ allLanes) : s.writeControl n a = (s.setFlags flagPartial).toMemory a := by
  unfold State.writeControl
  rw [hc]
  exact if_neg hl

/-- A write to TRAP-ENABLE or INT-ENABLE is stored in any phase (R6). -/
theorem State.writeControl_anyPhase (s : State) {n : Nat} (a : HostAccess) (hc : wordClass n = .anyPhase) :
    s.writeControl n a = (s.storeSetting n a.data a.lanes).toMemory a := by
  unfold State.writeControl
  rw [hc]

/-! ### What the resets leave of the Control Unit (R16, R17) -/

/-- Hardware RESET runs to a state whose Control Unit stands at its reset values (R16). -/
theorem hardwareReset_runs (s : State) (straps : BitVec 3) {p : Ctu → Prop} (hp : p {}) :
    Runs (.hardwareReset straps) s fun t => p t.ctu :=
  ⟨settle (s.hardwareReset straps), rfl, (congrArg p (settle_ctu _)).mpr hp⟩

@[simp] theorem State.restartKlc_ctu (s : State) : s.restartKlc.ctu = s.ctu := by
  unfold State.restartKlc
  split <;> rfl

/-- RESTART keeps the Control Unit but for the phase and the running START (R17, R27). -/
theorem State.restart_ctu (s : State) : s.restart.ctu = { s.ctu with phase := .setup, runningStart := none } := by
  unfold State.restart
  dsimp only
  rw [State.restartKlc_ctu]

/-! ### Fields of a word -/

/-- The bits of a field of a word. -/
theorem testBit_bits (w : Word) (hi lo i : Nat) :
    (bits w hi lo).testBit i = (decide (i < hi + 1 - lo) && w.getLsbD (lo + i)) := by
  unfold bits
  rw [Nat.testBit_mod_two_pow, Nat.testBit_div_two_pow, Nat.add_comm i lo]
  rfl

/-- The bits of a word that holds a value from bit `lo` up. -/
theorem getLsbD_place (v lo i : Nat) :
    (place v lo).getLsbD i = (decide (i < 32) && (decide (lo ≤ i) && v.testBit (i - lo))) := by
  unfold place
  rw [BitVec.getLsbD_ofNat, Nat.testBit_mul_two_pow]

/-- The bits of a word with one bit. -/
theorem getLsbD_placeBit (b : Bool) (i k : Nat) (hk : k < 32) : (placeBit b i).getLsbD k = (b && decide (i = k)) := by
  cases b with
  | false => simp [placeBit]
  | true =>
    unfold placeBit place
    rw [if_pos rfl, BitVec.getLsbD_ofNat, Nat.one_mul, Nat.testBit_two_pow, decide_eq_true hk]

@[simp] theorem bits_zero (hi lo : Nat) : bits 0#32 hi lo = 0 := by simp [bits]

/-- A field of words laid over each other. -/
theorem bits_or (a b : Word) (hi lo : Nat) : bits (a ||| b) hi lo = bits a hi lo ||| bits b hi lo := by
  unfold bits
  rw [BitVec.toNat_or, Nat.or_div_two_pow, Nat.or_mod_two_pow]

/-- A field reads the value placed in it. -/
theorem bits_place {v hi lo : Nat} (hv : v < 2 ^ (hi + 1 - lo)) (hhi : hi < 32) : bits (place v lo) hi lo = v := by
  refine Nat.eq_of_testBit_eq fun i => ?_
  rw [testBit_bits, getLsbD_place, Nat.add_sub_cancel_left]
  by_cases hi' : i < hi + 1 - lo
  · simp [hi', show lo + i < 32 by omega]
  · have hle : v < 2 ^ i := Nat.lt_of_lt_of_le hv (Nat.pow_le_pow_right (by decide) (by omega))
    simp [Nat.testBit_lt_two_pow hle]

/-- A field reads nothing of a value that ends below it. -/
theorem bits_place_below {v lo hi lo' : Nat} (hv : v < 2 ^ (lo' - lo)) : bits (place v lo) hi lo' = 0 := by
  refine Nat.eq_of_testBit_eq fun i => ?_
  have hle : v < 2 ^ (lo' + i - lo) := Nat.lt_of_lt_of_le hv (Nat.pow_le_pow_right (by decide) (by omega))
  rw [testBit_bits, getLsbD_place, Nat.testBit_lt_two_pow hle]
  simp

/-- A field reads nothing of a value that begins above it. -/
theorem bits_place_above {v lo hi lo' : Nat} (h : hi < lo) : bits (place v lo) hi lo' = 0 := by
  refine Nat.eq_of_testBit_eq fun i => ?_
  rw [testBit_bits, getLsbD_place, Nat.zero_testBit]
  by_cases hi' : i < hi + 1 - lo'
  · simp [show ¬ lo ≤ lo' + i by omega]
  · simp [hi']

/-! ### The Trap Slot (R30, R31) -/

/-- A record presented to the EMPTY slot is stored (R30). -/
theorem State.presentTrap_empty (s : State) (r : TrapRecord) (h : s.ctu.trapSlot = none) :
    s.presentTrap r = { s with ctu := { s.ctu with trapSlot := some r } } := by
  unfold State.presentTrap
  rw [h]
  rfl

/-- A record presented to the FULL slot is lost with OVERRUN (R30). -/
theorem State.presentTrap_full (s : State) (r : TrapRecord) (h : s.ctu.trapSlot.isSome) :
    s.presentTrap r = { s with ctu := { s.ctu with flags := s.ctu.flags ||| 0x400 } } := by
  obtain ⟨q, hq⟩ := Option.isSome_iff_exists.1 h
  unfold State.presentTrap
  rw [hq]
  rfl

/-! ### Pending causes and INT (R34, R35) -/

/-- The four causes at their positions of word 17. -/
theorem Ctu.bit_pendingWord (c : Ctu) {k : Nat} (hk : k < 32) :
    bit c.pendingWord k =
      (c.trapSlot.isSome && decide (0 = k) || c.changes != 0 && decide (1 = k) || c.kitchenCause && decide (2 = k)
        || c.scanCause && decide (3 = k)) := by
  unfold bit Ctu.pendingWord
  simp only [BitVec.getLsbD_or, getLsbD_placeBit _ _ _ hk]

@[simp] theorem Ctu.bit_pendingWord_trap (c : Ctu) : bit c.pendingWord 0 = c.trapSlot.isSome := by
  simp [c.bit_pendingWord]

@[simp] theorem Ctu.bit_pendingWord_panel (c : Ctu) : bit c.pendingWord 1 = (c.changes != 0) := by
  simp [c.bit_pendingWord]

@[simp] theorem Ctu.bit_pendingWord_kitchen (c : Ctu) : bit c.pendingWord 2 = c.kitchenCause := by
  simp [c.bit_pendingWord]

@[simp] theorem Ctu.bit_pendingWord_scan (c : Ctu) : bit c.pendingWord 3 = c.scanCause := by
  simp [c.bit_pendingWord]

/-- No cause stands above bit 3 of word 17. -/
theorem Ctu.bit_pendingWord_high (c : Ctu) {k : Nat} (h4 : 4 ≤ k) (hk : k < 32) : bit c.pendingWord k = false := by
  have h0 : 0 ≠ k ∧ 1 ≠ k ∧ 2 ≠ k ∧ 3 ≠ k := by omega
  simp [c.bit_pendingWord hk, h0]

/-- INT is high exactly when one of the four causes is pending and enabled (R35). -/
theorem Ctu.intLine_iff (c : Ctu) :
    c.intLine = true ↔ ∃ k, k < 4 ∧ bit c.pendingWord k = true ∧ bit c.shadow.w16 k = true := by
  unfold Ctu.intLine
  rw [bne_iff_ne]
  constructor
  · intro hne
    refine Classical.byContradiction fun hall => hne (BitVec.eq_of_getLsbD_eq fun k hk => ?_)
    rw [BitVec.getLsbD_and, show BitVec.getLsbD (0 : Word) k = false from BitVec.getLsbD_zero]
    by_cases h4 : k < 4
    · have hnot : ¬ (bit c.pendingWord k = true ∧ bit c.shadow.w16 k = true) := fun hb => hall ⟨k, h4, hb⟩
      simpa [bit] using hnot
    · have hz : c.pendingWord.getLsbD k = false := c.bit_pendingWord_high (by omega) hk
      rw [hz, Bool.false_and]
  · rintro ⟨k, -, hp, he⟩ hz
    have hk : (c.pendingWord &&& c.shadow.w16).getLsbD k = true := by
      rw [BitVec.getLsbD_and, Bool.and_eq_true]
      exact ⟨hp, he⟩
    rw [hz] at hk
    simp at hk

/-- A whole-word write leaves nothing of the word before it. -/
@[simp] theorem mergeLanes_allLanes (old new : Word) : mergeLanes old new allLanes = new := by
  have hm : laneMask allLanes = BitVec.allOnes 32 := by decide
  unfold mergeLanes
  rw [hm, BitVec.and_allOnes, BitVec.not_allOnes, BitVec.and_zero, BitVec.or_zero]

/-- The enables that a whole-word INT-ENABLE write stores (R18, R35). -/
theorem bit_enables (data : Word) {k : Nat} (hk : k < 4) : bit (data &&& settingMask 16) k = bit data k := by
  have hm : ∀ i, i < 4 → (settingMask 16).getLsbD i = true := by decide
  unfold bit
  rw [BitVec.getLsbD_and, hm k hk, Bool.and_true]

/-! ### PHASE (R21) -/

theorem Phase.code_lt (p : Phase) : p.code < 2 ^ 2 := by cases p <;> decide
theorem PassKind.code_lt (k : PassKind) : k.code < 2 ^ 2 := by cases k <;> decide
theorem Book.code_lt (b : Book) : b.code < 2 ^ 1 := by cases b <;> decide

/-- While no pass runs, word 0 holds the phase alone. -/
theorem State.phaseWord_of_none (s : State) (h : s.bsc.pass = .none) : s.phaseWord = place s.ctu.phase.code 0 := by
  have h0 : place PassKind.none.code 4 = 0#32 := by decide
  unfold State.phaseWord
  rw [if_pos h, h, h0]
  simp

/-- While a pass runs, word 0 holds the cursor too. -/
theorem State.phaseWord_of_pass (s : State) (h : s.bsc.pass ≠ .none) :
    s.phaseWord = place s.ctu.phase.code 0 ||| place s.bsc.pass.code 4 |||
      (place s.bsc.cursor.book.code 8 ||| place s.bsc.cursor.room.val 16 ||| place s.bsc.cursor.slot.val 24) := by
  unfold State.phaseWord
  rw [if_neg h]

/-- The phase is read in bits 1 to 0. -/
theorem State.bits_phaseWord_phase (s : State) : bits s.phaseWord 1 0 = s.ctu.phase.code := by
  have hp : bits (place s.ctu.phase.code 0) 1 0 = s.ctu.phase.code := bits_place s.ctu.phase.code_lt (by decide)
  by_cases h : s.bsc.pass = .none
  · rw [s.phaseWord_of_none h, hp]
  · rw [s.phaseWord_of_pass h]
    simp [bits_or, bits_place_above, hp]

/-- The pass kind is read in bits 5 to 4. -/
theorem State.bits_phaseWord_pass (s : State) : bits s.phaseWord 5 4 = s.bsc.pass.code := by
  have hp : bits (place s.ctu.phase.code 0) 5 4 = 0 := bits_place_below (Nat.lt_trans s.ctu.phase.code_lt (by decide))
  by_cases h : s.bsc.pass = .none
  · rw [s.phaseWord_of_none h, hp, h]
    rfl
  · rw [s.phaseWord_of_pass h]
    simp [bits_or, bits_place_above, hp, bits_place (hi := 5) (lo := 4) s.bsc.pass.code_lt]

/-- The cursor reads zero while no pass runs. -/
theorem State.bits_phaseWord_idle (s : State) (h : s.bsc.pass = .none) : bits s.phaseWord 31 8 = 0 := by
  rw [s.phaseWord_of_none h]
  exact bits_place_below (Nat.lt_trans s.ctu.phase.code_lt (by decide))

/-- While a pass runs, the cursor's book, room and slot are read in bit 8, bits 21 to 16 and bits 27 to 24. -/
theorem State.bits_phaseWord_cursor (s : State) (h : s.bsc.pass ≠ .none) :
    bits s.phaseWord 8 8 = s.bsc.cursor.book.code ∧ bits s.phaseWord 21 16 = s.bsc.cursor.room.val
      ∧ bits s.phaseWord 27 24 = s.bsc.cursor.slot.val := by
  have hphase : s.ctu.phase.code < 2 ^ 8 := Nat.lt_trans s.ctu.phase.code_lt (by decide)
  have hpass : s.bsc.pass.code < 2 ^ 4 := Nat.lt_trans s.bsc.pass.code_lt (by decide)
  have hbook := s.bsc.cursor.book.code_lt
  have hroom : s.bsc.cursor.room.val < 2 ^ 6 := s.bsc.cursor.room.isLt
  have hslot : s.bsc.cursor.slot.val < 2 ^ 4 := s.bsc.cursor.slot.isLt
  rw [s.phaseWord_of_pass h]
  simp only [bits_or]
  refine ⟨?_, ?_, ?_⟩
  · rw [bits_place_below hphase, bits_place_below hpass, bits_place hbook (by decide), bits_place_above (by decide),
      bits_place_above (by decide)]
    simp
  · rw [bits_place_below (Nat.lt_trans hphase (by decide)), bits_place_below (Nat.lt_trans hpass (by decide)),
      bits_place_below (Nat.lt_trans hbook (by decide)), bits_place hroom (by decide), bits_place_above (by decide)]
    simp
  · rw [bits_place_below (Nat.lt_trans hphase (by decide)), bits_place_below (Nat.lt_trans hpass (by decide)),
      bits_place_below (Nat.lt_trans hbook (by decide)), bits_place_below (Nat.lt_trans hroom (by decide)),
      bits_place hslot (by decide)]
    simp

/-- The pass of WALKING (R21). -/
theorem PhaseAgrees.pass_of_walking {s : State} (h : PhaseAgrees s) (hp : s.ctu.phase = .walking) :
    s.bsc.pass = .clean ∨ s.bsc.pass = .keep := by
  unfold PhaseAgrees at h
  rw [hp] at h
  exact h.2.2

/-- The pass of RUNNING, if any (R21). -/
theorem PhaseAgrees.pass_of_running {s : State} (h : PhaseAgrees s) (hp : s.ctu.phase = .running) :
    s.bsc.pass = .none ∨ s.bsc.pass = .turnover := by
  unfold PhaseAgrees at h
  rw [hp] at h
  exact h.2.2

/-! ### Writes of the Control Unit's words (R7, R31, R35) -/

/-- A whole-word TRAP-TAKEN write empties the slot (R31). -/
theorem trapTakenWrite_runs (s : State) (hs : HostReady s) (data : Word) :
    Runs (.trapTaken data) s fun t =>
      ChangesOnly [.hostPort, .ctu] s t ∧ HostAccessStands (controlWriteAt s 11 data 15#4) t
        ∧ t.ctu = { s.ctu with trapSlot := none } := by
  have hrun := controlWrite_runs s hs data allLanes (n := 11) (by decide)
  rw [s.writeControl_action (by decide) rfl] at hrun
  exact ⟨_, hrun, settle_onCtu_toMemory_frame s _ _ rfl⟩

/-- A partial write to an action word sets PARTIAL and does nothing else (R7). -/
theorem partialActionWrite_runs (s : State) (hs : HostReady s) (n : Fin 64) (data : Word) {lanes : Lanes}
    (hn : wordClass n.val = .action) (hl : lanes ≠ 15#4) :
    Runs (.partialActionWrite n data lanes) s fun t =>
      ChangesOnly [.hostPort, .ctu] s t ∧ HostAccessStands (controlWriteAt s n.val data lanes) t
        ∧ t.ctu = { s.ctu with flags := s.ctu.flags ||| 0x200 } := by
  have hrun := controlWrite_runs s hs data lanes n.isLt
  rw [s.writeControl_partial hn hl] at hrun
  exact ⟨_, hrun, settle_onCtu_toMemory_frame s _ _ rfl⟩

/-- The setting that a whole-word INT-ENABLE write stores (R18). -/
theorem State.storeSetting_intEnable (s : State) (data : Word) :
    s.storeSetting 16 data allLanes
      = s.onCtu fun c => { c with shadow := { c.shadow with w16 := data &&& settingMask 16 } } := by
  unfold State.storeSetting
  rw [mergeLanes_allLanes]
  rfl

/-- A whole-word INT-ENABLE write stores the four enables, in any phase (R6, R18). -/
theorem intEnableWrite_runs (s : State) (hs : HostReady s) (data : Word) :
    Runs (.intEnableWrite data 15#4) s fun t =>
      ChangesOnly [.hostPort, .ctu] s t ∧ HostAccessStands (controlWriteAt s 16 data 15#4) t
        ∧ t.ctu = { s.ctu with shadow := { s.ctu.shadow with w16 := data &&& settingMask 16 } } := by
  have hstore : s.writeControl 16 (controlWriteAt s 16 data allLanes)
      = (s.storeSetting 16 data allLanes).toMemory (controlWriteAt s 16 data allLanes) :=
    s.writeControl_anyPhase _ (by decide)
  rw [State.storeSetting_intEnable] at hstore
  have hrun := controlWrite_runs s hs data allLanes (n := 16) (by decide)
  rw [hstore] at hrun
  exact ⟨_, hrun, settle_onCtu_toMemory_frame s _ _ rfl⟩

/-! ### The obligations -/

/-- Settles O13: a record and a TRAP-TAKEN write meet at the slot by `State.presentTrap_empty` and `State.presentTrap_full`;
the host accesses follow from the frames of the end of a step. -/
theorem trapSlotHoldsOneRecord : Obligations.TrapSlotHoldsOneRecord := by
  refine ⟨fun s data lanes hs => ⟨fun n hn => ?_, trapTakenWrite_runs s hs data, fun hl => ?_,
      fun r => ⟨fun hfull => ⟨?_, ?_⟩, fun hempty => ⟨?_, ?_⟩⟩⟩,
    fun s r straps => ⟨s.presentTrap_empty r, s.presentTrap_full r, by rw [Ctu.bit_pendingWord_trap],
      hardwareReset_runs s straps (p := fun c => c.trapSlot = none) rfl, by rw [State.restart_ctu]⟩⟩
  · have hword : n < 64 ∧ wordClass n ≠ .none ∧ n ≠ 18 ∧ n ≠ 19 := by
      revert n
      decide
    obtain ⟨hlt, hclass, h18, h19⟩ := hword
    obtain ⟨t, hrun, hframe, -, hresult⟩ := controlRead_runs s hs data lanes hlt hclass h18 h19
    refine ⟨t, hrun, hframe, hresult.trans ?_⟩
    simp only [List.mem_cons, List.not_mem_nil, or_false] at hn
    unfold State.controlRead
    cases s.ctu.trapSlot with
    | none => rcases hn with rfl | rfl | rfl | rfl | rfl <;> rfl
    | some q => rcases hn with rfl | rfl | rfl | rfl | rfl <;> rfl
  · obtain ⟨t, hrun, hframe, -, hctu⟩ := partialActionWrite_runs s hs 11 data (by decide) hl
    exact ⟨t, hrun, hframe, hctu⟩
  · rw [s.trapTaken.presentTrap_empty r rfl]
    rfl
  · rw [s.presentTrap_full r hfull]
    rfl
  · rw [s.trapTaken.presentTrap_empty r rfl]
    rfl
  · rw [s.presentTrap_empty r hempty]
    exact congrArg (fun x => { s.ctu with trapSlot := x }) hempty.symm

/-- Settles O14: the read is answered with `State.phaseWord`, whose fields are read off one by one; which pass kinds a phase
has is `PhaseAgrees`. -/
theorem phaseWordReads : Obligations.PhaseWordReads := by
  refine ⟨fun s data lanes hs hagree => ?_, by decide, fun s => ?_⟩
  · obtain ⟨t, hrun, hframe, harbiter, hresult⟩ :=
      controlRead_runs s hs data lanes (n := 0) (by decide) (by decide) (by decide) (by decide)
    refine ⟨t, hrun, hframe, harbiter, s.phaseWord, hresult, ?_, ?_, s.bits_phaseWord_idle,
      fun h => ?_, fun h => ?_, fun h => ?_⟩
    · rw [s.bits_phaseWord_phase]
      cases s.ctu.phase <;> rfl
    · rw [s.bits_phaseWord_pass]
      cases s.bsc.pass <;> rfl
    · obtain ⟨hbook, hroom, hslot⟩ := s.bits_phaseWord_cursor h
      refine ⟨?_, hroom, hslot⟩
      rw [hbook]
      cases s.bsc.cursor.book <;> rfl
    · rw [s.bits_phaseWord_pass]
      exact (hagree.pass_of_walking h).imp (congrArg PassKind.code) (congrArg PassKind.code)
    · rw [s.bits_phaseWord_pass]
      exact (hagree.pass_of_running h).symm.imp (congrArg PassKind.code) (congrArg PassKind.code)
  · have hphase : s.restart.ctu.phase = .setup := by rw [State.restart_ctu]
    have hpass : s.restart.bsc.pass = .none := rfl
    change s.restart.phaseWord = 0
    rw [s.restart.phaseWord_of_none hpass, hphase]
    rfl

/-- Settles O16: INT is read off word 17 and word 16 cause by cause (`Ctu.intLine_iff`), and the resets and the write are
what they make of those two words. -/
theorem intFollowsPendingAndEnabled : Obligations.IntFollowsPendingAndEnabled := by
  refine fun s straps data => ⟨?_, fun hs => ?_,
    hardwareReset_runs s straps (p := fun c => c.pendingWord = 0 ∧ c.shadow.w16 = 0 ∧ c.intLine = false) (by decide), ?_⟩
  · rw [Ctu.intLine_iff]
    simp only [Nat.exists_lt_succ_right, or_assoc]
    simp
  · obtain ⟨t, hrun, -, -, hctu⟩ := intEnableWrite_runs s hs data
    refine ⟨t, hrun, t.ctu.intLine_iff.trans ?_⟩
    rw [hctu]
    refine exists_congr fun k => and_congr_right fun hk => ?_
    rw [bit_enables data hk]
    rfl
  · rw [State.restart_ctu]
    exact ⟨rfl, rfl, rfl⟩

end Sys2Proof.Machine
